-- ==== Sys2Proof/Word.lean ====
section
/-! DEFINITION. Words, and the plainest arithmetic on them. -/
namespace Sys2Proof

/-- One byte of memory. -/
abbrev Byte := BitVec 8

/-- A scalar register or control register (R203, R213). -/
abbrev W64 := BitVec 64

/-- A machine word of 32 bits, and a halfword. -/
abbrev W32 := BitVec 32
abbrev W16 := BitVec 16

/-- The number of a scalar register g0-g31. -/
abbrev GReg := BitVec 5

/-- A 6-bit field of the vector formats (R13): a vector register, mask, tile, window or counter. -/
abbrev Fld6 := BitVec 6

end Sys2Proof
end

