-- ==== Sys2Proof/Config.lean ====
section
/-! DEFINITION. What the spec leaves open as a VALUE: opaque constants with no body, and the architectural constants of R1, R4. -/
namespace Sys2Proof.Config

/-- Free value (R230, R234): the n-th output of the physical noise source. Nothing is known of it. (DESIGN CHOICE, log 7.) -/
opaque noise : Nat → W16

/-- Free value (R170, R95, R195): a byte the spec calls not defined, as a function of a seed and an address. (DESIGN CHOICE, log 7.) -/
opaque freeByte : Nat → Nat → Byte

/-- Free value (R281): the quotient of XRound under a value of XRM that R213 names no rounding for. (DESIGN CHOICE, log 7.) -/
opaque xrmFree : W64 → Int → Nat → Int

/-- Free value (R419): the RSA-3072 signature of a message under the module's identity key, which never leaves die 0. (DESIGN CHOICE, log 7.) -/
opaque sign : List Byte → List Byte

/-- Free value (R419): the SHA-256 digest of the boot ROM's contents, which the spec does not give. (DESIGN CHOICE, log 7.) -/
opaque romDigest : List Byte

/-- Free value (R351): whether a sum of TOPK that overflows FP32 becomes an infinity or the largest finite number, which the spec does not say. (DESIGN CHOICE, log 7.) -/
opaque topkInf : Bool

/-- Free value (R338): COUNT and AUX of a completion word where the command's rules state none, as a function of a seed. (DESIGN CHOICE, log 7.) -/
opaque freeResult : Nat → Nat

/-- Free value (R392): the SECDED syndrome in AUX of an error record of class 1 or 2, whose code the spec does not give; a function of the line and of the die's HEAD. (DESIGN CHOICE, log 7.) -/
opaque syndrome : Nat → Nat → Nat

/-- Queue depths, architectural constants (R4). -/
def vqDepth : Nat := 32
def mqDepth : Nat := 16
def lqDepth : Nat := 32
def eqDepth : Nat := 16

/-- Chamber bytes per core (R45). -/
def chamberBytes : Nat := 0x600000

/-- Populated DRAM bytes per die (R28). -/
def dramBytes : Nat := 0x600000000

end Sys2Proof.Config
end

