-- ==== Sys2Proof/Syntax.lean ====
section
/-! DEFINITION. The syntax: one constructor per row of spec/opcode_table.json. The rows with an instruction word carry its operand fields
as the formats of R11, R13, R17 lay them out (a field an instruction declares ignored is kept); the rows without a word are the steps of the
other agents (engines, schedulers, management, host), and carry what that agent brings. -/
namespace Sys2Proof

/-- A 64-byte command record as an engine receives it from `enq` (R337), with the hart on whose behalf it runs (R39): its 64 bytes as one
little-endian number, the partition, the ASID, the issuing die and hart and its gang, and whether that hart was in user mode; how many fences had completed before
its `enq` (R94, R108, R109); and, as the command runs, the block bytes of its namespace (R353) and whether a link that failed ended its accesses to peers (R413). -/
structure Command where
  bytes : BitVec 512
  part : Nat
  asid : Nat
  die : Nat
  hart : Nat
  gang : Nat
  user : Bool
  mark : Nat := 0
  block : Nat := 0
  cut : Bool := false
deriving DecidableEq, Repr

/-- A command written to SCMD of a die (R378), whether management wrote it, and otherwise the partition of the hart that did (R252). -/
structure SchedCmd where
  die : Nat
  asid : Nat
  done : W64
  mgmt : Bool
  part : Nat := 0
deriving DecidableEq, Repr

/-- What a patrol scrub finds in a line (R54): nothing, an error it corrects, or an uncorrectable one. -/
inductive ScrubFind where
  | clean
  | corrected
  | uncorrectable
deriving DecidableEq, Repr

/-- An address as the outside names it: the host function whose BAR2 it goes through (R412), or the path on which a peer comes (R413), and the PA. -/
structure OuterAddr where
  via : Nat
  pa : Nat
deriving DecidableEq, Repr

/-- What a drive hands over with a completion: the bytes of a read, and where the watchdog of an SRD that decodes them cuts in: after so many chunks and bytes (R349). -/
structure DriveData where
  bytes : List Byte
  cut : Option (Nat × Nat)
deriving DecidableEq, Repr

/-- A word or a part that fails self-test (R393, R394): its die, its core where it is one of a core's, POINT and ADDR of its record. -/
structure FailedPart where
  die : Nat
  core : Option Nat
  point : Nat
  addr : Nat
deriving DecidableEq, Repr

/-- What a start of the module meets (R417): the image that was verified, the outcome of each check, and the parts found faulty: dies, cores
(16 · die + core), stacks, the host link, links of a mesh (the two dies each joins), Grehal links; `failed` names what failed self-test. -/
structure BootReport where
  image : List Byte
  signatureOk : Bool
  versionOk : Bool
  badDies : List Nat
  badCores : List Nat
  badStacks : List Nat
  badHostLink : Bool
  badMesh : List (Nat × Nat)
  badGrehal : List Nat
  watchdog : Bool
  failed : List FailedPart
deriving DecidableEq, Repr

/-- The instructions and events, one per row of the opcode table. -/
inductive Instr where
  /-- ADD: Writes g[A] + g[B], wrapping, to g[D] (R237). -/
  | add (b : GReg) (a : GReg) (d : GReg)
  /-- SUB: Writes g[A] - g[B], wrapping, to g[D] (R237). -/
  | sub (b : GReg) (a : GReg) (d : GReg)
  /-- AND: Writes the bitwise AND of g[A] and g[B] to g[D] (R237). -/
  | and (b : GReg) (a : GReg) (d : GReg)
  /-- OR: Writes the bitwise OR of g[A] and g[B] to g[D] (R237). -/
  | or (b : GReg) (a : GReg) (d : GReg)
  /-- XOR: Writes the bitwise XOR of g[A] and g[B] to g[D] (R237). -/
  | xor (b : GReg) (a : GReg) (d : GReg)
  /-- SLL: Shifts g[A] left by g[B][5:0] (R237). -/
  | sll (b : GReg) (a : GReg) (d : GReg)
  /-- SRL: Shifts g[A] right by g[B][5:0], with zeros entering (R237). -/
  | srl (b : GReg) (a : GReg) (d : GReg)
  /-- SRA: Shifts g[A] right arithmetically by g[B][5:0] (R237). -/
  | sra (b : GReg) (a : GReg) (d : GReg)
  /-- SLT: Writes 1 to g[D] if g[A] < g[B] signed, else 0 (R237). -/
  | slt (b : GReg) (a : GReg) (d : GReg)
  /-- SLTU: Writes 1 to g[D] if g[A] < g[B] unsigned, else 0 (R237). -/
  | sltu (b : GReg) (a : GReg) (d : GReg)
  /-- MIN: Writes the signed minimum of g[A] and g[B] (R237). -/
  | min (b : GReg) (a : GReg) (d : GReg)
  /-- MAX: Writes the signed maximum of g[A] and g[B] (R237). -/
  | max (b : GReg) (a : GReg) (d : GReg)
  /-- MINU: Writes the unsigned minimum of g[A] and g[B] (R237). -/
  | minu (b : GReg) (a : GReg) (d : GReg)
  /-- MAXU: Writes the unsigned maximum of g[A] and g[B] (R237). -/
  | maxu (b : GReg) (a : GReg) (d : GReg)
  /-- MUL: Writes bits 63:0 of g[A]·g[B] (R237). -/
  | mul (b : GReg) (a : GReg) (d : GReg)
  /-- MULH: Writes the upper 64 bits of the signed 128-bit product (R237). -/
  | mulh (b : GReg) (a : GReg) (d : GReg)
  /-- MULHU: Writes the upper 64 bits of the unsigned 128-bit product (R237). -/
  | mulhu (b : GReg) (a : GReg) (d : GReg)
  /-- DIV: Writes the signed quotient rounded toward zero, never trapping (R238). -/
  | div (b : GReg) (a : GReg) (d : GReg)
  /-- DIVU: Writes the unsigned quotient, never trapping (R238). -/
  | divu (b : GReg) (a : GReg) (d : GReg)
  /-- REM: Writes the signed remainder with the sign of g[A] (R238). -/
  | rem (b : GReg) (a : GReg) (d : GReg)
  /-- REMU: Writes the unsigned remainder (R238). -/
  | remu (b : GReg) (a : GReg) (d : GReg)
  /-- CLZ: Writes the count of leading zero bits of g[A] (R237). -/
  | clz (a : GReg) (d : GReg)
  /-- CTZ: Writes the count of trailing zero bits of g[A] (R237). -/
  | ctz (a : GReg) (d : GReg)
  /-- POPC: Writes the number of one bits of g[A] (R237). -/
  | popc (a : GReg) (d : GReg)
  /-- ADDI: Adds a sign-extended 14-bit immediate to g[A] (R239). -/
  | addi (imm : BitVec 14) (a : GReg) (d : GReg)
  /-- ADDI_64: 64-bit form of addi, with IMM32 as the immediate (R239). -/
  | addiLong (a : GReg) (d : GReg) (imm32 : W32)
  /-- ANDI: ANDs g[A] with a sign-extended immediate (R239). -/
  | andi (imm : BitVec 14) (a : GReg) (d : GReg)
  /-- ANDI_64: 64-bit form of andi, with IMM32 as the immediate (R239). -/
  | andiLong (a : GReg) (d : GReg) (imm32 : W32)
  /-- ORI: ORs g[A] with a sign-extended immediate (R239). -/
  | ori (imm : BitVec 14) (a : GReg) (d : GReg)
  /-- ORI_64: 64-bit form of ori, with IMM32 as the immediate (R239). -/
  | oriLong (a : GReg) (d : GReg) (imm32 : W32)
  /-- XORI: XORs g[A] with a sign-extended immediate (R239). -/
  | xori (imm : BitVec 14) (a : GReg) (d : GReg)
  /-- XORI_64: 64-bit form of xori, with IMM32 as the immediate (R239). -/
  | xoriLong (a : GReg) (d : GReg) (imm32 : W32)
  /-- SLTI: Writes 1 if g[A] is below the signed immediate, else 0 (R239). -/
  | slti (imm : BitVec 14) (a : GReg) (d : GReg)
  /-- SLTI_64: 64-bit form of slti, with IMM32 as the immediate (R239). -/
  | sltiLong (a : GReg) (d : GReg) (imm32 : W32)
  /-- SLLI: Shifts g[A] left by the constant SH (R240). -/
  | slli (sh : BitVec 6) (a : GReg) (d : GReg)
  /-- SRLI: Shifts g[A] right logically by the constant SH (R240). -/
  | srli (sh : BitVec 6) (a : GReg) (d : GReg)
  /-- SRAI: Shifts g[A] right arithmetically by the constant SH (R240). -/
  | srai (sh : BitVec 6) (a : GReg) (d : GReg)
  /-- LIH: Loads a sign-extended immediate into g[D] (R239). -/
  | lih (imm : BitVec 14) (d : GReg)
  /-- LIH_64: 64-bit form of lih, loading IMM32 sign-extended (R239). -/
  | lihLong (d : GReg) (imm32 : W32)
  /-- LIW: Sets the upper 32 bits from the immediate and the lower 32 from g[A] (R239). -/
  | liw (imm : BitVec 14) (a : GReg) (d : GReg)
  /-- LIW_64: 64-bit form of liw, with IMM32 as the upper word (R239). -/
  | liwLong (a : GReg) (d : GReg) (imm32 : W32)
  /-- LD_B: Loads a sign-extended byte (R147). -/
  | ldB (imm : BitVec 10) (a : GReg) (d : GReg)
  /-- LD_B_64: 64-bit form of ld.b with an IMM32 byte displacement (R147). -/
  | ldBLong (a : GReg) (d : GReg) (imm32 : W32)
  /-- LD_BU: Loads a zero-extended byte (R147). -/
  | ldBu (imm : BitVec 10) (a : GReg) (d : GReg)
  /-- LD_BU_64: 64-bit form of ld.bu (R147). -/
  | ldBuLong (a : GReg) (d : GReg) (imm32 : W32)
  /-- LD_H: Loads a sign-extended halfword (R147). -/
  | ldH (imm : BitVec 10) (a : GReg) (d : GReg)
  /-- LD_H_64: 64-bit form of ld.h (R147). -/
  | ldHLong (a : GReg) (d : GReg) (imm32 : W32)
  /-- LD_HU: Loads a zero-extended halfword (R147). -/
  | ldHu (imm : BitVec 10) (a : GReg) (d : GReg)
  /-- LD_HU_64: 64-bit form of ld.hu (R147). -/
  | ldHuLong (a : GReg) (d : GReg) (imm32 : W32)
  /-- LD_W: Loads a sign-extended word (R147). -/
  | ldW (imm : BitVec 10) (a : GReg) (d : GReg)
  /-- LD_W_64: 64-bit form of ld.w (R147). -/
  | ldWLong (a : GReg) (d : GReg) (imm32 : W32)
  /-- LD_WU: Loads a zero-extended word (R147). -/
  | ldWu (imm : BitVec 10) (a : GReg) (d : GReg)
  /-- LD_WU_64: 64-bit form of ld.wu (R147). -/
  | ldWuLong (a : GReg) (d : GReg) (imm32 : W32)
  /-- LD_D: Loads a doubleword as two independent locations (R147). -/
  | ldD (imm : BitVec 10) (a : GReg) (d : GReg)
  /-- LD_D_64: 64-bit form of ld.d (R147). -/
  | ldDLong (a : GReg) (d : GReg) (imm32 : W32)
  /-- LD_D_A8: Loads a doubleword as one single-copy atomic event (R147). -/
  | ldDA8 (imm : BitVec 10) (a : GReg) (d : GReg)
  /-- LD_D_A8_64: 64-bit form of ld.d.a8 (R147). -/
  | ldDA8Long (a : GReg) (d : GReg) (imm32 : W32)
  /-- ST_B: Stores the low byte of g[D] (R147). -/
  | stB (imm : BitVec 10) (a : GReg) (d : GReg)
  /-- ST_B_64: 64-bit form of st.b (R147). -/
  | stBLong (a : GReg) (d : GReg) (imm32 : W32)
  /-- ST_H: Stores the low halfword of g[D] (R147). -/
  | stH (imm : BitVec 10) (a : GReg) (d : GReg)
  /-- ST_H_64: 64-bit form of st.h (R147). -/
  | stHLong (a : GReg) (d : GReg) (imm32 : W32)
  /-- ST_W: Stores the low word of g[D] (R147). -/
  | stW (imm : BitVec 10) (a : GReg) (d : GReg)
  /-- ST_W_64: 64-bit form of st.w (R147). -/
  | stWLong (a : GReg) (d : GReg) (imm32 : W32)
  /-- ST_D: Stores g[D] as two independent locations (R147). -/
  | stD (imm : BitVec 10) (a : GReg) (d : GReg)
  /-- ST_D_64: 64-bit form of st.d (R147). -/
  | stDLong (a : GReg) (d : GReg) (imm32 : W32)
  /-- ST_D_A8: Stores g[D] as one atomic 8-byte event (R147). -/
  | stDA8 (imm : BitVec 10) (a : GReg) (d : GReg)
  /-- ST_D_A8_64: 64-bit form of st.d.a8 (R147). -/
  | stDA8Long (a : GReg) (d : GReg) (imm32 : W32)
  /-- LD_Q_A16: Loads 16 bytes atomically into the register pair D, D+1 (R147). -/
  | ldQA16 (imm : BitVec 10) (a : GReg) (d : GReg)
  /-- LD_Q_A16_64: 64-bit form of ld.q.a16 (R147). -/
  | ldQA16Long (a : GReg) (d : GReg) (imm32 : W32)
  /-- ST_Q_A16: Stores the register pair D, D+1 atomically as 16 bytes (R147). -/
  | stQA16 (imm : BitVec 10) (a : GReg) (d : GReg)
  /-- ST_Q_A16_64: 64-bit form of st.q.a16 (R147). -/
  | stQA16Long (a : GReg) (d : GReg) (imm32 : W32)
  /-- LD_A: Acquire load of 1 to 16 bytes at a scope, zero-extended (R150). -/
  | ldA (sz : BitVec 3) (sc : BitVec 3) (a : GReg) (d : GReg)
  /-- LD_A_64: 64-bit form of ld.a with an IMM32 displacement (R150). -/
  | ldALong (sz : BitVec 3) (sc : BitVec 3) (a : GReg) (d : GReg) (imm32 : W32)
  /-- ST_R: Release store of 1 to 16 bytes at a scope (R150). -/
  | stR (sz : BitVec 3) (sc : BitVec 3) (a : GReg) (d : GReg)
  /-- ST_R_64: 64-bit form of st.r with an IMM32 displacement (R150). -/
  | stRLong (sz : BitVec 3) (sc : BitVec 3) (a : GReg) (d : GReg) (imm32 : W32)
  /-- AMO_ADD: Atomic wrapping add of 4 or 8 bytes at the home, returning the old value (R153). -/
  | amoAdd (od : BitVec 2) (sc : BitVec 3) (b : GReg) (a : GReg) (d : GReg) (wide : Bool)
  /-- AMO_ADD_64: 64-bit form of amo.add (R153). -/
  | amoAddLong (od : BitVec 2) (sc : BitVec 3) (b : GReg) (a : GReg) (d : GReg) (wide : Bool) (imm32 : W32)
  /-- AMO_AND: Atomic AND at the home (R153). -/
  | amoAnd (od : BitVec 2) (sc : BitVec 3) (b : GReg) (a : GReg) (d : GReg) (wide : Bool)
  /-- AMO_AND_64: 64-bit form of amo.and (R153). -/
  | amoAndLong (od : BitVec 2) (sc : BitVec 3) (b : GReg) (a : GReg) (d : GReg) (wide : Bool) (imm32 : W32)
  /-- AMO_OR: Atomic OR at the home (R153). -/
  | amoOr (od : BitVec 2) (sc : BitVec 3) (b : GReg) (a : GReg) (d : GReg) (wide : Bool)
  /-- AMO_OR_64: 64-bit form of amo.or (R153). -/
  | amoOrLong (od : BitVec 2) (sc : BitVec 3) (b : GReg) (a : GReg) (d : GReg) (wide : Bool) (imm32 : W32)
  /-- AMO_XOR: Atomic XOR at the home (R153). -/
  | amoXor (od : BitVec 2) (sc : BitVec 3) (b : GReg) (a : GReg) (d : GReg) (wide : Bool)
  /-- AMO_XOR_64: 64-bit form of amo.xor (R153). -/
  | amoXorLong (od : BitVec 2) (sc : BitVec 3) (b : GReg) (a : GReg) (d : GReg) (wide : Bool) (imm32 : W32)
  /-- AMO_MIN: Atomic signed minimum at the home (R153). -/
  | amoMin (od : BitVec 2) (sc : BitVec 3) (b : GReg) (a : GReg) (d : GReg) (wide : Bool)
  /-- AMO_MIN_64: 64-bit form of amo.min (R153). -/
  | amoMinLong (od : BitVec 2) (sc : BitVec 3) (b : GReg) (a : GReg) (d : GReg) (wide : Bool) (imm32 : W32)
  /-- AMO_MAX: Atomic signed maximum at the home (R153). -/
  | amoMax (od : BitVec 2) (sc : BitVec 3) (b : GReg) (a : GReg) (d : GReg) (wide : Bool)
  /-- AMO_MAX_64: 64-bit form of amo.max (R153). -/
  | amoMaxLong (od : BitVec 2) (sc : BitVec 3) (b : GReg) (a : GReg) (d : GReg) (wide : Bool) (imm32 : W32)
  /-- AMO_MINU: Atomic unsigned minimum at the home (R153). -/
  | amoMinu (od : BitVec 2) (sc : BitVec 3) (b : GReg) (a : GReg) (d : GReg) (wide : Bool)
  /-- AMO_MINU_64: 64-bit form of amo.minu (R153). -/
  | amoMinuLong (od : BitVec 2) (sc : BitVec 3) (b : GReg) (a : GReg) (d : GReg) (wide : Bool) (imm32 : W32)
  /-- AMO_MAXU: Atomic unsigned maximum at the home (R153). -/
  | amoMaxu (od : BitVec 2) (sc : BitVec 3) (b : GReg) (a : GReg) (d : GReg) (wide : Bool)
  /-- AMO_MAXU_64: 64-bit form of amo.maxu (R153). -/
  | amoMaxuLong (od : BitVec 2) (sc : BitVec 3) (b : GReg) (a : GReg) (d : GReg) (wide : Bool) (imm32 : W32)
  /-- AMO_SWAP: Atomic swap at the home (R153). -/
  | amoSwap (od : BitVec 2) (sc : BitVec 3) (b : GReg) (a : GReg) (d : GReg) (wide : Bool)
  /-- AMO_SWAP_64: 64-bit form of amo.swap (R153). -/
  | amoSwapLong (od : BitVec 2) (sc : BitVec 3) (b : GReg) (a : GReg) (d : GReg) (wide : Bool) (imm32 : W32)
  /-- AMO_CAS: Atomic compare-and-swap at the home; a failed compare only reads (R153). -/
  | amoCas (od : BitVec 2) (sc : BitVec 3) (b : GReg) (a : GReg) (d : GReg) (wide : Bool)
  /-- AMO_CAS_64: 64-bit form of amo.cas (R153). -/
  | amoCasLong (od : BitVec 2) (sc : BitVec 3) (b : GReg) (a : GReg) (d : GReg) (wide : Bool) (imm32 : W32)
  /-- AMO_SWAP_A16: Atomic 16-byte swap of a register pair (R153). -/
  | amoSwapA16 (od : BitVec 2) (sc : BitVec 3) (b : GReg) (a : GReg) (d : GReg)
  /-- AMO_SWAP_A16_64: 64-bit form of amo.swap.a16 (R153). -/
  | amoSwapA16Long (od : BitVec 2) (sc : BitVec 3) (b : GReg) (a : GReg) (d : GReg) (imm32 : W32)
  /-- AMO_CAS_A16: Atomic 16-byte compare-and-swap of register pairs (R153). -/
  | amoCasA16 (od : BitVec 2) (sc : BitVec 3) (b : GReg) (a : GReg) (d : GReg)
  /-- AMO_CAS_A16_64: 64-bit form of amo.cas.a16 (R153). -/
  | amoCasA16Long (od : BitVec 2) (sc : BitVec 3) (b : GReg) (a : GReg) (d : GReg) (imm32 : W32)
  /-- FENCE: Orders each path separately and completes when all earlier events are performed (R108). -/
  | fence (sc : BitVec 3)
  /-- FENCE_X: Cross-path fence from a before-set to an after-set of paths (R109). -/
  | fenceX (sc : BitVec 3) (after : BitVec 7) (before : BitVec 7)
  /-- WFM: Repeats a 4-byte acquire read until the word differs from g[B] (R157). -/
  | wfm (sc : BitVec 3) (b : GReg) (a : GReg) (d : GReg)
  /-- WFM_WAKE: A waiting wfm rereads its word after a change and completes when it differs (R157). -/
  | wfmWake
  /-- WAITQ: Waits until earlier instructions in the named queues complete (R158). -/
  | waitq (qm : BitVec 4)
  /-- BEQ: Branches when g[A] equals g0 (R242). -/
  | beq (off : BitVec 14) (a : GReg)
  /-- BEQ_64: 64-bit beq comparing with the register in IMM32 (R242). -/
  | beqLong (off : BitVec 14) (a : GReg) (c : GReg)
  /-- BNE: Branches when g[A] differs from g0 (R242). -/
  | bne (off : BitVec 14) (a : GReg)
  /-- BNE_64: 64-bit bne with a second register (R242). -/
  | bneLong (off : BitVec 14) (a : GReg) (c : GReg)
  /-- BLT: Branches when g[A] < g0 signed (R242). -/
  | blt (off : BitVec 14) (a : GReg)
  /-- BLT_64: 64-bit blt with a second register (R242). -/
  | bltLong (off : BitVec 14) (a : GReg) (c : GReg)
  /-- BGE: Branches when g[A] >= g0 signed (R242). -/
  | bge (off : BitVec 14) (a : GReg)
  /-- BGE_64: 64-bit bge with a second register (R242). -/
  | bgeLong (off : BitVec 14) (a : GReg) (c : GReg)
  /-- BLTU: Branches when g[A] < g0 unsigned (R242). -/
  | bltu (off : BitVec 14) (a : GReg)
  /-- BLTU_64: 64-bit bltu with a second register (R242). -/
  | bltuLong (off : BitVec 14) (a : GReg) (c : GReg)
  /-- BGEU: Branches when g[A] >= g0 unsigned (R242). -/
  | bgeu (off : BitVec 14) (a : GReg)
  /-- BGEU_64: 64-bit bgeu with a second register (R242). -/
  | bgeuLong (off : BitVec 14) (a : GReg) (c : GReg)
  /-- JALR: Jumps register-relative with bit 0 cleared, discarding the link to g0 (R242). -/
  | jalr (off : BitVec 14) (a : GReg)
  /-- JALR_64: 64-bit jalr writing the link to the register in IMM32 (R242). -/
  | jalrLong (off : BitVec 14) (a : GReg) (c : GReg)
  /-- JAL: Jumps PC-relative and writes the return address to g[D] (R243). -/
  | jal (off : BitVec 19) (d : GReg)
  /-- CSRW: Writes g[A] to a control register and returns its old value (R246). -/
  | csrw (csr : BitVec 12) (a : GReg) (d : GReg)
  /-- CSRS: Sets bits of a control register, or reads it (csrr) when A = 0 (R246). -/
  | csrs (csr : BitVec 12) (a : GReg) (d : GReg)
  /-- CSRC: Clears bits of a control register and returns its old value (R246). -/
  | csrc (csr : BitVec 12) (a : GReg) (d : GReg)
  /-- ECALL: Raises the ECALL trap (R250). -/
  | ecall
  /-- TRET: Returns from a trap to TPC, restoring the mode from TSTAT (R251). -/
  | tret
  /-- BRK: Raises the BREAK trap with a 5-bit code (R250). -/
  | brk (code : BitVec 5)
  /-- HALT: Drains the hart's queues and stops fetching until RESUME (R252). -/
  | halt
  /-- YIELD: Hints that the pipeline should prefer other harts for 16 cycles (R253). -/
  | yield
  /-- GLAUNCH: Reads a gang record, checks it and queues the gang at its home scheduler (R254). -/
  | glaunch (a : GReg) (d : GReg)
  /-- GEXIT: Drains the queues, writes back windows, frees streams and ends the hart (R188). -/
  | gexit
  /-- GBAR: Waits until every live hart of the gang has reached this barrier (R256). -/
  | gbar
  /-- TLBI_VA: Removes the translations of one VA for an ASID in the partition (R257). -/
  | tlbiVa (b : GReg) (a : GReg)
  /-- TLBI_AS: Removes the non-global translations of an ASID (R257). -/
  | tlbiAs (b : GReg)
  /-- TLBI_ALL: Removes every translation of the partition (R257). -/
  | tlbiAll
  /-- VADD_VV: Element-wise add of two vectors (R272). -/
  | vaddVv (cv : Bool) (mk : Bool) (b : Fld6) (a : Fld6) (d : Fld6)
  /-- VADD_VX: Element-wise add of a vector and a scalar (R272). -/
  | vaddVx (cv : Bool) (mk : Bool) (g : GReg) (a : Fld6) (d : Fld6)
  /-- VSUB_VV: Element-wise subtract of two vectors (R272). -/
  | vsubVv (cv : Bool) (mk : Bool) (b : Fld6) (a : Fld6) (d : Fld6)
  /-- VSUB_VX: Element-wise subtract of a scalar (R272). -/
  | vsubVx (cv : Bool) (mk : Bool) (g : GReg) (a : Fld6) (d : Fld6)
  /-- VMUL_VV: Element-wise multiply of two vectors (R272). -/
  | vmulVv (cv : Bool) (mk : Bool) (b : Fld6) (a : Fld6) (d : Fld6)
  /-- VMUL_VX: Element-wise multiply by a scalar (R272). -/
  | vmulVx (cv : Bool) (mk : Bool) (g : GReg) (a : Fld6) (d : Fld6)
  /-- VMIN_VV: Element-wise minimum of two vectors (R273). -/
  | vminVv (cv : Bool) (mk : Bool) (b : Fld6) (a : Fld6) (d : Fld6)
  /-- VMIN_VX: Element-wise minimum with a scalar (R273). -/
  | vminVx (cv : Bool) (mk : Bool) (g : GReg) (a : Fld6) (d : Fld6)
  /-- VMAX_VV: Element-wise maximum of two vectors (R273). -/
  | vmaxVv (cv : Bool) (mk : Bool) (b : Fld6) (a : Fld6) (d : Fld6)
  /-- VMAX_VX: Element-wise maximum with a scalar (R273). -/
  | vmaxVx (cv : Bool) (mk : Bool) (g : GReg) (a : Fld6) (d : Fld6)
  /-- VAND_VV: Element-wise AND of codes (R272). -/
  | vandVv (cv : Bool) (mk : Bool) (b : Fld6) (a : Fld6) (d : Fld6)
  /-- VAND_VX: Element-wise AND with a scalar code (R272). -/
  | vandVx (cv : Bool) (mk : Bool) (g : GReg) (a : Fld6) (d : Fld6)
  /-- VOR_VV: Element-wise OR of codes (R272). -/
  | vorVv (cv : Bool) (mk : Bool) (b : Fld6) (a : Fld6) (d : Fld6)
  /-- VOR_VX: Element-wise OR with a scalar code (R272). -/
  | vorVx (cv : Bool) (mk : Bool) (g : GReg) (a : Fld6) (d : Fld6)
  /-- VXOR_VV: Element-wise XOR of codes (R272). -/
  | vxorVv (cv : Bool) (mk : Bool) (b : Fld6) (a : Fld6) (d : Fld6)
  /-- VXOR_VX: Element-wise XOR with a scalar code (R272). -/
  | vxorVx (cv : Bool) (mk : Bool) (g : GReg) (a : Fld6) (d : Fld6)
  /-- VSLL_VV: Element-wise left shift (R272). -/
  | vsllVv (cv : Bool) (mk : Bool) (b : Fld6) (a : Fld6) (d : Fld6)
  /-- VSLL_VX: Element-wise left shift by a scalar (R272). -/
  | vsllVx (cv : Bool) (mk : Bool) (g : GReg) (a : Fld6) (d : Fld6)
  /-- VSRL_VV: Element-wise logical right shift (R272). -/
  | vsrlVv (cv : Bool) (mk : Bool) (b : Fld6) (a : Fld6) (d : Fld6)
  /-- VSRL_VX: Element-wise logical right shift by a scalar (R272). -/
  | vsrlVx (cv : Bool) (mk : Bool) (g : GReg) (a : Fld6) (d : Fld6)
  /-- VSRA_VV: Element-wise arithmetic right shift (R272). -/
  | vsraVv (cv : Bool) (mk : Bool) (b : Fld6) (a : Fld6) (d : Fld6)
  /-- VSRA_VX: Element-wise arithmetic right shift by a scalar (R272). -/
  | vsraVx (cv : Bool) (mk : Bool) (g : GReg) (a : Fld6) (d : Fld6)
  /-- VMULH_VV: Upper SEW bits of the element-wise product (R272). -/
  | vmulhVv (cv : Bool) (mk : Bool) (b : Fld6) (a : Fld6) (d : Fld6)
  /-- VMULH_VX: Upper SEW bits of the product with a scalar (R272). -/
  | vmulhVx (cv : Bool) (mk : Bool) (g : GReg) (a : Fld6) (d : Fld6)
  /-- VSADD_VV: Saturating element-wise add (R273). -/
  | vsaddVv (cv : Bool) (mk : Bool) (b : Fld6) (a : Fld6) (d : Fld6)
  /-- VSADD_VX: Saturating add of a scalar (R273). -/
  | vsaddVx (cv : Bool) (mk : Bool) (g : GReg) (a : Fld6) (d : Fld6)
  /-- VSSUB_VV: Saturating element-wise subtract (R273). -/
  | vssubVv (cv : Bool) (mk : Bool) (b : Fld6) (a : Fld6) (d : Fld6)
  /-- VSSUB_VX: Saturating subtract of a scalar (R273). -/
  | vssubVx (cv : Bool) (mk : Bool) (g : GReg) (a : Fld6) (d : Fld6)
  /-- VAVG_VV: Element-wise rounded average under XRM (R281). -/
  | vavgVv (cv : Bool) (mk : Bool) (b : Fld6) (a : Fld6) (d : Fld6)
  /-- VAVG_VX: Rounded average with a scalar (R281). -/
  | vavgVx (cv : Bool) (mk : Bool) (g : GReg) (a : Fld6) (d : Fld6)
  /-- VDIV_VV: Element-wise divide, never trapping (R275). -/
  | vdivVv (cv : Bool) (mk : Bool) (b : Fld6) (a : Fld6) (d : Fld6)
  /-- VDIV_VX: Element-wise divide by a scalar (R275). -/
  | vdivVx (cv : Bool) (mk : Bool) (g : GReg) (a : Fld6) (d : Fld6)
  /-- VSPLAT: Writes the low SEW bits of g[G] into each active element (R278). -/
  | vsplat (cv : Bool) (mk : Bool) (g : GReg) (d : Fld6)
  /-- VFMA: Fused multiply-add a·b + d with one rounding (R276). -/
  | vfma (cv : Bool) (mk : Bool) (b : Fld6) (a : Fld6) (d : Fld6)
  /-- VFMS: Fused a·b - d with one rounding (R276). -/
  | vfms (cv : Bool) (mk : Bool) (b : Fld6) (a : Fld6) (d : Fld6)
  /-- VFNMA: Fused d - a·b with one rounding (R276). -/
  | vfnma (cv : Bool) (mk : Bool) (b : Fld6) (a : Fld6) (d : Fld6)
  /-- VSQRT: Element-wise square root (R277). -/
  | vsqrt (cv : Bool) (mk : Bool) (b : Fld6) (x : Fld6) (d : Fld6)
  /-- VRCP: Element-wise reciprocal (R277). -/
  | vrcp (cv : Bool) (mk : Bool) (b : Fld6) (x : Fld6) (d : Fld6)
  /-- VRSQ: Element-wise reciprocal square root (R277). -/
  | vrsq (cv : Bool) (mk : Bool) (b : Fld6) (x : Fld6) (d : Fld6)
  /-- VEXP: Element-wise 2 to the power b (R277). -/
  | vexp (cv : Bool) (mk : Bool) (b : Fld6) (x : Fld6) (d : Fld6)
  /-- VLOG2: Element-wise base-2 logarithm (R277). -/
  | vlog2 (cv : Bool) (mk : Bool) (b : Fld6) (x : Fld6) (d : Fld6)
  /-- VABS: Element-wise absolute value (R277). -/
  | vabs (cv : Bool) (mk : Bool) (b : Fld6) (x : Fld6) (d : Fld6)
  /-- VNEG: Element-wise negation (R277). -/
  | vneg (cv : Bool) (mk : Bool) (b : Fld6) (x : Fld6) (d : Fld6)
  /-- VNOT: Element-wise NOT of codes (R276). -/
  | vnot (cv : Bool) (mk : Bool) (b : Fld6) (x : Fld6) (d : Fld6)
  /-- VMOV: Copies or converts elements into the destination tag (R277). -/
  | vmov (cv : Bool) (mk : Bool) (b : Fld6) (x : Fld6) (d : Fld6)
  /-- VCMP_EQ_VV: Compares vectors for equality into a mask (R280). -/
  | vcmpEqVv (cv : Bool) (mk : Bool) (b : Fld6) (a : Fld6) (d : Fld6)
  /-- VCMP_NE_VV: Compares vectors for inequality into a mask (R280). -/
  | vcmpNeVv (cv : Bool) (mk : Bool) (b : Fld6) (a : Fld6) (d : Fld6)
  /-- VCMP_LT_VV: Compares a < b into a mask (R280). -/
  | vcmpLtVv (cv : Bool) (mk : Bool) (b : Fld6) (a : Fld6) (d : Fld6)
  /-- VCMP_LE_VV: Compares a <= b into a mask (R280). -/
  | vcmpLeVv (cv : Bool) (mk : Bool) (b : Fld6) (a : Fld6) (d : Fld6)
  /-- VCMP_GT_VV: Compares a > b into a mask (R280). -/
  | vcmpGtVv (cv : Bool) (mk : Bool) (b : Fld6) (a : Fld6) (d : Fld6)
  /-- VCMP_GE_VV: Compares a >= b into a mask (R280). -/
  | vcmpGeVv (cv : Bool) (mk : Bool) (b : Fld6) (a : Fld6) (d : Fld6)
  /-- VCMP_EQ_VX: Compares with a scalar for equality into a mask (R280). -/
  | vcmpEqVx (cv : Bool) (mk : Bool) (g : GReg) (a : Fld6) (d : Fld6)
  /-- VCMP_NE_VX: Compares with a scalar for inequality (R280). -/
  | vcmpNeVx (cv : Bool) (mk : Bool) (g : GReg) (a : Fld6) (d : Fld6)
  /-- VCMP_LT_VX: Compares a < scalar into a mask (R280). -/
  | vcmpLtVx (cv : Bool) (mk : Bool) (g : GReg) (a : Fld6) (d : Fld6)
  /-- VCMP_LE_VX: Compares a <= scalar into a mask (R280). -/
  | vcmpLeVx (cv : Bool) (mk : Bool) (g : GReg) (a : Fld6) (d : Fld6)
  /-- VCMP_GT_VX: Compares a > scalar into a mask (R280). -/
  | vcmpGtVx (cv : Bool) (mk : Bool) (g : GReg) (a : Fld6) (d : Fld6)
  /-- VCMP_GE_VX: Compares a >= scalar into a mask (R280). -/
  | vcmpGeVx (cv : Bool) (mk : Bool) (g : GReg) (a : Fld6) (d : Fld6)
  /-- VWMAC_VV: Widening saturating multiply-accumulate of two vectors (R282). -/
  | vwmacVv (cv : Bool) (mk : Bool) (b : Fld6) (a : Fld6) (d : Fld6)
  /-- VSAD: Widening saturating sum of absolute differences (R282). -/
  | vsad (cv : Bool) (mk : Bool) (b : Fld6) (a : Fld6) (d : Fld6)
  /-- VWMAC_VX: Widening saturating multiply-accumulate with a scalar (R282). -/
  | vwmacVx (cv : Bool) (mk : Bool) (g : GReg) (a : Fld6) (d : Fld6)
  /-- VNSHR: Narrowing rounded right shift with saturation (R282). -/
  | vnshr (cv : Bool) (mk : Bool) (g : GReg) (a : Fld6) (d : Fld6)
  /-- VCLIP: Clamps elements between lo and hi from g[G] (R283). -/
  | vclip (cv : Bool) (mk : Bool) (g : GReg) (a : Fld6) (d : Fld6)
  /-- VRED_SUM: Tree sum of active elements into element 0 (R285). -/
  | vredSum (cv : Bool) (mk : Bool) (a : Fld6) (d : Fld6)
  /-- VRED_MAX: Maximum of active elements into element 0 (R285). -/
  | vredMax (cv : Bool) (mk : Bool) (a : Fld6) (d : Fld6)
  /-- VRED_MIN: Minimum of active elements into element 0 (R285). -/
  | vredMin (cv : Bool) (mk : Bool) (a : Fld6) (d : Fld6)
  /-- VRED_AND: AND of active element codes into element 0 (R285). -/
  | vredAnd (cv : Bool) (mk : Bool) (a : Fld6) (d : Fld6)
  /-- VRED_OR: OR of active element codes into element 0 (R285). -/
  | vredOr (cv : Bool) (mk : Bool) (a : Fld6) (d : Fld6)
  /-- VREDO_SUM: Sequential sum starting from element 0 of vB (R285). -/
  | vredoSum (cv : Bool) (mk : Bool) (b : Fld6) (a : Fld6) (d : Fld6)
  /-- VSCAN_ADD: Inclusive running sum of active elements (R286). -/
  | vscanAdd (cv : Bool) (mk : Bool) (a : Fld6) (d : Fld6)
  /-- VSCAN_MAX: Inclusive running maximum (R286). -/
  | vscanMax (cv : Bool) (mk : Bool) (a : Fld6) (d : Fld6)
  /-- VSCAN_MIN: Inclusive running minimum (R286). -/
  | vscanMin (cv : Bool) (mk : Bool) (a : Fld6) (d : Fld6)
  /-- VRGATHER: Gathers elements of vA by the indices in vB (R290). -/
  | vrgather (cv : Bool) (mk : Bool) (b : Fld6) (a : Fld6) (d : Fld6)
  /-- VCOMPRESS: Packs the elements selected by mB to the front of vD (R291). -/
  | vcompress (cv : Bool) (b : Fld6) (a : Fld6) (d : Fld6)
  /-- VEXPAND: Spreads consecutive elements to the positions selected by mB (R291). -/
  | vexpand (cv : Bool) (b : Fld6) (a : Fld6) (d : Fld6)
  /-- VMERGE_M: Selects vA where m0 is active and vB elsewhere (R292). -/
  | vmergeM (cv : Bool) (b : Fld6) (a : Fld6) (d : Fld6)
  /-- VTRANS8: Transposes 8x8 blocks across eight registers (R293). -/
  | vtrans8 (cv : Bool) (d : Fld6)
  /-- VID: Writes each active element's index (R294). -/
  | vid (cv : Bool) (mk : Bool) (d : Fld6)
  /-- VIOTA: Writes the count of earlier active mask elements (R294). -/
  | viota (cv : Bool) (mk : Bool) (a : Fld6) (d : Fld6)
  /-- VSLIDEUP: Slides elements up by an offset (R289). -/
  | vslideup (cv : Bool) (mk : Bool) (g : GReg) (a : Fld6) (d : Fld6)
  /-- VSLIDEDN: Slides elements down by an offset (R289). -/
  | vslidedn (cv : Bool) (mk : Bool) (g : GReg) (a : Fld6) (d : Fld6)
  /-- VEXT: Extracts one element to a scalar register (R295). -/
  | vext (cv : Bool) (g : GReg) (a : Fld6) (d : GReg)
  /-- VINS: Inserts a scalar code into one element (R295). -/
  | vins (cv : Bool) (g : GReg) (a : GReg) (d : Fld6)
  /-- MPOPC: Counts active mask elements below VL (R296). -/
  | mpopc (cv : Bool) (mk : Bool) (a : Fld6) (d : GReg)
  /-- MFIRST: Finds the lowest active mask element (R296). -/
  | mfirst (cv : Bool) (mk : Bool) (a : Fld6) (d : GReg)
  /-- VLD: Unit-stride vector load (R161). -/
  | vld (cv : Bool) (mk : Bool) (ord : Bool) (fm : Bool) (a8 : Bool) (g : GReg) (d : Fld6)
  /-- VLD_64: Unit-stride vector load with an IMM32 displacement (R161). -/
  | vldLong (cv : Bool) (mk : Bool) (ord : Bool) (fm : Bool) (a8 : Bool) (g : GReg) (d : Fld6) (imm32 : W32)
  /-- VLDS: Strided vector load (R161). -/
  | vlds (cv : Bool) (mk : Bool) (ord : Bool) (fm : Bool) (a8 : Bool) (g : GReg) (st : GReg) (d : Fld6)
  /-- VLDS_64: Strided vector load with an IMM32 displacement (R161). -/
  | vldsLong (cv : Bool) (mk : Bool) (ord : Bool) (fm : Bool) (a8 : Bool) (g : GReg) (st : GReg) (d : Fld6) (imm32 : W32)
  /-- VLDX: Indexed vector load (R161). -/
  | vldx (cv : Bool) (mk : Bool) (ord : Bool) (fm : Bool) (a8 : Bool) (g : GReg) (a : Fld6) (d : Fld6)
  /-- VLDX_64: Indexed vector load with an IMM32 displacement (R161). -/
  | vldxLong (cv : Bool) (mk : Bool) (ord : Bool) (fm : Bool) (a8 : Bool) (g : GReg) (a : Fld6) (d : Fld6) (imm32 : W32)
  /-- VLDSEG: Segment vector load of NF fields (R161). -/
  | vldseg (cv : Bool) (mk : Bool) (ord : Bool) (fm : Bool) (a8 : Bool) (g : GReg) (nf : BitVec 3) (d : Fld6)
  /-- VLDSEG_64: Segment vector load with an IMM32 displacement (R161). -/
  | vldsegLong (cv : Bool) (mk : Bool) (ord : Bool) (fm : Bool) (a8 : Bool) (g : GReg) (nf : BitVec 3) (d : Fld6) (imm32 : W32)
  /-- VST: Unit-stride vector store (R161). -/
  | vst (cv : Bool) (mk : Bool) (ord : Bool) (fm : Bool) (a8 : Bool) (g : GReg) (d : Fld6)
  /-- VST_64: Unit-stride vector store with an IMM32 displacement (R161). -/
  | vstLong (cv : Bool) (mk : Bool) (ord : Bool) (fm : Bool) (a8 : Bool) (g : GReg) (d : Fld6) (imm32 : W32)
  /-- VSTS: Strided vector store (R161). -/
  | vsts (cv : Bool) (mk : Bool) (ord : Bool) (fm : Bool) (a8 : Bool) (g : GReg) (st : GReg) (d : Fld6)
  /-- VSTS_64: Strided vector store with an IMM32 displacement (R161). -/
  | vstsLong (cv : Bool) (mk : Bool) (ord : Bool) (fm : Bool) (a8 : Bool) (g : GReg) (st : GReg) (d : Fld6) (imm32 : W32)
  /-- VSTX: Indexed vector store (R161). -/
  | vstx (cv : Bool) (mk : Bool) (ord : Bool) (fm : Bool) (a8 : Bool) (g : GReg) (a : Fld6) (d : Fld6)
  /-- VSTX_64: Indexed vector store with an IMM32 displacement (R161). -/
  | vstxLong (cv : Bool) (mk : Bool) (ord : Bool) (fm : Bool) (a8 : Bool) (g : GReg) (a : Fld6) (d : Fld6) (imm32 : W32)
  /-- VSTSEG: Segment vector store of NF fields (R161). -/
  | vstseg (cv : Bool) (mk : Bool) (ord : Bool) (fm : Bool) (a8 : Bool) (g : GReg) (nf : BitVec 3) (d : Fld6)
  /-- VSTSEG_64: Segment vector store with an IMM32 displacement (R161). -/
  | vstsegLong (cv : Bool) (mk : Bool) (ord : Bool) (fm : Bool) (a8 : Bool) (g : GReg) (nf : BitVec 3) (d : Fld6) (imm32 : W32)
  /-- VLDC: Decodes whole compressed chunks into vD and sets VL (R165). -/
  | vldc (g : GReg) (a : GReg) (d : Fld6)
  /-- VAMO_ADD: Per-element atomic add at indexed addresses (R166). -/
  | vamoAdd (cv : Bool) (mk : Bool) (ord : Bool) (g : GReg) (a : Fld6) (d : Fld6)
  /-- VAMO_ADD_64: vamo.add with an IMM32 displacement (R166). -/
  | vamoAddLong (cv : Bool) (mk : Bool) (ord : Bool) (g : GReg) (a : Fld6) (d : Fld6) (imm32 : W32)
  /-- VAMO_MAX: Per-element atomic maximum (R166). -/
  | vamoMax (cv : Bool) (mk : Bool) (ord : Bool) (g : GReg) (a : Fld6) (d : Fld6)
  /-- VAMO_MAX_64: vamo.max with an IMM32 displacement (R166). -/
  | vamoMaxLong (cv : Bool) (mk : Bool) (ord : Bool) (g : GReg) (a : Fld6) (d : Fld6) (imm32 : W32)
  /-- VAMO_MIN: Per-element atomic minimum (R166). -/
  | vamoMin (cv : Bool) (mk : Bool) (ord : Bool) (g : GReg) (a : Fld6) (d : Fld6)
  /-- VAMO_MIN_64: vamo.min with an IMM32 displacement (R166). -/
  | vamoMinLong (cv : Bool) (mk : Bool) (ord : Bool) (g : GReg) (a : Fld6) (d : Fld6) (imm32 : W32)
  /-- VAMO_SWAP: Per-element atomic swap (R166). -/
  | vamoSwap (cv : Bool) (mk : Bool) (ord : Bool) (g : GReg) (a : Fld6) (d : Fld6)
  /-- VAMO_SWAP_64: vamo.swap with an IMM32 displacement (R166). -/
  | vamoSwapLong (cv : Bool) (mk : Bool) (ord : Bool) (g : GReg) (a : Fld6) (d : Fld6) (imm32 : W32)
  /-- VMCAST: Delivers active elements of vA into the Chambers of target cores on path MX (R168). -/
  | vmcast (cv : Bool) (mk : Bool) (g : GReg) (a : Fld6) (d : Fld6)
  /-- VSAVE: Writes a spill frame of the vector configuration and registers (R170). -/
  | vsave (g : GReg)
  /-- VREST: Restores the configuration and registers from a spill frame (R170). -/
  | vrest (g : GReg)
  /-- VPOP: Reads one strip from a read stream into vD (R174). -/
  | vpop (cv : Bool) (mk : Bool) (a : Fld6) (d : Fld6)
  /-- VPUSH: Writes one strip from vD to a write stream (R174). -/
  | vpush (cv : Bool) (mk : Bool) (a : Fld6) (d : Fld6)
  /-- SBIND: Binds a stream register from a stream descriptor (R173). -/
  | sbind (g : GReg) (d : Fld6)
  /-- SFREE: Waits for the stream's pushes and unbinds it (R173). -/
  | sfree (d : Fld6)
  /-- STREAM_READ_AHEAD: A read stream reads ahead of its vpop, recording faults (R175). -/
  | streamReadAhead (s : BitVec 3) (n : Nat)
  /-- VCFG: Checks and writes VCFG, placing registers and resetting tags and lengths (R265). -/
  | vcfg (g : GReg)
  /-- VTAG: Sets the tag of one vector register or bypass name (R266). -/
  | vtag (t : BitVec 5) (d : Fld6)
  /-- VWIN_V: Moves a vector register's window to a new Chamber offset (R267). -/
  | vwinV (g : GReg) (d : Fld6)
  /-- VWIN_M: Moves a mask register's window to a new Chamber offset (R267). -/
  | vwinM (g : GReg) (d : Fld6)
  /-- VSETL: Sets VL to min(g[G], MVL) and returns it (R268). -/
  | vsetl (g : GReg) (d : GReg)
  /-- VLOOP: Sets SC and the first strip's VL (R269). -/
  | vloop (g : GReg)
  /-- VNEXT: Decrements SC by VL and branches with the next VL while SC > 0 (R269). -/
  | vnext (off : BitVec 17)
  /-- VFLAT: Merges contiguous tensor dimensions into SC, VL and an outer count (R270). -/
  | vflat (g : GReg) (d : GReg)
  /-- VRGN: Skips the next n VQ instructions when no mask element below VL is active (R200). -/
  | vrgn (a : Fld6) (n : BitVec 5)
  /-- WINSET: Binds a residency window from its descriptors and fills the first set (R86). -/
  | winset (g : GReg) (d : Fld6)
  /-- WINCLR: Writes back all dirty elements, waits for them and unbinds the window (R87). -/
  | winclr (d : Fld6)
  /-- WINCLR_D: Waits for forced write-backs, discards the rest and unbinds the window (R87). -/
  | winclrD (d : Fld6)
  /-- WINWAIT: Completes when every line of the window has arrived (R90). -/
  | winwait (d : Fld6)
  /-- WINFLUSH: Writes back every dirty element and waits, keeping the window bound (R90). -/
  | winflush (d : Fld6)
  /-- LCSET: Sets a loop counter and advances every window that selects it (R88). -/
  | lcset (g : GReg) (imm : BitVec 6) (d : Fld6)
  /-- LCSET_64: lcset with IMM32 added to the value (R88). -/
  | lcsetLong (g : GReg) (imm : BitVec 6) (d : Fld6) (imm32 : W32)
  /-- LCADV: Adds a delta to a loop counter and advances every window that selects it (R88). -/
  | lcadv (g : GReg) (imm : BitVec 6) (d : Fld6)
  /-- LCADV_64: lcadv with IMM32 added to the delta (R88). -/
  | lcadvLong (g : GReg) (imm : BitVec 6) (d : Fld6) (imm32 : W32)
  /-- ADVANCE: A waiting advance is performed once its windows hold fewer than 4 incomplete fills (R76). -/
  | advance
  /-- LCRD: Reads a loop counter into a scalar register (R89). -/
  | lcrd (a : Fld6) (d : GReg)
  /-- WINQ: Reads a window's status word into a scalar register (R89). -/
  | winq (a : Fld6) (d : GReg)
  /-- VLDW: Reads window elements at box-relative coordinates into vD (R91). -/
  | vldw (cv : Bool) (mk : Bool) (dim : BitVec 2) (g : GReg) (a : Fld6) (d : Fld6)
  /-- VSTW: Writes vD's elements into a window and marks them dirty (R91). -/
  | vstw (cv : Bool) (mk : Bool) (dim : BitVec 2) (g : GReg) (a : Fld6) (d : Fld6)
  /-- LINE_ARRIVAL: A storage line's last fill element is written and its arrival tag set (R74). -/
  | lineArrival (w : BitVec 4) (line : Nat)
  /-- RESIDENCY_PREFETCH: The residency engine fetches ahead the sets of later advances (R73). -/
  | residencyPrefetch (w : BitVec 4) (ahead : Nat)
  /-- EARLY_WRITEBACK: The engine writes back a dirty element still in the set and makes it clean (R72). -/
  | earlyWriteback (w : BitVec 4) (slot : Nat)
  /-- VSCMP_LT: Soft compare a < b into a probability mask (R301). -/
  | vscmpLt (cv : Bool) (mk : Bool) (b : Fld6) (a : Fld6) (d : Fld6)
  /-- VSCMP_LE: Soft compare a <= b into a probability mask (R301). -/
  | vscmpLe (cv : Bool) (mk : Bool) (b : Fld6) (a : Fld6) (d : Fld6)
  /-- VSCMP_GT: Soft compare a > b into a probability mask (R301). -/
  | vscmpGt (cv : Bool) (mk : Bool) (b : Fld6) (a : Fld6) (d : Fld6)
  /-- VSCMP_GE: Soft compare a >= b into a probability mask (R301). -/
  | vscmpGe (cv : Bool) (mk : Bool) (b : Fld6) (a : Fld6) (d : Fld6)
  /-- PAND_IND: Probability AND assuming independence (R304). -/
  | pandInd (cv : Bool) (mk : Bool) (b : Fld6) (a : Fld6) (d : Fld6)
  /-- PAND_POS: Probability AND under most positive dependence (R304). -/
  | pandPos (cv : Bool) (mk : Bool) (b : Fld6) (a : Fld6) (d : Fld6)
  /-- PAND_NEG: Probability AND under most negative dependence (R304). -/
  | pandNeg (cv : Bool) (mk : Bool) (b : Fld6) (a : Fld6) (d : Fld6)
  /-- POR_IND: Probability OR assuming independence (R304). -/
  | porInd (cv : Bool) (mk : Bool) (b : Fld6) (a : Fld6) (d : Fld6)
  /-- POR_POS: Probability OR under most positive dependence (R304). -/
  | porPos (cv : Bool) (mk : Bool) (b : Fld6) (a : Fld6) (d : Fld6)
  /-- POR_NEG: Probability OR under most negative dependence (R304). -/
  | porNeg (cv : Bool) (mk : Bool) (b : Fld6) (a : Fld6) (d : Fld6)
  /-- PNOT: Probability complement 0x8000 - Q (R304). -/
  | pnot (cv : Bool) (mk : Bool) (b : Fld6) (x : Fld6) (d : Fld6)
  /-- PBLEND_M: Blends vA and vB under the fractions in m0 (R306). -/
  | pblendM (cv : Bool) (b : Fld6) (a : Fld6) (d : Fld6)
  /-- PCOLL: Collapses each fraction to a hard code using one draw per element (R307). -/
  | pcoll (cv : Bool) (mk : Bool) (a : Fld6) (d : Fld6)
  /-- PTHR: Thresholds fractions at 0x4000 to hard codes (R308). -/
  | pthr (cv : Bool) (mk : Bool) (a : Fld6) (d : Fld6)
  /-- PGRAD: Writes p(1 - p)/T as the soft compare gradient (R309). -/
  | pgrad (cv : Bool) (mk : Bool) (a : Fld6) (d : Fld6)
  /-- PGRAD_ST: Writes 1.0 as the straight-through gradient (R309). -/
  | pgradSt (cv : Bool) (mk : Bool) (a : Fld6) (d : Fld6)
  /-- PBGRAD: Writes a - b, the derivative of pblend, with one rounding (R310). -/
  | pbgrad (cv : Bool) (mk : Bool) (b : Fld6) (a : Fld6) (d : Fld6)
  /-- PMOV_V: Moves mask fractions into a vector (R311). -/
  | pmovV (cv : Bool) (mk : Bool) (a : Fld6) (d : Fld6)
  /-- PMOV_M: Moves vector values into a P16 mask (R311). -/
  | pmovM (cv : Bool) (mk : Bool) (a : Fld6) (d : Fld6)
  /-- XPA: Outer-product accumulate into a tile (R323). -/
  | xpa (cv : Bool) (mk : Bool) (pb : Bool) (pa : Bool) (b : Fld6) (a : Fld6) (d : Fld6)
  /-- XPS: Outer-product subtract from a tile (R323). -/
  | xps (cv : Bool) (mk : Bool) (pb : Bool) (pa : Bool) (b : Fld6) (a : Fld6) (d : Fld6)
  /-- XPA_I: Integer outer-product accumulate modulo 2^32 (R323). -/
  | xpaI (cv : Bool) (mk : Bool) (pb : Bool) (pa : Bool) (b : Fld6) (a : Fld6) (d : Fld6)
  /-- XPA_S: Scaled outer-product accumulate for BX and 8-bit floats (R322). -/
  | xpaS (cv : Bool) (mk : Bool) (b : Fld6) (a : Fld6) (d : Fld6)
  /-- MXON: Configures and acquires the core's matrix unit, zeroing the array on acquisition (R315). -/
  | mxon (g : GReg)
  /-- MATRIX_ACQUIRE: A hart waiting in mxon acquires the released matrix unit (R314). -/
  | matrixAcquire
  /-- MXOFF: Releases the matrix unit and clears MXF and MXL (R318). -/
  | mxoff
  /-- MZERO: Zeroes every cell of a tile (R329). -/
  | mzero (d : Fld6)
  /-- MRD_V: Reads a tile row into a vector, converting (R330). -/
  | mrdV (mk : Bool) (g : GReg) (a : Fld6) (d : Fld6)
  /-- MRD_G: Reads one tile cell's code into a scalar register (R330). -/
  | mrdG (g : GReg) (a : Fld6) (d : GReg)
  /-- MWR: Writes a vector into a tile row, converting (R331). -/
  | mwr (mk : Bool) (g : GReg) (a : Fld6) (d : Fld6)
  /-- MLD: Loads the used square of a tile from memory (R332). -/
  | mld (g : GReg) (a : GReg) (d : Fld6)
  /-- MST: Stores the used square of a tile to memory (R332). -/
  | mst (g : GReg) (a : GReg) (d : Fld6)
  /-- ENQ: Offers a batch of 64-byte command records to the engines and writes the accepted mask (R334). -/
  | enq (mk : Bool) (a : Fld6) (d : Fld6)
  /-- C_VADD: Compact vadd with the last vector destination as first source (R18). -/
  | cVadd (b : GReg) (d : Fld6)
  /-- C_VSUB: Compact vsub (R18). -/
  | cVsub (b : GReg) (d : Fld6)
  /-- C_VMUL: Compact vmul (R18). -/
  | cVmul (b : GReg) (d : Fld6)
  /-- C_VFMA: Compact vfma with D as addend and result (R18). -/
  | cVfma (b : GReg) (d : Fld6)
  /-- C_VMIN: Compact vmin (R18). -/
  | cVmin (b : GReg) (d : Fld6)
  /-- C_VMAX: Compact vmax (R18). -/
  | cVmax (b : GReg) (d : Fld6)
  /-- C_VAND: Compact vand (R18). -/
  | cVand (b : GReg) (d : Fld6)
  /-- C_VOR: Compact vor (R18). -/
  | cVor (b : GReg) (d : Fld6)
  /-- C_VXOR: Compact vxor (R18). -/
  | cVxor (b : GReg) (d : Fld6)
  /-- C_VMOV: Compact vmov of B into D (R18). -/
  | cVmov (b : GReg) (d : Fld6)
  /-- C_VABS: Compact vabs of B (R18). -/
  | cVabs (b : GReg) (d : Fld6)
  /-- C_VNEG: Compact vneg of B (R18). -/
  | cVneg (b : GReg) (d : Fld6)
  /-- C_VSADD: Compact vsadd (R18). -/
  | cVsadd (b : GReg) (d : Fld6)
  /-- C_VSSUB: Compact vssub (R18). -/
  | cVssub (b : GReg) (d : Fld6)
  /-- C_VAVG: Compact vavg (R18). -/
  | cVavg (b : GReg) (d : Fld6)
  /-- PAGE_WALK: A die TLB miss walks the page tables once a walker is free (R37). -/
  | pageWalk (va : W64) (write : Bool)
  /-- COPY: A copy engine copies LEN bytes from SRC to DST on path CP (R342). -/
  | copy (c : Command)
  /-- COPYT: Copies a tensor tile with scaling, conversion, zero fill and optional transpose (R343). -/
  | copyt (c : Command)
  /-- FPRINT: Computes a 64-bit sum and rotate-XOR fingerprint of a range (R344). -/
  | fprint (c : Command)
  /-- DECODE: A stream decoder expands a chunked DEFLATE or PXD16 stream to DST (R348). -/
  | decode (c : Command)
  /-- DECODE_WATCHDOG_CUT: The per-chunk watchdog of bytes or cycles expires and ends the command with CUT (R349). -/
  | decodeWatchdogCut (c : Command) (chunks emitted : Nat)
  /-- TOPK: Keeps the k largest magnitudes per block and adds the rest into the residual sump (R351). -/
  | topk (c : Command)
  /-- RING: Sums FP32 contributions across the named dies and writes the sum (R352). -/
  | ring (c : Command)
  /-- SRD: The storage engine reads NVMe blocks into memory, decoding if asked (R354). -/
  | srd (c : Command)
  /-- SWR: The storage engine writes NVMe blocks from memory (R354). -/
  | swr (c : Command)
  /-- FLCFG: Checks and loads a graph image into a Flowstone slot, binding stream ranges (R362). -/
  | flcfg (c : Command)
  /-- FLCFG_EMPTY: FLCFG with IMG = 0 empties the slot without reading an image (R362). -/
  | flcfgEmpty (c : Command)
  /-- FLRUN: Runs the row-kind graph in place over the W, P0 and P1 rows (R367). -/
  | flrun (c : Command)
  /-- GANG_READY: The home scheduler reads the wait words and finds the gang ready, or ends it unplaced on a fault (R185). -/
  | gangReady (gang : Nat)
  /-- GANG_PLACE: The scheduler places a ready gang whole, starting or resuming its harts (R372). -/
  | gangPlace (gang : Nat)
  /-- NEXT_PRELOAD: The scheduler preloads NEXT's code and Chamber image into a reserved region (R375). -/
  | nextPreload (gang : Nat)
  /-- PRIORITY_AGING: Every 2^20 cycles of waiting, a ready gang's effective priority falls by one (R371). -/
  | priorityAging (gang : Nat)
  /-- PRIORITY_RISE: Every 2^20 cycles placed, a gang's effective priority rises back toward its record's (R371). -/
  | priorityRise (gang : Nat)
  /-- BUDGET_OVERRUN: The budget count reaches 0 and the gang is pre-empted and requeued (R374). -/
  | budgetOverrun (gang : Nat)
  /-- HART_HALT: The hart's queues have stopped at boundaries and it is halted (R380). -/
  | hartHalt (hart : Nat)
  /-- KILL: SCMD KILL stops and discards matched gangs and writes done status 3 (R378). -/
  | kill (q : SchedCmd)
  /-- RERUN: SCMD RERUN discards matched gangs' state and restarts their harts in place (R377). -/
  | rerun (q : SchedCmd)
  /-- RESUME: SCMD RESUME makes halted harts of matched gangs fetch again (R378). -/
  | resume (q : SchedCmd)
  /-- PATROL_SCRUB: A controller's scrubber reads and corrects each line of its quarter every 12 hours (R54). -/
  | patrolScrub (pa : Nat) (found : ScrubFind)
  /-- ERROR_LOG_READ: A read of an error log slot sets its read mark (R392). -/
  | errorLogRead (die slot : Nat)
  /-- PERSISTENT_FAULT: Firmware takes a persistently faulty core or die out of service (R394). -/
  | persistentFault (die : Nat) (core : Option Nat) (point addr : Nat)
  /-- NOISE_HEALTH_FAILURE: A noise source health monitor fails and the failure is logged (R234). -/
  | noiseHealthFailure (die core : Nat)
  /-- HOST_POSTED_WRITE: A posted write from the host link is performed at its home as a release (R120). -/
  | hostPostedWrite (at' : OuterAddr) (data : List Byte)
  /-- HOST_READ: A host read through BAR2 is performed at the home at system scope (R412). -/
  | hostRead (at' : OuterAddr) (n : Nat)
  /-- START_SUPERVISOR: A write of 1 to CMD launches the partition's supervisor gang (R416). -/
  | startSupervisor (part : Nat)
  /-- DIES_CHANGE: Management changes DIES, ending gangs on leaving dies and emptying their slots (R416). -/
  | diesChange (part : Nat) (mask : W64)
  /-- PARTITION_BLOCK_WRITE: Management writes a field of a partition block (R415). -/
  | partitionBlockWrite (part off : Nat) (data : List Byte)
  /-- POWER_ON: Power-on or reset verifies firmware, trains stacks and links and self-tests dies (R417). -/
  | powerOn (b : BootReport)
  /-- BOOT_WATCHDOG: The firmware watchdog expires before the start completes and the start fails (R417). -/
  | bootWatchdog
  /-- FIRMWARE_WRITE: In minimal mode the host writes new firmware through BAR0 (R418). -/
  | firmwareWrite (image : List Byte)
  /-- START_REQUEST: The host requests a start in minimal mode (R418). -/
  | startRequest (b : BootReport)
  /-- ATTESTATION: Returns the measurement log signed over a host nonce (R419). -/
  | attestation (nonce : List Byte)
  /-- CLOCK_THROTTLE: Firmware lowers an island's clock to hold power and heat flux limits (R420). -/
  | clockThrottle (island khz : Nat)
  /-- LINK_FAILURE: A Grehal link fails and its outstanding accesses end with ACCESS REGION (R413). -/
  | linkFailure (link : Nat)
  /-- ILLEGAL_ENCODING: A bit pattern that encodes no instruction reaches issue and raises ILLEGAL with its subcode (R20). -/
  | illegalEncoding (sub : Byte) (low : W32)
  /-- FETCH_FAULT: A fetch that meets a PAGE, ACCESS, POISON or ALIGN fault traps at the address of the instruction's first halfword (R9). -/
  | fetchFault (cause : Byte) (tval : W64)
  /-- PEER_ACCESS: An access from a peer module arrives over a Grehal link and is performed at its home Gallery bank, through any bound graph (R365). -/
  | peerAccess (write : Bool) (at' : OuterAddr) (n : Nat) (data : List Byte)
  /-- DRIVE_COMPLETION: An NVMe drive returns a completion, with zero or nonzero status, for a Read or Write the storage engine issued (R354). -/
  | driveCompletion (sct sc : Nat) (data : DriveData)
deriving DecidableEq, Repr

end Sys2Proof
end

