-- ==== Sys2Proof/Machine/State.lean ====
section
/-! DEFINITION. The state of the machine as plain data: one focus hart, every other hart, and the module around them. -/
namespace Sys2Proof.Machine

/-- The format tags of R209. -/
inductive Tag where
  | u8 | i8 | u16 | i16 | u32 | i32 | u64 | i64
  | f16 | bf16 | f32 | f64 | e4m3 | e5m2
  | bx8 | bx4 | p16 | bxs
deriving DecidableEq, Repr

/-- A vector register's window (R205, R267), its tag (R209) and its live length LEN (R169). -/
structure VReg where
  base : Nat
  tag : Tag
  len : Nat
deriving DecidableEq, Repr

/-- A mask register's window and live length. -/
structure MReg where
  base : Nat
  len : Nat
deriving DecidableEq, Repr

/-- A bypass name (R195): its tag, whether a member of the running convoy has written it, and the element codes it holds. -/
structure Bypass where
  tag : Tag
  written : Bool
  data : List (Nat × Nat)
deriving DecidableEq, Repr

/-- Why a memory access fails: the cause byte of R384, its subcode (R43) and the TVAL it reports (R42, R391). -/
structure MFault where
  cause : Byte
  sub : Byte
  tval : W64
deriving DecidableEq, Repr

/-- A tensor descriptor as read (R63): dimensions and strides for the four dimensions (1 and 0 at and above RANK). -/
structure Tdesc where
  base : W64
  tag : Tag
  rank : Nat
  dims : List Nat
  strides : List Int
deriving DecidableEq, Repr

/-- Window modes (R69). -/
inductive WMode where
  | r | w | rw
deriving DecidableEq, Repr

/-- A window descriptor as read (R65). `ksel` holds `some k` where a dimension follows counter k. -/
structure Wdesc where
  cbase : Nat
  pd : Nat
  mode : WMode
  strict : Bool
  alog : List Nat
  ksel : List (Option Nat)
  fill : W64
  a : List Int
  b : List Int
  e : List Nat
deriving DecidableEq, Repr

/-- A fault recorded against a slot (R80): a failed fill (of the element `coord`) or a failed write-back. Raising it clears the record (`raised`); the fill
or write-back is then still owed, until the engine retries it when the hart resumes (R81). -/
structure RecFault where
  slot : Nat
  isFill : Bool
  adv : Nat
  coord : List Int
  mark : Nat
  fault : MFault
  raised : Bool
deriving DecidableEq, Repr

/-- A fill that an advance has called for and that has not been performed yet (R74), and how many fences had completed before that advance (R105). -/
structure PendFill where
  adv : Nat
  coord : List Int
  mark : Nat
deriving DecidableEq, Repr

/-- A bound window (R86): descriptors, the set's current lower bounds, ADV, lead counter, dirty elements, outstanding fills, prefetched
elements and recorded faults. The arrival tags of R74 follow from the fills that are outstanding (`Window.lineTag`). -/
structure Window where
  t : Tdesc
  d : Wdesc
  lo : List Int
  adv : Nat
  lead : Option Nat
  dirty : List (List Int)
  pend : List PendFill
  pre : List (List Int)
  faults : List RecFault
deriving DecidableEq, Repr

/-- An inline decode context (R164). -/
structure DecodeCtx where
  src : W64
  remain : Nat
  fmt : Nat
  done : Nat
deriving DecidableEq, Repr

/-- What a stream has read ahead of a position: the raw element code and scale word, or the fault met (R175). -/
inductive Ahead where
  | value (code : Nat) (scale : Nat)
  | fault (f : MFault)
deriving DecidableEq, Repr

/-- A bound stream (R172, R173). For a DCTX stream `ctx` is the decode context at the chunk that begins at position `bufAt`, `buf` holds the decoded elements
from there on, and `more` the positions and contexts of the chunk boundaries after it, the last being where decoding goes on. -/
structure Stream where
  base : W64
  ni : Nat
  no : Nat
  si : Int
  so : Int
  scale : W64
  ctx : Option DecodeCtx
  mtag : Tag
  write : Bool
  pos : Nat
  ahead : List (Nat × Ahead)
  bufAt : Nat
  buf : List Nat
  more : List (Nat × DecodeCtx)
deriving DecidableEq, Repr

/-- The control registers of R213 that hold state of their own (MVL and the identity registers are computed). -/
structure Csr where
  vl : W64
  vtype : W64
  vcfg : W64
  sc : W64
  estart : W64
  mxl : W64
  mxf : W64
  temp : W64
  frm : W64
  xrm : W64
  vstat : W64
  ovfm : W64
  noise : W64
  nlog : W64
  tcause : W64
  tpc : W64
  tval : W64
  tstat : W64
  tvec : W64
  tscratch : W64
  chbase : W64
  chlim : W64
deriving DecidableEq, Repr, Inhabited

/-- What a hart does: no gang placed there, running, halted by `halt` (R252), pre-empted (R380), pre-empted while halted, or ended. -/
inductive HStatus where
  | off | running | halted | preempted | preemptedHalted | ended
deriving DecidableEq, Repr, Inhabited

/-- What a running hart waits in, if anything: a `wfm` (R157), a `gbar` (R256), an `mxon` (R314), an advance (R76: whether it is `lcset`, its low word
and length, its counter, the value or delta), a window line that has not arrived or a write-back that has not been performed (R75, R87, R90), earlier
accesses of the hart that have not been performed (R108, R109, R254 to R258). Its instruction stands at PC and is executed again. -/
inductive Wait where
  | none
  | wfm (b : GReg) (a : GReg) (d : GReg)
  | gbar
  | mxon (g : GReg)
  | advance (set : Bool) (low : W32) (len : Nat) (d : Fld6) (x : Int)
  | line
  | order
deriving DecidableEq, Repr, Inhabited

/-- The convoy a member runs in while one step runs it (R191, R196): the member's index, the element at which every member stops in a rerun or
after a trap, the trap met so far (cause, TVAL, element, queue) with the member that met it, and the registers that external loads among its earlier
members write (R197). `ahead` holds, for each earlier member, the registers it writes and the elements from the stop on that it has performed (R101); `gates` holds those elements
for each earlier member whose results this one reads, and `done` those of this one; `force` is an element that this one has performed. A loose
instruction that a pre-emption stops at an element (R260, R380) runs in one too, marked `loose`. Between steps there is none. -/
structure ConvoyCtx where
  member : Nat
  limit : Option Nat
  trap : Option (Byte × W64 × Option Nat × Nat)
  trapMember : Nat
  ext : List Nat
  loose : Bool
  ahead : List (List Nat × List Nat)
  gates : List (List Nat)
  done : List Nat
  force : Option Nat
deriving DecidableEq, Repr

/-- Pipe classes (R192). -/
inductive PClass where
  | arithA | arithB | load | store | permute | matrix
deriving DecidableEq, Repr

/-- What the convoy rules keep of a skipped member (R191, R193): its class, the registers it reads and writes, the scalar register it writes. -/
structure SpanMember where
  cls : Option PClass
  reads : List Nat
  writes : List Nat
  gWrite : Option GReg
deriving DecidableEq, Repr

/-- A `vrgn` span in progress (R200, R201): VQ instructions still inside it, whether they are skipped, and the members of the skipped convoy that is open. -/
structure Span where
  left : Nat
  skip : Bool
  members : List SpanMember
deriving DecidableEq, Repr

/-- One hart (R2, R7, R177): identity, mode, PC, scalar file, control registers, register windows, residency, streams, noise. -/
structure Hart where
  id : Nat
  part : Nat
  asid : Nat
  gang : Nat
  status : HStatus
  sup : Bool
  pc : W64
  g : Vector W64 32
  csr : Csr
  lastDest : Nat
  vregs : List VReg
  mregs : List MReg
  byp : List Bypass
  wins : List (Option Window)
  ctrs : List Int
  pred : List Int
  strs : List (Option Stream)
  noiseBuf : List W16
  span : Option Span
  convoy : Option ConvoyCtx
  wait : Wait
  barrier : Nat
  arrived : Option W64
deriving DecidableEq, Repr, Inhabited

end Sys2Proof.Machine
namespace Sys2Proof.Config

/-- Free value (R381): the state of a pre-empted hart whose context frame was written by others. (DESIGN CHOICE, log 7.) -/
opaque freeHart : Nat → Machine.Hart

/-- Free value (R381): the array cells of such a hart where it held the matrix unit. (DESIGN CHOICE, log 7.) -/
opaque freeTile : Nat → List (Nat × W32)

end Sys2Proof.Config
namespace Sys2Proof.Machine

/-- The memory of the module: the cells that differ from 0, by rising address. DRAM and module register space by physical address
(R27), Chamber byte CA (R24) of any core at 2^52 + CA. -/
structure Memory where
  cells : List Host.Cell
deriving DecidableEq, Repr

/-- A TLB entry (R36, R38): the die or the core whose TLB holds it, partition, ASID, base VA and size of the page, and the leaf it was read from. -/
structure TlbEntry where
  home : Nat
  part : Nat
  asid : Nat
  va : Nat
  size : Nat
  pte : Nat
deriving DecidableEq, Repr

/-- A bit error that stands in memory and that no access has met (R48, R51, R54): where (POINT of R392: 0 a Chamber word, 1 a unit of 32 bytes in a Gallery,
2 a line of 64 bytes in a stack), the key of its first byte, and whether it is uncorrectable. -/
structure Flaw where
  point : Nat
  first : Nat
  fatal : Bool
deriving DecidableEq, Repr

/-- What a write event is: a plain write, the write of an atomic, or that of a row an isolated update makes (R113, R124). -/
inductive WriteKind where
  | plain | atomic | row
deriving DecidableEq, Repr

/-- What a write event of a hart does at one location, while accesses of the hart on some path may still precede it (R105, R115): the hart; the number of the event,
which its records at all its locations share (R98, R113), and of its request group (R124); the first byte of the 4-byte location (R93); the bytes of it the write
covers (a mask of 4 bits) and the value the location held before; what the write is; the carried paths with which chains from it have come (`via`, R110); the
paths that fences order after it, each with the number of its fence (`due`); and the paths on which an access may precede it. -/
structure Unseen where
  hart : Nat
  event : Nat
  group : Nat
  loc : Nat
  mask : Nat
  old : W32
  kind : WriteKind
  via : List Nat
  due : List (Nat × Nat)
  paths : List Nat
deriving DecidableEq, Repr

/-- What is kept of the request groups of a running instruction or engine access (R124): the number of the group that its writes in a 4 KiB block form, and whether
what it has accessed in a block met the write of an isolated row. -/
inductive GroupNote where
  | writes (block group : Nat)
  | met (block event : Nat) (seen : Bool)
deriving DecidableEq, Repr

/-- A node of a Flowstone graph (R358). -/
structure FNode where
  op : Nat
  fmt : Tag
  in0 : Nat
  in1 : Nat
  in2 : Nat
  sel : Nat
  imm : W32
deriving DecidableEq, Repr

/-- A graph loaded in a slot (R356, R357), and for a stream kind the physical ranges (base, length) it is bound to (R364). -/
structure Graph where
  kind : Nat
  mfmt : Tag
  outw : Nat
  out1 : Option Nat
  paths : Nat
  ovf : Bool
  nodes : List FNode
  bound : List (Nat × Nat)
deriving DecidableEq, Repr

/-- A configuration slot of the array at one controller (R356). Only loaded slots are listed. -/
structure FSlot where
  die : Nat
  ctrl : Nat
  slot : Nat
  graph : Graph
deriving DecidableEq, Repr

/-- One record of a die's error log (R392) with its read mark. -/
structure ErrRec where
  cls : Nat
  point : Nat
  core : Nat
  count : Nat
  addr : Nat
  time : Nat
  aux : Nat
  read : Bool
deriving DecidableEq, Repr

/-- A die's error log (R392): HEAD, LOST and the records, newest first, each with its number. -/
structure ErrLog where
  die : Nat
  head : Nat
  lost : Nat
  recs : List (Nat × ErrRec)
deriving DecidableEq, Repr

/-- A partition block (R415). -/
structure PBlock where
  dies : W64
  astb : W64
  ctxp : W64
  srec : W64
  ns : W64
  share : W32
  pstat : W32
deriving DecidableEq, Repr

/-- The gang record of R183 as a scheduler holds it. -/
structure GangRec where
  entry : W64
  arg : W64
  done : W64
  budget : W64
  vcfg : W64
  vtype : W64
  chb : Nat
  cmask : Nat
  asid : Nat
  x0 : Nat
  y0 : Nat
  x1 : Nat
  y1 : Nat
  hpc : Nat
  prio : Nat
  supv : Bool
  waits : List (W64 × W32 × Nat)
deriving DecidableEq, Repr

/-- Where a gang stands with its scheduler (R185, R371, R372, R376, R380): queued, ready for its first placement, waiting for its wait words again with its place in
the order kept, placed, placed with a pre-emption requested,
requeued after one, or ended. -/
inductive GStatus where
  | queued | ready | returned | placed | halting | requeued | ended
deriving DecidableEq, Repr

/-- A gang (R183-R190, R371-R377): its record, status, effective priority, the start of its present period of aging or rising, the cycle of its last placement,
`gbar` completed count c (R256), its slots in rank order (HARTID and Chamber base, R186, R372), first fault cause, the budget left, and the done status that
is still to be written (R119). Gangs that became ready or
were placed later stand later in the list. -/
structure Gang where
  id : Nat
  part : Nat
  supervisor : Bool
  record : GangRec
  status : GStatus
  eff : Nat
  since : Nat
  placedAt : Nat
  barriers : Nat
  slots : List (Nat × Nat)
  cause : Byte
  budget : W64
  owed : Option Nat
deriving DecidableEq, Repr

/-- A core's matrix unit (R314, R317): its holder, the harts waiting in `mxon` in order, and the array cells that are not zero
(cell (r, c) at 64·r + c). -/
structure MxUnit where
  core : Nat
  holder : Option Nat
  queue : List Nat
  cells : List (Nat × W32)
deriving DecidableEq, Repr

/-- A Chamber image (R382): the bytes that differ from 0, the poisoned units, and the regions whose bytes, or whose bytes as a window's values, are not defined. -/
structure Image where
  cells : List Host.Cell
  poison : List Nat
  undef : List (Nat × Nat × Nat)
  vague : List (Nat × Nat × Nat)
deriving DecidableEq, Repr

/-- What the scheduler keeps of a pre-empted hart beside its own state (R381, R382): the context pool where its frame was written, the seed of the pool's undefined bytes
since then, the address of the frame, the words of its fields from PC to MISC while it is held, the array of a hart that held the matrix unit, and its Chamber image once its
partition has been evicted. -/
structure Frame where
  hart : Nat
  gang : Nat
  pool : Nat × Nat
  seed : Nat
  addr : Nat
  words : List W64
  tile : Option (List (Nat × W32))
  image : Option Image
deriving DecidableEq, Repr

/-- An NVMe namespace the module's ports reach (R353): port, NSID, block bytes, and whether it carries metadata. -/
structure Namespace where
  port : Nat
  nsid : Nat
  block : Nat
  metadata : Bool
deriving DecidableEq, Repr

/-- An entry of the measurement log (R419), as what was measured: the boot ROM, or bytes. The log's digests follow from it. -/
inductive Measured where
  | rom
  | data (bytes : List Byte)
deriving DecidableEq, Repr

/-- Which agent moves next when plain data says so: the focus hart, another hart that becomes the focus, an event, the passing of n cycles at the nominal
clock, a pre-emption of the focus hart that stops its vector instruction at an element (R260, R380), a bit error or a wrong check of a line that arises in
memory (R48, R51, R54, R60), and management setting the BAR2 base of a host function (R412) or the links of a peer (R413). (DESIGN CHOICE, log 2.) -/
inductive Turn where
  | hart
  | focus (id : Nat)
  | event (i : Instr)
  | cycles (n : Nat)
  | stop (element : Nat)
  | upset (f : Flaw)
  | damage (line : Nat) (check : W32)
  | bar2 (function base : Nat)
  | route (peer : Nat) (links : List Nat)
deriving DecidableEq, Repr

/-- The whole machine. `undef` and `vague` are regions (first byte, bytes, seed) whose bytes, or whose bytes as a bound window's values (R95), are not
defined; `clock` counts cycles of the nominal clock, and `ticks` those of each island (R420), in parts of 1,250,000 of a cycle; `checks` holds the stored check of each line where it is not that of the
line's bytes (R59); `down` lists the Grehal links that are down (R413, R417). `wr` and `groups` are scratch inside one instruction and empty between steps; `unseen`, `fences`, `turns`, `choices` and
`freeCtr` are the model's own: what accesses on other paths may not see yet and how many fences have completed, which agent moves next, how an order the spec leaves free is taken,
and how many free values have been drawn. -/
structure State where
  hart : Hart
  parked : List Hart
  mem : Memory
  poison : List Nat
  undef : List (Nat × Nat × Nat)
  vague : List (Nat × Nat × Nat)
  flaws : List Flaw
  checks : List (Nat × W32)
  unseen : List Unseen
  fences : Nat
  tlb : List TlbEntry
  utlb : List TlbEntry
  parts : List (Nat × PBlock)
  gangs : List Gang
  nextGang : Nat
  clock : Nat
  ticks : List Nat
  engines : List Command
  drives : List Command
  flow : List FSlot
  elogs : List ErrLog
  scmd : List (Nat × BitVec 128)
  cmds : List (Nat × SchedCmd)
  mxs : List MxUnit
  frames : List Frame
  namespaces : List Namespace
  peers : List (Nat × List Nat)
  down : List Nat
  moduleNo : Nat
  bar2 : List (Nat × Nat)
  starting : Bool
  bootstat : W64
  firmware : List Byte
  measured : List Measured
  hostReply : List Byte
  hostPoison : Bool
  islands : List Nat
  deadDies : List Nat
  deadCores : List Nat
  errTimes : List (Nat × Nat × Nat)
  wr : List Nat
  groups : List GroupNote
  turns : List Turn
  choices : List Nat
  freeCtr : Nat
deriving DecidableEq, Repr

/-- Why the machine stops without a next state. No instruction and no event of this model raises one: a trap, a gang fault and an engine failure are
next states. -/
inductive Fault where
  /-- Raised by nothing in the model as it stands; kept for a step that could not go on. Safe: the machine would stop. -/
  | stuck
deriving DecidableEq, Repr

/-- Why the model gives an instruction no meaning. -/
inductive Refusal where
  /-- Raised by an arm of `exec` whose instruction is not modelled yet. Safe: nothing can be proved of it. -/
  | notModelled (mnemonic : String)
deriving DecidableEq, Repr

/-- The control registers at reset (R213): zero but for VTYPE (R212: BSZ 1, BXG 4, RW 2) and OVFM (0x10). (DESIGN CHOICE, log 4.) -/
def Csr.reset : Csr :=
  { vl := 0, vtype := 0x2802, vcfg := 0, sc := 0, estart := 0, mxl := 0, mxf := 0, temp := 0, frm := 0, xrm := 0, vstat := 0,
    ovfm := 0x10, noise := 0, nlog := 0, tcause := 0, tpc := 0, tval := 0, tstat := 0, tvec := 0, tscratch := 0,
    chbase := 0, chlim := 0 }

/-- The default register windows of R205 for VCFG = 0 and a partition at Chamber offset 0: eight vector registers of 8 KiB and four masks. (DESIGN CHOICE, log 4.) -/
def VReg.reset (n : Nat) : VReg := { base := 8192 * n, tag := .f32, len := 0 }

/-- Mask j of the same placement: EM = 65,536 elements, 128 KiB each. (DESIGN CHOICE, log 4.) -/
def MReg.reset (j : Nat) : MReg := { base := 65536 + 131072 * j, len := 0 }

/-- A hart slot with no gang placed: the reset values of R187 and R213. (DESIGN CHOICE, log 4.) -/
def Hart.reset (id : Nat) : Hart :=
  { id := id, part := 0, asid := 0, gang := 0, status := .off, sup := false, pc := 0, g := Vector.replicate 32 0, csr := Csr.reset,
    lastDest := 0, vregs := (List.range 64).map VReg.reset, mregs := (List.range 16).map MReg.reset,
    byp := List.replicate 4 { tag := .f32, written := false, data := [] }, wins := List.replicate 16 none,
    ctrs := List.replicate 8 0, pred := List.replicate 8 1, strs := List.replicate 8 none, noiseBuf := List.replicate 64 0,
    span := none, convoy := none, wait := .none, barrier := 0, arrived := none }

/-- The module after power-on with a full start (R417, R418): no partition, no gang, every Flowstone slot and error log empty, memory
with nothing listed. (DESIGN CHOICE, log 4; DESIGN CHOICE, log 6; DESIGN CHOICE, log 69.) -/
def State.reset : State :=
  { hart := Hart.reset 0, parked := [], mem := { cells := [] }, poison := [], undef := [], vague := [], flaws := [], checks := [], unseen := [], fences := 0, tlb := [], utlb := [], parts := [], gangs := [], nextGang := 1, clock := 0, ticks := List.replicate 16 0,
    engines := [], drives := [], flow := [], elogs := [], scmd := [], cmds := [], mxs := [], frames := [], namespaces := [], peers := [], down := [], moduleNo := 0,
    bar2 := [], starting := false, bootstat := 0xFF0000, firmware := [], measured := [.rom, .data []], hostReply := [], hostPoison := false, islands := List.replicate 16 1250000,
    deadDies := [], deadCores := [], errTimes := [], wr := [], groups := [], turns := [], choices := [], freeCtr := 0 }

end Sys2Proof.Machine
end

