-- ==== Sys2Proof/Machine/Memory.lean ====
section
/-! DEFINITION. The bytes of the module: reading, writing, poison (R48, R51), bit errors and checks that stand in memory (R54, R59), and bytes the spec calls
not defined. -/
namespace Sys2Proof.Machine

/-- Bit n of a number. -/
def bit (v n : Nat) : Bool := v / 2 ^ n % 2 == 1

/-- A bit field [lo + w - 1 : lo] of a number. -/
def bits (v lo w : Nat) : Nat := v / 2 ^ lo % 2 ^ w

/-- The memory key of the Chamber byte at Chamber address `ca` (R24). -/
def chamberKey (ca : Nat) : Nat := 0x10000000000000 + ca

/-- Whether a key names a Chamber byte. -/
def isChamber (k : Nat) : Bool := decide (0x10000000000000 ≤ k)

/-- The Chamber address of a byte of a core's Chamber: DIE, CORE and OFF in their places (R24). -/
def chamberAddr (coreId off : Nat) : Nat := coreId / 16 * 0x8000000 + coreId % 16 * 0x800000 + off

/-- Whether a key lies in module register space (R27): PA[51] = 0 and PA[50:41] = 1. -/
def isRegSpace (k : Nat) : Bool := decide (k / 0x20000000000 = 1)

/-- The bytes that carry one poison bit: 8 in a Chamber (R48), 32 in DRAM (R51). -/
def unitBytes (k : Nat) : Nat := if isChamber k then 8 else 32

/-- The first byte of the poison unit that holds a byte. -/
def unitOf (k : Nat) : Nat := k / unitBytes k * unitBytes k

/-- What a key reads as; an unlisted key reads as 0. (DESIGN CHOICE, log 5.) -/
def cellsFind : List Host.Cell → Nat → Byte
  | [], _ => 0
  | (a, b) :: r, k => if a = k then b else cellsFind r k

/-- Puts a cell in its place by rising address. -/
def insertCell (k : Nat) (b : Byte) : List Host.Cell → List Host.Cell
  | [] => [(k, b)]
  | (a, c) :: r => if k < a then (k, b) :: (a, c) :: r else (a, c) :: insertCell k b r

/-- The canonical form: addresses strictly rising from above `lo`, no byte equal to what an unlisted address reads as. -/
def cellsWf (lo : Option Nat) : List Host.Cell → Bool
  | [] => true
  | (a, b) :: r => (match lo with | none => true | some l => decide (l < a)) && decide (b ≠ 0) && cellsWf (some a) r

/-- The canonical form of memory. -/
def Memory.wf (m : Memory) : Bool := cellsWf none m.cells

/-- The byte of memory at a key. (DESIGN CHOICE, log 5.) -/
def Memory.read (m : Memory) (k : Nat) : Byte := cellsFind m.cells k

/-- Memory with one byte written: writing 0 removes the entry. -/
def Memory.write (m : Memory) (k : Nat) (b : Byte) : Memory :=
  let rest := m.cells.filter (fun c => decide (c.1 ≠ k))
  { cells := if b = 0 then rest else insertCell k b rest }

/-- The low `n` bytes of a value in little-endian order (R6). -/
def leBytes : Nat → Nat → List Byte
  | 0, _ => []
  | n + 1, v => BitVec.ofNat 8 v :: leBytes n (v / 256)

/-- The value of bytes in little-endian order (R6). -/
def leNat : List Byte → Nat
  | [] => 0
  | b :: r => b.toNat + 256 * leNat r

/-- The byte of a held frame at an address, where the table of R381 defines it: the fields up to MISC, CIMG while no image stands, the zero words after it, and the
array of a hart that held the matrix unit. The VA of an image is not defined. (DEDUCED, log 75.) -/
def Frame.byte (f : Frame) (k : Nat) : Option Byte :=
  if f.words.isEmpty ∨ k < f.addr ∨ f.addr + 0x8000 ≤ k then none
  else
    let off := k - f.addr
    if off < 0x1C0 then some (BitVec.ofNat 8 ((f.words.getD (off / 8) 0).toNat / 256 ^ (off % 8)))
    else if off < 0x1C8 then (if f.image.isNone then some 0 else none)
    else if off < 0x200 then some 0
    else if 0x4000 ≤ off then
      f.tile.map (fun cells => BitVec.ofNat 8 ((match cells.find? (fun x => x.1 == (off - 0x4000) / 4) with | some x => x.2.toNat | none => 0) / 256 ^ (off % 4)))
    else none

/-- The byte a key holds: what memory holds, but where the spec calls it not defined a field of a held context frame (R381) or a free byte. (DESIGN CHOICE, log 5.) -/
def State.byteAt (s : State) (k : Nat) : Byte :=
  match s.undef.find? (fun r => decide (r.1 ≤ k) && decide (k < r.1 + r.2.1)) with
  | some r =>
    match s.frames.findSome? (fun f => f.byte k) with
    | some b => b
    | none => Config.freeByte r.2.2 k
  | none => s.mem.read k

/-- Takes one key out of the regions of undefined bytes. -/
def undefCut (k : Nat) : List (Nat × Nat × Nat) → List (Nat × Nat × Nat)
  | [] => []
  | (lo, n, seed) :: r =>
    if lo ≤ k ∧ k < lo + n then
      (if lo < k then [(lo, k - lo, seed)] else []) ++ (if k + 1 < lo + n then [(k + 1, lo + n - (k + 1), seed)] else []) ++ undefCut k r
    else (lo, n, seed) :: undefCut k r

/-- Whether the poison unit of a key is poisoned. -/
def State.poisoned (s : State) (k : Nat) : Bool := s.poison.contains (unitOf k)

/-- Marks the poison unit of a key. What the instruction has written of the unit so far arrived with the mark, so that it cannot clear it (R48). -/
def State.setPoison (s : State) (k : Nat) : State :=
  if s.poisoned k then { s with wr := s.wr.filter (fun x => decide (unitOf x ≠ unitOf k)) }
  else { s with poison := unitOf k :: s.poison, wr := s.wr.filter (fun x => decide (unitOf x ≠ unitOf k)) }

/-- Bytes of the unit of a bit error, by its point. -/
def flawBytes (point : Nat) : Nat :=
  match point with
  | 0 => 8
  | 1 => 32
  | _ => 64

/-- Whether a byte lies in the unit of a bit error. -/
def Flaw.covers (f : Flaw) (k : Nat) : Bool := decide (f.first ≤ k) && decide (k < f.first + flawBytes f.point)

/-- Whether a bit error stands in the unit of a byte. -/
def State.flawed (s : State) (k : Nat) : Bool := s.flaws.any (fun f => f.covers k)

/-- Notes that an instruction has written byte `k`, and clears the poison of a unit once the instruction has written all of it, with any bit error in it. In DRAM
only a write request that covers the whole unit does so (`whole`, R51). -/
def State.notePoison (s : State) (whole : Bool) (k : Nat) : State :=
  if (s.poisoned k || s.flawed k) && (isChamber k || whole) then
    let w := k :: s.wr
    { s with
      wr := w
      poison := if (List.range (unitBytes k)).all (fun j => w.contains (unitOf k + j)) then s.poison.filter (fun u => decide (u ≠ unitOf k)) else s.poison
      flaws := s.flaws.filter (fun f => !(f.covers k && (List.range (flawBytes f.point)).all (fun j => w.contains (f.first + j)))) }
  else s

/-- The first byte of the 64-byte line that holds a byte. -/
def checkLine (k : Nat) : Nat := k / 64 * 64

/-- The first byte of the 4-byte location that holds a byte (R93). -/
def locOf (k : Nat) : Nat := k / 4 * 4

/-- A record whose write stands before a later one of its location is hidden from no path that the later one is not hidden from, and the records of a write that is
hidden nowhere are dropped. The latest write of a location stands first. -/
def tidyUnseen (l : List Unseen) : List Unseen :=
  let l := l.foldl (fun acc u => acc ++ [{ u with paths := u.paths.filter (fun q => (acc.filter (fun v => v.loc == u.loc)).all (fun v => v.paths.contains q)) }]) []
  l.filter (fun u => l.any (fun x => x.event == u.event && !x.paths.isEmpty))

/-- No earlier write of a location is hidden any more. -/
def shutLoc (loc : Nat) (l : List Unseen) : List Unseen := if l.any (fun u => u.loc == loc) then tidyUnseen (l.map (fun u => if u.loc = loc then { u with paths := [] } else u)) else l

/-- The machine with one byte written; the check of its line is created afresh (R59), and no earlier write of its location stays unseen. -/
def State.putByte (s : State) (whole : Bool) (k : Nat) (b : Byte) : State :=
  { (s.notePoison whole k) with
    mem := s.mem.write k b, undef := undefCut k s.undef, checks := s.checks.filter (fun c => c.1 != checkLine k)
    unseen := shutLoc (locOf k) s.unseen }

/-- The machine with one byte written and nothing noted of poison. -/
def State.putRaw (s : State) (k : Nat) (b : Byte) : State :=
  { s with
    mem := s.mem.write k b, undef := undefCut k s.undef, checks := s.checks.filter (fun c => c.1 != checkLine k)
    unseen := shutLoc (locOf k) s.unseen }

/-- Notes that an instruction has written half of a byte, the low or the high four bits: the byte counts as written with its second half (R48). -/
def State.noteHalf (s : State) (k : Nat) (high : Bool) : State :=
  if (s.poisoned k || s.flawed k) then
    let half := fun (hi : Bool) => 2 ^ 60 + 2 * k + hi.toNat
    if s.wr.contains (half !high) then { s.notePoison false k with wr := half high :: (s.notePoison false k).wr }
    else { s with wr := half high :: s.wr }
  else s

/-- `n` consecutive bytes. -/
def State.bytesAt (s : State) (k n : Nat) : List Byte := (List.range n).map (fun j => s.byteAt (k + j))

/-- Consecutive bytes written from `k`. -/
def State.putBytes (s : State) (whole : Bool) : Nat → List Byte → State
  | _, [] => s
  | k, b :: r => State.putBytes (s.putByte whole k b) whole (k + 1) r

/-- Some bytes as one machine holds them laid over another. -/
def State.bytesOver (s : State) (ks : List Nat) (v : State) : State := ks.foldl (fun v k => v.putRaw k (s.byteAt k)) v

/-- The little-endian value of `n` bytes. -/
def State.natAt (s : State) (k n : Nat) : Nat := leNat (s.bytesAt k n)

/-- The machine with the low `n` bytes of a value written at `k`. -/
def State.putNat (s : State) (k n v : Nat) : State := s.putBytes false k (leBytes n v)

/-! The check of a line (R59, R60). -/

/-- `n` bit steps of the reflected polynomial of CRC-32C. -/
def crcBits : Nat → W32 → W32
  | 0, c => c
  | n + 1, c => crcBits n (if c.getLsbD 0 then (c >>> 1) ^^^ 0x82F63B78 else c >>> 1)

/-- CRC-32C of bytes from a running value. -/
def crcStep : W32 → List Byte → W32
  | c, [] => c
  | c, b :: r => crcStep (crcBits 8 (c ^^^ b.setWidth 32)) r

/-- CRC-32C (R59). -/
def crc32c (bs : List Byte) : Nat := (~~~(crcStep 0xFFFFFFFF bs)).toNat

/-- The check stored with a line: that of its bytes unless `checks` lists another (R59). -/
def State.checkOf (s : State) (line : Nat) : W32 :=
  match s.checks.find? (fun c => c.1 == line) with
  | some c => c.2
  | none => BitVec.ofNat 32 (crc32c (s.bytesAt line 64))

/-- Whether the check of a byte's line does not match the line's bytes (R60). -/
def State.mismatch (s : State) (k : Nat) : Bool :=
  !isChamber k && s.checks.any (fun c => c.1 == checkLine k) && s.checkOf (checkLine k) != BitVec.ofNat 32 (crc32c (s.bytesAt (checkLine k) 64))

/-- A line with a check stored beside its bytes (R59): as data that is moved unchanged brings it, or as an error leaves it. -/
def State.setCheck (s : State) (line : Nat) (c : W32) : State := { s with checks := (line, c) :: s.checks.filter (fun x => x.1 != line) }

/-! Window storage as its window sees it (R95). -/

/-- Whether a region of bytes covers a key. -/
def inRegion (k : Nat) (r : Nat × Nat × Nat) : Bool := decide (r.1 ≤ k) && decide (k < r.1 + r.2.1)

/-- The byte of a bound window's storage as its window holds it: a free byte once its line has been accessed by other means (R95). -/
def State.slotByte (s : State) (k : Nat) : Byte :=
  match s.vague.find? (inRegion k) with
  | some r => Config.freeByte r.2.2 k
  | none => s.byteAt k

/-- Ends an instruction: its written bytes and its request groups are forgotten. (DESIGN CHOICE, log 69.) -/
def State.endWrites (s : State) : State := { s with wr := [], groups := [] }

/-- Draws the next choice of an order the spec leaves free; 0 when none is given. (DESIGN CHOICE, log 8; DESIGN CHOICE, log 9.) -/
def State.choose (s : State) : Nat × State :=
  match s.choices with
  | [] => (0, s)
  | c :: r => (c, { s with choices := r })

/-- Draws a fresh seed for a free value. (DESIGN CHOICE, log 7; DESIGN CHOICE, log 9.) -/
def State.fresh (s : State) : Nat × State := (s.freeCtr, { s with freeCtr := s.freeCtr + 1 })

end Sys2Proof.Machine
end

