-- ==== Sys2Proof/Machine/ErrorLog.lean ====
section
/-! DEFINITION. The dies' error logs (R392, R393), and the errors that accesses meet: bit errors and wrong checks (R48, R51, R54, R59, R60). -/
namespace Sys2Proof.Machine

/-- The bytes of an error log record (R392). -/
def ErrRec.bytes (r : ErrRec) : List Byte :=
  leBytes 1 r.cls ++ leBytes 1 r.point ++ leBytes 1 r.core ++ leBytes 1 0 ++ leBytes 4 r.count ++ leBytes 8 r.addr ++ leBytes 8 r.time ++ leBytes 8 r.aux

/-- The log of a die; an unlisted one is empty. -/
def State.elog (s : State) (d : Nat) : ErrLog :=
  match s.elogs.find? (fun l => l.die == d) with
  | some l => l
  | none => { die := d, head := 0, lost := 0, recs := [] }

/-- Replaces the log of a die. -/
def State.setElog (s : State) (l : ErrLog) : State :=
  { s with elogs := l :: s.elogs.filter (fun x => x.die != l.die) }

/-- The record in a slot of a log, with its number. -/
def ErrLog.inSlot (l : ErrLog) (slot : Nat) : Option (Nat × ErrRec) := l.recs.find? (fun r => r.1 % 256 == slot)

/-- Adds an occurrence to a log (R392): merged with the newest record, or a new record over the oldest slot. -/
def ErrLog.add (l : ErrLog) (r : ErrRec) : ErrLog :=
  let fresh : ErrLog :=
    { l with
      head := l.head + 1
      lost := match l.inSlot (l.head % 256) with
        | some (_, o) => if o.read then l.lost else Nat.min (l.lost + 1) 0xFFFFFFFF
        | none => l.lost
      recs := (l.head, { r with count := 1, read := false }) :: l.recs.filter (fun x => x.1 % 256 != l.head % 256) }
  match l.recs with
  | (n, o) :: rest =>
    if o.cls = r.cls ∧ o.point = r.point ∧ o.core = r.core ∧ o.addr = r.addr then
      { l with recs := (n, { o with count := Nat.min (o.count + 1) 0xFFFFFFFF, time := r.time, read := false }) :: rest }
    else fresh
  | [] => fresh

/-- The island of a die (R420), and the cycles that a die's own clock has counted. -/
def islandOf (die : Nat) : Nat := die / 16 * 4 + die % 8 / 2
def State.ticksOf (s : State) (die : Nat) : Nat := s.ticks.getD (islandOf die) 0 / 1250000

/-- Logs an occurrence on a die: CLASS, POINT, CORE, ADDR and AUX (R392, R393), at the present time of the die. -/
def State.logError (s : State) (d cls point core addr aux : Nat) : State :=
  let r : ErrRec := { cls := cls, point := point, core := core, count := 1, addr := addr, time := s.ticksOf d, aux := aux, read := false }
  let s := s.setElog ((s.elog d).add r)
  if cls = 1 ∨ cls = 2 then { s with errTimes := (point, addr, s.ticksOf d) :: s.errTimes } else s

/-! Errors that accesses meet (R48, R51, R54, R60). -/

/-- The addresses of a line's poison units. -/
def lineUnits (pa : Nat) : List Nat := [pa / 64 * 64, pa / 64 * 64 + 32]

/-- The die, CORE and ADDR of a record about a key (R392). -/
def errorPlace (k : Nat) : Nat × Nat × Nat :=
  if isChamber k then (bits (k - 0x10000000000000) 27 6, bits (k - 0x10000000000000) 23 4, k - 0x10000000000000) else (bits k 35 6, 0xFF, k)

/-- A bit error met (R48, R51, R54): corrected and counted, or its unit poisoned and logged. (DESIGN CHOICE, log 7; DESIGN CHOICE, log 74.) -/
def State.meetFlaw (s : State) (f : Flaw) : State :=
  let (d, core, addr) := errorPlace f.first
  let s := { s with flaws := s.flaws.filter (fun x => x != f) }
  let units := if f.point = 2 then lineUnits f.first else [f.first]
  let s := if f.fatal then units.foldl State.setPoison s else s
  s.logError d (if f.fatal then 2 else 1) f.point core addr (Config.syndrome addr (s.elog d).head % 2 ^ 64)

/-- The bit errors that stand in the units of bytes being read are met. -/
def State.expose (s : State) (ks : List Nat) : State := (s.flaws.filter (fun f => ks.any f.covers)).foldl State.meetFlaw s

/-- The first bytes of the lines among bytes whose checks do not match (R60). -/
def State.badChecks (s : State) (ks : List Nat) : List Nat := ((ks.filter s.mismatch).map checkLine).eraseDups

/-- A check mismatch met (R60): both units of the line are poisoned, or at a port (POINT 4 to 6) the outgoing data only, and a record names the line's PA and the
point. -/
def State.meetMismatch (point : Nat) (s : State) (line : Nat) : State :=
  let s := if 4 ≤ point ∧ point ≤ 6 then s else (lineUnits line).foldl State.setPoison s
  s.logError (bits line 35 6) 3 point 0xFF line 0

/-- The bytes of an access as its bank reads them: bit errors are met, and the checks of the bytes to be verified (R59, R60). -/
def State.inspect (s : State) (point : Nat) (ks checked : List Nat) : State :=
  let s := s.expose ks
  (s.badChecks checked).foldl (State.meetMismatch point) s

end Sys2Proof.Machine
end

