-- ==== Sys2Proof/Machine/Translate.lean ====
section
/-! DEFINITION. Address spaces and translation (R23-R43): the page-table walk, the TLB, the permission order and the physical checks. -/
namespace Sys2Proof.Machine

/-- What an access does: read, write, atomic read-modify-write, instruction fetch (R40). -/
inductive AKind where
  | read | write | amo | fetch
deriving DecidableEq, Repr

/-- An access as translation sees it: what it does, whether it may be device class (R40 check 5), whether it may reach a peer module (R413), the
partition, ASID and mode it is made in (R39), the die whose TLB translates it, and the core whose micro-TLB stands before that (R36, R37). -/
structure Acc where
  kind : AKind
  dev : Bool
  peer : Bool
  part : Nat
  asid : Nat
  user : Bool
  die : Nat
  core : Option Nat
deriving DecidableEq, Repr

/-- Cause codes of R384. -/
def causeIllegal : Byte := 0x01
def causeOperand : Byte := 0x02
def causePriv : Byte := 0x03
def causeAlign : Byte := 0x04
def causePage : Byte := 0x05
def causeAccess : Byte := 0x06
def causeResidency : Byte := 0x07
def causeSchedule : Byte := 0x08
def causePoison : Byte := 0x09
def causeStream : Byte := 0x0A
def causeEngine : Byte := 0x0B
def causeEcall : Byte := 0x0C
def causeBreak : Byte := 0x0D

/-- Cause and subcode of a failing translation, before its TVAL is formed. -/
abbrev TFault := Byte × Byte

/-- PAGE faults of R43. -/
def pageFault (sub : Byte) : TFault := (causePage, sub)
/-- ACCESS faults of R43. -/
def accessFault (sub : Byte) : TFault := (causeAccess, sub)

/-- The partition block of a partition (R415); a partition with no block written has DIES 0. -/
def State.pblock (s : State) (p : Nat) : PBlock :=
  match s.parts.find? (fun x => x.1 == p) with
  | some x => x.2
  | none => { dies := 0, astb := 0, ctxp := 0, srec := 0, ns := 0, share := 0, pstat := 0 }

/-- Whether a die belongs to a partition (R33). -/
def State.ownsDie (s : State) (p d : Nat) : Bool := bit (s.pblock p).dies.toNat d

/-- Whether the die of a local DRAM address is in service and its offset populated (R28, R395). -/
def State.populated (s : State) (pa : Nat) : Bool :=
  decide (bits pa 0 35 < Config.dramBytes) && !s.deadDies.contains (bits pa 35 6)

/-- A table entry lies in the partition's own DRAM (R35), whether or not its die is in service. -/
def State.inPartDram (s : State) (p pa : Nat) : Bool :=
  decide (pa / 2 ^ 41 = 0) && decide (bits pa 0 35 < Config.dramBytes) && s.ownsDie p (bits pa 35 6)

/-- Fields of a page table entry (R30). -/
def pteV (e : Nat) : Bool := bit e 0
def pteR (e : Nat) : Bool := bit e 1
def pteW (e : Nat) : Bool := bit e 2
def pteX (e : Nat) : Bool := bit e 3
def pteU (e : Nat) : Bool := bit e 4
def pteG (e : Nat) : Bool := bit e 5
def pteA (e : Nat) : Bool := bit e 6
def pteD (e : Nat) : Bool := bit e 7
def pteIdem (e : Nat) : Bool := bit e 8
def pteChk (e : Nat) : Bool := bit e 9
def ptePs (e : Nat) : Nat := bits e 10 2
def ptePpn (e : Nat) : Nat := bits e 12 40

/-- A VA is canonical when bits [63:57] equal bit 56 (R23). -/
def canonical (va : Nat) : Bool := va / 2 ^ 56 == 0 || va / 2 ^ 56 == 0xFF

/-- The Chamber aperture (R24): canonical, with bits [56:40] all ones. -/
def inAperture (va : Nat) : Bool := va / 2 ^ 40 == 0xFFFFFF

/-- Page bytes of a leaf at a level with page-size field `ps` (R29). -/
def leafBytes (level ps : Nat) : Nat :=
  match level with
  | 0 => if ps = 1 then 0x10000 else 0x1000
  | 1 => 0x200000
  | _ => 0x40000000

/-- A leaf's format is wrong at its level (R31). -/
def leafBad (level e : Nat) : Bool :=
  decide (3 ≤ level) || (match level with | 0 => decide (2 ≤ ptePs e) | 1 => ptePs e != 2 | _ => ptePs e != 3)
    || (pteW e && !pteR e) || (!pteIdem e && pteX e)

/-- A leaf's PPN is not aligned to its page, or differs from the VA inside a 64 KiB group (R31, R32). -/
def leafMisaligned (level e va : Nat) : Bool :=
  match level with
  | 0 => ptePs e == 1 && bits (ptePpn e) 0 4 != bits va 12 4
  | 1 => bits (ptePpn e) 0 9 != 0
  | _ => bits (ptePpn e) 0 18 != 0

/-- The bytes of the entries that a walk reads from a level downward, as far as it gets (R29, R35). -/
def State.walkFromKeys (s : State) (part va : Nat) : Nat → Nat → List Nat
  | level, table =>
    let at' := table + 8 * bits va (12 + 9 * level) 9
    if s.inPartDram part at' && s.populated at' then
      let e := s.natAt at' 8
      (List.range 8).map (fun j => at' + j) ++
        (if pteV e && bits e 52 12 == 0 && !pteR e && !pteW e && !pteX e then
          match level with
          | 0 => []
          | l + 1 => if bits e 4 8 ≠ 0 then [] else s.walkFromKeys part va l (ptePpn e * 4096)
        else [])
    else []

/-- A successful walk: the leaf, the PA it was read from and its level. -/
structure Leaf where
  pte : Nat
  at' : Nat
  level : Nat
deriving DecidableEq, Repr

/-- The walk from a level downward, reading the table at `table` (R29, R31, R35). An entry on a die out of service is UNPOP (R395). A leaf that is both ill-formed
and not aligned is FORMAT: R31 and R41 do not rank the two. (DEDUCED, log 14; DESIGN CHOICE, log 76.) -/
def State.walkFrom (s : State) (part va : Nat) : Nat → Nat → Except TFault Leaf
  | level, table =>
    let at' := table + 8 * bits va (12 + 9 * level) 9
    if s.inPartDram part at' && !s.populated at' then .error (accessFault 0x01)
    else if s.inPartDram part at' then
      let e := s.natAt at' 8
      if !pteV e then .error (pageFault 0x01)
      else if bits e 52 12 ≠ 0 then .error (pageFault 0x02)
      else if !pteR e && !pteW e && !pteX e then
        match level with
        | 0 => .error (pageFault 0x02)
        | l + 1 => if bits e 4 8 ≠ 0 then .error (pageFault 0x02) else s.walkFrom part va l (ptePpn e * 4096)
      else if leafBad level e then .error (pageFault 0x02)
      else if leafMisaligned level e va then .error (pageFault 0x08)
      else .ok { pte := e, at' := at', level := level }
    else .error (pageFault 0x0A)

/-- The walk of a VA in an address space: its address-space table entry (R34), then levels 4 to 0. Management alone places the table: an entry outside the partition's
own DRAM, or past its end, is read there like any other. A poisoned entry is used as it stands. (DESIGN CHOICE, log 80.) -/
def State.walk (s : State) (part asid va : Nat) : Except TFault Leaf :=
  let base := (s.pblock part).astb.toNat + 16 * asid
  let e := s.natAt base 8
  if base / 2 ^ 41 = 0 ∧ s.deadDies.contains (bits base 35 6) then .error (accessFault 0x01)
  else if !bit e 0 || bits e 1 11 ≠ 0 || bits e 52 12 ≠ 0 || s.natAt (base + 8) 8 ≠ 0 then .error (pageFault 0x09)
  else s.walkFrom part va 4 (bits e 12 40 * 4096)

/-- The bytes of the table entries that the walk of a VA reads. -/
def State.walkKeys (s : State) (part asid va : Nat) : List Nat :=
  let base := (s.pblock part).astb.toNat + 16 * asid
  let e := s.natAt base 8
  if base / 2 ^ 41 = 0 ∧ s.deadDies.contains (bits base 35 6) then []
  else
    (List.range 16).map (fun j => base + j) ++
      (if !bit e 0 || bits e 1 11 ≠ 0 || bits e 52 12 ≠ 0 || s.natAt (base + 8) 8 ≠ 0 then [] else s.walkFromKeys part va 4 (bits e 12 40 * 4096))

/-- The fields of an entry that a 64 KiB group must share (R32): all but A, D and PPN[3:0]. -/
def groupFields (e : Nat) : Nat := e % 0x40 + bits e 8 4 * 0x100 + e / 0x10000 * 0x10000

/-- Whether the entries of the 64 KiB group of a leaf disagree (R32). -/
def State.groupSplit (s : State) (l : Leaf) : Bool :=
  decide (l.level = 0) && ptePs l.pte == 1
    && !(List.range 16).all (fun j => groupFields (s.natAt (l.at' / 128 * 128 + 8 * j) 8) == groupFields l.pte)

/-- The entry of a 64 KiB group that translates it: any one of the group when its entries disagree (R32), the VA's own otherwise. -/
def State.groupLeaf (s : State) (l : Leaf) : Leaf × State :=
  if l.level = 0 ∧ ptePs l.pte = 1 then
    let base := l.at' / 128 * 128
    if !s.groupSplit l then (l, s)
    else
      let (c, s') := s.choose
      ({ l with pte := s.natAt (base + 8 * ((l.at' / 8 + c) % 16)) 8 }, s')
  else (l, s)

/-- A chosen entry of a group that is no valid leaf gives its own fault (R31). -/
def entryFault (level e : Nat) : Option TFault :=
  if !pteV e then some (pageFault 0x01)
  else if bits e 52 12 ≠ 0 || (!pteR e && !pteW e && !pteX e) || leafBad level e then some (pageFault 0x02) else none

/-- Whether a TLB entry translates a VA for an access (R36): an entry with G = 1 matches every ASID of its partition. -/
def TlbEntry.matches (e : TlbEntry) (a : Acc) (va : Nat) : Bool :=
  e.part == a.part && (e.asid == a.asid || pteG e.pte) && e.va == va / e.size * e.size

/-- The TLB entry that translates a VA for an access: of the core's micro-TLB, else of the die TLB (R36, R37). (DEDUCED, log 13.) -/
def State.tlbFind (s : State) (a : Acc) (va : Nat) : Option TlbEntry :=
  match s.utlb.find? (fun e => a.core == some e.home && e.matches a va) with
  | some e => some e
  | none => s.tlb.find? (fun e => e.home == a.die && e.matches a va)

/-- The permission order of R40, checks 1 to 4. -/
def permCheck (a : Acc) (e : Nat) : Option TFault :=
  if a.user && !pteU e then some (pageFault 0x06)
  else if (a.kind == .read || a.kind == .amo) && !pteR e then some (pageFault 0x03)
  else if (a.kind == .write || a.kind == .amo) && !pteW e then some (pageFault 0x04)
  else if a.kind == .fetch && (!pteX e || (!a.user && pteU e)) then some (pageFault 0x05)
  else none

/-- Whether a byte of module register space is assigned, and readable or writable by a hart of partition `part` (R414). -/
def regAllowed (part : Nat) (write : Bool) (pa40 : Nat) : Bool :=
  if pa40 < 0x10000000000 then
    let off := pa40 % 0x10000000
    decide (pa40 / 0x10000000 < 64) &&
      (decide (off < 16) || (!write && ((decide (0x10000 ≤ off) && decide (off < 0x1000C)) || (decide (0x11000 ≤ off) && decide (off < 0x13000)))))
  else
    !write && ((decide (pa40 - 0x10000000000 < 64 * 0x100) && (pa40 - 0x10000000000) / 0x100 == part && decide (pa40 % 0x100 < 0x34))
      || (decide (0x10000010000 ≤ pa40) && decide (pa40 < 0x10000010008)))

/-- Whether a Grehal link that is not down reaches a peer module (R28, R413). (DESIGN CHOICE, log 6.) -/
def State.reaches (s : State) (m : Nat) : Bool := s.peers.any (fun p => p.1 == m && p.2.any (fun l => !s.down.contains l))

/-- The physical checks of R27, R28, R413 and R414: check 6 of R40. An unpopulated offset of a die that the partition does not own is UNPOP: R28 and R40 do not
rank UNPOP and PARTITION. (DESIGN CHOICE, log 6; DEDUCED, log 71; DESIGN CHOICE, log 76.) -/
def State.physCheck (s : State) (a : Acc) (pa : Nat) : Option TFault :=
  if pa / 2 ^ 51 = 1 then
    let m := bits pa 41 10
    if m = s.moduleNo ∨ !s.reaches m ∨ !a.peer then some (accessFault 0x02)
    else if Config.dramBytes ≤ bits pa 0 35 then some (accessFault 0x01) else none
  else if pa / 2 ^ 41 = 0 then
    if !s.populated pa then some (accessFault 0x01)
    else if !s.ownsDie a.part (bits pa 35 6) then some (accessFault 0x03) else none
  else if isRegSpace pa then
    if a.user || !regAllowed a.part (a.kind == .write || a.kind == .amo) (bits pa 0 41) then some (accessFault 0x02) else none
  else some (accessFault 0x02)

/-- The PA of a VA under a leaf of `size` bytes. -/
def leafPa (e size va : Nat) : Nat := ptePpn e * 4096 / size * size + va % size

/-- Checks 1 to 6 of R40 in order. (DEDUCED, log 71.) -/
def State.leafCheck (s : State) (a : Acc) (e pa : Nat) : Option TFault :=
  match permCheck a e with
  | some f => some f
  | none => if (!pteIdem e || isRegSpace pa) && !a.dev then some (accessFault 0x04) else s.physCheck a pa

/-- Whether an access through an entry needs the walker: D is not yet set for a write (R35). (DEDUCED, log 15.) -/
def needsDirty (a : Acc) (e : Nat) : Bool := (a.kind == .write || a.kind == .amo) && !pteD e

/-- Whether a TLB entry serves an access without the walker (R35). -/
def TlbEntry.usable (e : TlbEntry) (a : Acc) : Bool := pteA e.pte && !needsDirty a e.pte

/-- Sets A, and D for a write, in the entry the walk used (R35). (DEDUCED, log 15.) -/
def State.setAD (s : State) (a : Acc) (l : Leaf) : State :=
  let e := if pteA l.pte then l.pte else l.pte + 0x40
  let e := if needsDirty a l.pte then e + 0x80 else e
  if e = l.pte then s else s.putNat l.at' 8 e

/-- The entry picked for a group whose entries disagree is held by the TLB that looked it up, so that the whole of an access goes through it (R32, R36). -/
def State.holdPicked (s : State) (a : Acc) (va size pte : Nat) : State :=
  let e : TlbEntry := { home := a.core.getD a.die, part := a.part, asid := a.asid, va := va / size * size, size := size, pte := pte ||| (if a.kind == .write || a.kind == .amo then 0xC0 else 0x40) }
  match a.core with
  | some _ => { s with utlb := e :: s.utlb }
  | none => { s with tlb := e :: s.tlb }

/-- What the bank meets as a walk reads its entries: bit errors and wrong checks (R51, R54, R59, R60). -/
def State.meetWalk (s : State) (a : Acc) (va : Nat) : State :=
  let ks := s.walkKeys a.part a.asid va
  s.inspect 1 ks ks

/-- Translation through the page tables: the PA and the machine with A and D set. (DEDUCED, log 13.) -/
def State.viaTables (s : State) (a : Acc) (va : Nat) : Except TFault (Nat × State) :=
  match s.walk a.part a.asid va with
  | .error f => .error f
  | .ok l0 =>
    let split := s.groupSplit l0
    let (l, s) := (s.meetWalk a va).groupLeaf l0
    let size := leafBytes l.level (ptePs l0.pte)
    let pa := leafPa l.pte size va
    match entryFault l.level l.pte with
    | some f => .error f
    | none =>
      match s.leafCheck a l.pte pa with
      | some f => .error f
      | none => .ok (pa, if split then (s.setAD a l0).holdPicked a va size l.pte else s.setAD a l0)

/-- An access through the Chamber aperture (R25): the key of the Chamber byte. A bad address or a fetch is CHAMBER also where the partition does not own the die:
R25 does not rank CHAMBER and PARTITION. (DESIGN CHOICE, log 76.) -/
def State.viaAperture (s : State) (a : Acc) (va : Nat) : Except TFault Nat :=
  let ca := bits va 0 40
  if bits ca 33 7 ≠ 0 ∨ 0x600000 ≤ bits ca 0 23 ∨ a.kind = .fetch then .error (accessFault 0x05)
  else if !s.ownsDie a.part (bits ca 27 6) then .error (accessFault 0x03)
  else .ok (chamberKey ca)

/-- The TVAL of a PAGE or ACCESS fault at a VA (R42). (DEDUCED, log 16.) -/
def faultTval (sub : Byte) (va : Nat) : W64 :=
  BitVec.ofNat 64 (sub.toNat + 256 * (if inAperture va then bits va 12 28 else bits va 12 45))

/-- Resolves a VA to the key of its byte (R23-R28, R40, R41): the whole of translation for one byte. (DEDUCED, log 71.) -/
def State.resolveNat (s : State) (a : Acc) (va : Nat) : Except TFault (Nat × State) :=
  if !canonical va then .error (pageFault 0x07)
  else if inAperture va then
    match s.viaAperture a va with
    | .error f => .error f
    | .ok k => .ok (k, s)
  else
    match s.tlbFind a va with
    | some e =>
      if !e.usable a then s.viaTables a va
      else match s.leafCheck a e.pte (leafPa e.pte e.size va) with
        | some f => .error f
        | none => .ok (leafPa e.pte e.size va, s)
    | none => s.viaTables a va

/-- `resolveNat` with the fault as a hart reports it. -/
def State.resolve (s : State) (a : Acc) (va : W64) : Except MFault (Nat × State) :=
  match s.resolveNat a va.toNat with
  | .error (c, sub) => .error { cause := c, sub := sub, tval := faultTval sub va.toNat }
  | .ok r => .ok r

/-- Keys of the `n` bytes of an access (R41): one translation for each 4 KiB page it touches, the lower page first; in module register
space every byte is checked (R414). `n` is at most 4096. (DEDUCED, log 16.) -/
def State.resolveSpan (s : State) (a : Acc) (va : W64) (n : Nat) : Except MFault (List Nat × State) :=
  match s.resolve a va with
  | .error f => .error f
  | .ok (k, s) =>
    let room := 4096 - va.toNat % 4096
    if n ≤ room then
      if isRegSpace k && !(List.range n).all (fun j => (s.physCheck a (k + j)).isNone) then
        .error { cause := causeAccess, sub := 0x02, tval := faultTval 0x02 va.toNat }
      else .ok ((List.range n).map (fun j => k + j), s)
    else
      match s.resolve a (va + BitVec.ofNat 64 room) with
      | .error f => .error f
      | .ok (k2, s) => .ok ((List.range room).map (fun j => k + j) ++ (List.range (n - room)).map (fun j => k2 + j), s)

/-- Whether data accessed through a VA has its check verified (R44), in the machine that its translation leaves: CHK of the leaf that translates it, none in the aperture. -/
def State.verifies (s : State) (a : Acc) (va : Nat) : Bool :=
  let tables := match s.walk a.part a.asid va with
    | .ok l => pteChk l.pte
    | .error _ => false
  if !canonical va || inAperture va then false
  else
    match s.tlbFind a va with
    | some e => if e.usable a then pteChk e.pte else tables
    | none => tables

/-- Whether an access goes through the page tables (R35-R37). -/
def State.needsWalk (s : State) (a : Acc) (va : Nat) : Bool :=
  canonical va && !inAperture va && (match s.tlbFind a va with | some e => !e.usable a | none => true)

/-- What the walks of an access meet in the entries they read, whether or not it then faults. -/
def State.meetWalks (s : State) (a : Acc) (va : W64) (n : Nat) : State :=
  let s := if s.needsWalk a va.toNat then s.meetWalk a va.toNat else s
  let next := (va + BitVec.ofNat 64 (4096 - va.toNat % 4096)).toNat
  if 4096 - va.toNat % 4096 < n && s.needsWalk a next then s.meetWalk a next else s

/-- The keys among those of an access at `va` whose data is verified (R44), page by page. -/
def State.checkedKeys (s : State) (a : Acc) (va : W64) (ks : List Nat) : List Nat :=
  let room := 4096 - va.toNat % 4096
  (if s.verifies a va.toNat then ks.take room else []) ++
    (if room < ks.length && s.verifies a (va + BitVec.ofNat 64 room).toNat then ks.drop room else [])

/-- The PA a VA translates to, whatever the access may do there; 0 where it does not translate. -/
def State.paOf (s : State) (part asid : Nat) (va : W64) : Nat :=
  if inAperture va.toNat then 0
  else match s.walk part asid va.toNat with
    | .ok l => leafPa l.pte (leafBytes l.level (ptePs l.pte)) va.toNat
    | .error _ => 0

end Sys2Proof.Machine
end

