-- ==== Sys2Proof/Machine/Device.lean ====
section
/-! DEFINITION. Module register space (R414, R415, R418, R378). -/
namespace Sys2Proof.Machine

/-- Sets the read mark of a slot (R392). (DEDUCED, log 70.) -/
def State.markRead (s : State) (d slot : Nat) : State :=
  let l := s.elog d
  s.setElog { l with recs := l.recs.map (fun r => if r.1 % 256 = slot then (r.1, { r.2 with read := true }) else r) }

/-- SCMD of a die (R378); zero until written. -/
def State.scmdOf (s : State) (d : Nat) : BitVec 128 :=
  match s.scmd.find? (fun x => x.1 == d) with
  | some x => x.2
  | none => 0

/-- Replaces SCMD of a die. -/
def State.setScmd (s : State) (d : Nat) (v : BitVec 128) : State :=
  { s with scmd := (d, v) :: s.scmd.filter (fun x => x.1 != d) }

/-- The bytes of a partition block (R415); CMD reads 0. -/
def PBlock.bytes (b : PBlock) : List Byte :=
  leBytes 8 b.dies.toNat ++ leBytes 8 b.astb.toNat ++ leBytes 8 b.ctxp.toNat ++ leBytes 8 b.srec.toNat ++ leBytes 8 b.ns.toNat
    ++ leBytes 4 b.share.toNat ++ leBytes 4 0 ++ leBytes 4 b.pstat.toNat

/-- A byte of module register space at PA[40:0] (R414); bytes the table assigns to nothing read 0. -/
def State.regByte (s : State) (pa40 : Nat) : Byte :=
  if pa40 < 0x10000000000 then
    let d := pa40 / 0x10000000
    let off := pa40 % 0x10000000
    if off < 16 then BitVec.ofNat 8 ((s.scmdOf d).toNat / 2 ^ (8 * off))
    else if 0x10000 ≤ off ∧ off < 0x10008 then BitVec.ofNat 8 ((s.elog d).head / 2 ^ (8 * (off - 0x10000)))
    else if 0x10008 ≤ off ∧ off < 0x1000C then BitVec.ofNat 8 ((s.elog d).lost / 2 ^ (8 * (off - 0x10008)))
    else if 0x11000 ≤ off ∧ off < 0x13000 then
      match (s.elog d).inSlot ((off - 0x11000) / 32) with
      | some (_, r) => r.bytes.getD (off % 32) 0
      | none => 0
    else 0
  else if pa40 < 0x10000004000 then (s.pblock ((pa40 - 0x10000000000) / 0x100)).bytes.getD (pa40 % 0x100) 0
  else if 0x10000010000 ≤ pa40 ∧ pa40 < 0x10000010008 then BitVec.ofNat 8 (s.bootstat.toNat / 2 ^ (8 * (pa40 - 0x10000010000)))
  else 0

/-- What reading a byte of module register space changes: the read mark of an error log slot (R392). -/
def State.regTouch (s : State) (pa40 : Nat) : State :=
  let off := pa40 % 0x10000000
  if pa40 < 0x10000000000 ∧ 0x11000 ≤ off ∧ off < 0x13000 then s.markRead (pa40 / 0x10000000) ((off - 0x11000) / 32) else s

/-- A write of SCMD (R378) by a hart of a partition, or by management: the zero field and MATCH ignore it, and a command of OP 1 to 3 goes to the die's scheduler. -/
def State.writeScmd (s : State) (d v : Nat) (writer : Option Nat) : State :=
  let old := (s.scmdOf d).toNat
  let op := bits v 0 8
  let s := s.setScmd d (BitVec.ofNat 128 (op + bits old 8 24 * 0x100 + bits v 32 16 * 2 ^ 32 + bits v 64 64 * 2 ^ 64))
  if 1 ≤ op ∧ op ≤ 3 then
    { s with cmds := s.cmds ++ [(op, { die := d, asid := bits v 32 16, done := BitVec.ofNat 64 (v / 2 ^ 64), mgmt := writer.isNone, part := writer.getD 0 })] }
  else s

/-- The byte at a key, in memory or in module register space. -/
def State.keyByte (s : State) (k : Nat) : Byte := if isRegSpace k then s.regByte (bits k 0 41) else s.byteAt k

/-- The bytes at a list of keys. -/
def State.keyBytes (s : State) (ks : List Nat) : List Byte := ks.map s.keyByte

/-- The machine after a read of the bytes at a list of keys. -/
def State.touch (s : State) (ks : List Nat) : State :=
  ks.foldl (fun s k => if isRegSpace k then s.regTouch (bits k 0 41) else s) s

/-- Writes bytes at a list of keys of memory. -/
def State.putKeys (s : State) (whole : Bool) : List Nat → List Byte → State
  | k :: ks, b :: bs => State.putKeys (s.putByte whole k b) whole ks bs
  | _, _ => s

end Sys2Proof.Machine
end

