-- ==== Sys2Proof/Machine/Tags.lean ====
section
/-! DEFINITION. The format tags (R209) and the storage of a residency window (R68). -/
namespace Sys2Proof.Machine

/-- Format codes of R209. -/
def Tag.code : Tag → Nat
  | .u8 => 0 | .i8 => 1 | .u16 => 2 | .i16 => 3 | .u32 => 4 | .i32 => 5 | .u64 => 6 | .i64 => 7
  | .f16 => 8 | .bf16 => 9 | .f32 => 10 | .f64 => 11 | .e4m3 => 12 | .e5m2 => 13
  | .bx8 => 14 | .bx4 => 15 | .p16 => 16 | .bxs => 17

/-- The tag of a code; reserved codes have none (R209). -/
def tagOf (c : Nat) : Option Tag :=
  match c with
  | 0 => some .u8 | 1 => some .i8 | 2 => some .u16 | 3 => some .i16 | 4 => some .u32 | 5 => some .i32 | 6 => some .u64 | 7 => some .i64
  | 8 => some .f16 | 9 => some .bf16 | 10 => some .f32 | 11 => some .f64 | 12 => some .e4m3 | 13 => some .e5m2
  | 14 => some .bx8 | 15 => some .bx4 | 16 => some .p16 | 17 => some .bxs
  | _ => none

/-- Bits of an element (R209). -/
def Tag.bits : Tag → Nat
  | .u8 => 8 | .i8 => 8 | .u16 => 16 | .i16 => 16 | .u32 => 32 | .i32 => 32 | .u64 => 64 | .i64 => 64
  | .f16 => 16 | .bf16 => 16 | .f32 => 32 | .f64 => 64 | .e4m3 => 8 | .e5m2 => 8
  | .bx8 => 8 | .bx4 => 4 | .p16 => 16 | .bxs => 16

/-- Bytes of an element; BX4 has half a byte and counts 1 where a byte is needed. -/
def Tag.bytes (t : Tag) : Nat := (t.bits + 7) / 8

/-- Integer and float tags (R209). -/
def Tag.isInt (t : Tag) : Bool := decide (t.code < 8)
def Tag.isFloat (t : Tag) : Bool := decide (8 ≤ t.code) && decide (t.code < 14)
def Tag.signed (t : Tag) : Bool := t.isInt && t.code % 2 == 1
def Tag.isBx (t : Tag) : Bool := t == .bx8 || t == .bx4

/-- Bytes of an element in memory and in its slot. -/
def Window.esize (w : Window) : Nat := w.t.tag.bytes

/-- Slots along each dimension. -/
def Wdesc.alloc (d : Wdesc) : List Nat := d.alog.map (fun n => 2 ^ n)

/-- A product. -/
def prodNat : List Nat → Nat
  | [] => 1
  | n :: r => n * prodNat r

/-- The storage lines, and the storage in bytes (R68). -/
def Window.lines (w : Window) : Nat := (prodNat w.d.alloc * w.esize + 255) / 256
def Window.bytes (w : Window) : Nat := 256 * w.lines

/-- The storage of a window as an offset and a length in its core's Chamber. -/
def Window.range (w : Window) : Nat × Nat := (w.d.cbase, w.bytes)

end Sys2Proof.Machine
end

