-- ==== Sys2Proof/Machine/Formats.lean ====
section
/-! DEFINITION. Number formats and rounding (R209, R217-R222, R227-R230): exact values, reading codes, and the one rounding into a format. -/
namespace Sys2Proof.Machine

/-- Masks of the VSTAT flags (R214). -/
def flSAT : W64 := 0x01
def flNV : W64 := 0x02
def flOF : W64 := 0x04
def flUF : W64 := 0x08
def flNX : W64 := 0x10
def flDZ : W64 := 0x20
def flPDEP : W64 := 0x40
def flTINV : W64 := 0x80

/-- An exact value: NaN, an infinity, or a number (-1)^neg · (m + δ) · 2^e, where δ is 0, or unknown strictly between 0 and 1 when `sticky` holds. -/
inductive Val where
  | nan
  | inf (neg : Bool)
  | num (neg : Bool) (m : Nat) (e : Int) (sticky : Bool)
deriving DecidableEq, Repr

/-- An integer as a value. -/
def Val.ofInt (i : Int) : Val := .num (decide (i < 0)) i.natAbs 0 false

/-- Zero with a sign. -/
def Val.zero (neg : Bool) : Val := .num neg 0 0 false

def Val.isNan : Val → Bool
  | .nan => true
  | .inf _ => false
  | .num _ _ _ _ => false

def Val.isInf : Val → Bool
  | .nan => false
  | .inf _ => true
  | .num _ _ _ _ => false

def Val.isZero : Val → Bool
  | .nan => false
  | .inf _ => false
  | .num _ m _ st => m == 0 && !st

def Val.negative : Val → Bool
  | .nan => false
  | .inf n => n
  | .num n _ _ _ => n

/-- The value with its sign changed; NaN stays. -/
def Val.neg : Val → Val
  | .nan => .nan
  | .inf n => .inf (!n)
  | .num n m e st => .num (!n) m e st

/-- The magnitude of a value. -/
def Val.abs : Val → Val
  | .nan => .nan
  | .inf _ => .inf false
  | .num _ m e st => .num false m e st

/-- The value times 2^k. -/
def Val.scale (k : Int) : Val → Val
  | .nan => .nan
  | .inf n => .inf n
  | .num n m e st => .num n m (e + k) st

/-- A float format of R217: exponent bits, fraction bits, bias, whether it has infinities, the largest finite code and the canonical NaN. -/
structure FFmt where
  eb : Nat
  mb : Nat
  bias : Nat
  hasInf : Bool
  maxCode : Nat
  nanCode : Nat
deriving DecidableEq, Repr

def ff64 : FFmt := { eb := 11, mb := 52, bias := 1023, hasInf := true, maxCode := 0x7FEFFFFFFFFFFFFF, nanCode := 0x7FF8000000000000 }
def ff32 : FFmt := { eb := 8, mb := 23, bias := 127, hasInf := true, maxCode := 0x7F7FFFFF, nanCode := 0x7FC00000 }
def ff16 : FFmt := { eb := 5, mb := 10, bias := 15, hasInf := true, maxCode := 0x7BFF, nanCode := 0x7E00 }
def ffBf16 : FFmt := { eb := 8, mb := 7, bias := 127, hasInf := true, maxCode := 0x7F7F, nanCode := 0x7FC0 }
def ffE5m2 : FFmt := { eb := 5, mb := 2, bias := 15, hasInf := true, maxCode := 0x7B, nanCode := 0x7E }
def ffE4m3 : FFmt := { eb := 4, mb := 3, bias := 7, hasInf := false, maxCode := 0x7E, nanCode := 0x7F }

/-- The float format of a tag; FP32 for the tags that have none. -/
def Tag.fmt : Tag → FFmt
  | .f64 => ff64 | .f32 => ff32 | .f16 => ff16 | .bf16 => ffBf16 | .e5m2 => ffE5m2 | .e4m3 => ffE4m3
  | .u8 => ff32 | .i8 => ff32 | .u16 => ff32 | .i16 => ff32 | .u32 => ff32 | .i32 => ff32 | .u64 => ff32 | .i64 => ff32
  | .bx8 => ff32 | .bx4 => ff32 | .p16 => ff32 | .bxs => ff32

/-- The sign bit's weight. -/
def FFmt.signW (f : FFmt) : Nat := 2 ^ (f.eb + f.mb)

/-- The exponent of one unit in the last place of the subnormals. -/
def FFmt.qmin (f : FFmt) : Int := 1 - (f.bias : Int) - (f.mb : Int)

/-- The value of a float code (R217), subnormals read as zero under FTZ (R219). -/
def FFmt.decode (f : FFmt) (ftz : Bool) (code : Nat) : Val :=
  let neg := decide (f.signW ≤ code % (2 * f.signW))
  let mag := code % f.signW
  if f.maxCode < mag then
    if f.hasInf && mag == f.maxCode + 1 then .inf neg else .nan
  else
    let ex := mag / 2 ^ f.mb
    let fr := mag % 2 ^ f.mb
    if ex = 0 then (if ftz then .zero neg else .num neg fr f.qmin false)
    else .num neg (fr + 2 ^ f.mb) (f.qmin + (ex : Int) - 1) false

/-- The number of bits of a natural number. -/
def bitLen (n : Nat) : Nat := if n = 0 then 0 else Nat.log2 n + 1

/-- Rounding controls (FRM, R214) and, under SR, the draw the element takes. -/
structure Rnd where
  mode : Nat
  ieee : Bool
  ftz : Bool
  draw : Nat
deriving DecidableEq, Repr

/-- Whether a magnitude floor + (rem + δ)/2^d rounds up (R227, R230). -/
def roundsUp (r : Rnd) (neg : Bool) (odd : Bool) (rem d : Nat) (sticky : Bool) : Bool :=
  let inexact := rem != 0 || sticky
  let half := 2 ^ d / 2
  match r.mode with
  | 1 => false
  | 2 => neg && inexact
  | 3 => !neg && inexact
  | 4 => d != 0 && decide (half ≤ rem)
  | 5 => decide (0x10000 ≤ rem * 0x10000 / 2 ^ d + r.draw)
  | _ => d != 0 && (decide (half < rem) || (rem == half && (sticky || odd)))

/-- Rounds m + δ, in units of 2^e, to units of 2^q: the magnitude, and whether it is inexact. -/
def roundUnits (r : Rnd) (neg : Bool) (m : Nat) (e q : Int) (sticky : Bool) : Nat × Bool :=
  if q ≤ e then
    let fl := m * 2 ^ (e - q).toNat
    (if roundsUp r neg (fl % 2 == 1) 0 0 sticky then fl + 1 else fl, sticky)
  else
    let d := (q - e).toNat
    let fl := m / 2 ^ d
    let rem := m % 2 ^ d
    (if roundsUp r neg (fl % 2 == 1) rem d sticky then fl + 1 else fl, rem != 0 || sticky)

/-- What a rounding writes: the code, the VSTAT flags it sets, and whether it is a saturation (R211). -/
structure Rounded where
  code : Nat
  flags : W64
  sat : Bool
deriving DecidableEq, Repr

/-- The infinite result of an overflow or an infinity in a format (R228). -/
def FFmt.infResult (f : FFmt) (neg : Bool) (fl : W64) : Rounded :=
  if f.hasInf then { code := f.maxCode + 1 + (if neg then f.signW else 0), flags := fl, sat := false }
  else { code := f.nanCode, flags := fl ||| flNV, sat := false }

/-- An overflow (R228). -/
def FFmt.overflow (f : FFmt) (r : Rnd) (neg : Bool) : Rounded :=
  let s := if neg then f.signW else 0
  if !r.ieee then { code := f.maxCode + s, flags := flNX, sat := true }
  else if r.mode = 1 || (r.mode == 2 && !neg) || (r.mode == 3 && neg) then { code := f.maxCode + s, flags := flOF ||| flNX, sat := false }
  else f.infResult neg (flOF ||| flNX)

/-- The one rounding of a value into a float format (R217-R219, R227-R230). -/
def FFmt.round (f : FFmt) (r : Rnd) (v : Val) : Rounded :=
  match v with
  | .nan => { code := f.nanCode, flags := 0, sat := false }
  | .inf neg =>
    if f.hasInf then { code := f.maxCode + 1 + (if neg then f.signW else 0), flags := 0, sat := false }
    else if r.ieee then { code := f.nanCode, flags := flNV, sat := false }
    else { code := f.maxCode + (if neg then f.signW else 0), flags := 0, sat := true }
  | .num neg m e st =>
    let s := if neg then f.signW else 0
    if m = 0 && !st then { code := s, flags := 0, sat := false }
    else
      let top := (bitLen m : Int) + e
      let free := top - ((f.mb : Int) + 1)
      let q := if free < f.qmin then f.qmin else free
      let (mag, inexact) := roundUnits r neg m e q st
      let code := (q - f.qmin).toNat * 2 ^ f.mb + mag
      if f.maxCode < code then f.overflow r neg
      else
        let tiny := decide (free < f.qmin) &&
          (let (u, _) := roundUnits r neg m e free st; decide ((bitLen u : Int) + free ≤ f.qmin + (f.mb : Int)))
        if r.ftz && decide (code < 2 ^ f.mb) && code != 0 then { code := s, flags := flUF ||| flNX, sat := false }
        else { code := code + s, flags := (if inexact then flNX else 0) ||| (if tiny && inexact then flUF else 0), sat := false }

/-- A value rounded to an integer (R221, R227): the integer and whether it is inexact; infinities and NaN are dealt with by the caller. -/
def roundInt (r : Rnd) (neg : Bool) (m : Nat) (e : Int) (st : Bool) : Int × Bool :=
  let (mag, ix) := roundUnits r neg m e 0 st
  (if neg then -(mag : Int) else (mag : Int), ix)

/-- Range of an integer tag. -/
def Tag.minInt (t : Tag) : Int := if t.signed then -(2 ^ (t.bits - 1) : Int) else 0
def Tag.maxInt (t : Tag) : Int := if t.signed then 2 ^ (t.bits - 1) - 1 else 2 ^ t.bits - 1

/-- The code of an integer modulo 2^bits. -/
def wrapCode (bits : Nat) (i : Int) : Nat := (i % (2 ^ bits : Int)).toNat

/-- The integer of a code under an integer tag. -/
def Tag.intOf (t : Tag) (code : Nat) : Int :=
  let c := code % 2 ^ t.bits
  if t.signed && decide (2 ^ (t.bits - 1) ≤ c) then (c : Int) - 2 ^ t.bits else c

/-- An integer clamped into an integer tag: a clamp is a saturation (R221). -/
def Tag.clampInt (t : Tag) (i : Int) (fl : W64) : Rounded :=
  if i < t.minInt then { code := wrapCode t.bits t.minInt, flags := fl, sat := true }
  else if t.maxInt < i then { code := wrapCode t.bits t.maxInt, flags := fl, sat := true }
  else { code := wrapCode t.bits i, flags := fl, sat := false }

/-- Conversion into an integer tag (R221). -/
def Tag.roundToInt (t : Tag) (r : Rnd) (v : Val) : Rounded :=
  match v with
  | .nan => { code := 0, flags := flNV, sat := false }
  | .inf neg => { code := wrapCode t.bits (if neg then t.minInt else t.maxInt), flags := 0, sat := true }
  | .num neg m e st =>
    let (i, ix) := roundInt r neg m e st
    t.clampInt i (if ix then flNX else 0)

/-- Conversion into P16 (R222). -/
def roundP16 (r : Rnd) (v : Val) : Rounded :=
  match v with
  | .nan => { code := 0, flags := flNV, sat := false }
  | .inf neg => { code := if neg then 0 else 0x8000, flags := 0, sat := true }
  | .num neg m e st =>
    let (i, ix) := roundInt r neg m (e + 15) st
    let fl := if ix then flNX else 0
    if i < 0 then { code := 0, flags := fl, sat := true }
    else if 0x8000 < i then { code := 0x8000, flags := fl, sat := true }
    else { code := i.toNat, flags := fl, sat := false }

/-- The value of a P16 code (R222). -/
def p16Val (code : Nat) : Val := .num false (Nat.min (code % 0x10000) 0x8000) (-15) false

/-- Whether a mask code is active (R222). -/
def activeCode (code : Nat) : Bool := decide (0x4000 ≤ code)

/-- The value of a code under an integer, float or P16 tag. -/
def Tag.decode (t : Tag) (ftz : Bool) (code : Nat) : Val :=
  if t.isInt then .ofInt (t.intOf code) else if t.isFloat then t.fmt.decode ftz code else p16Val code

/-- The one rounding of a value into an integer, float or P16 tag. -/
def Tag.round (t : Tag) (r : Rnd) (v : Val) : Rounded :=
  if t.isInt then t.roundToInt r v else if t.isFloat then t.fmt.round r v else roundP16 r v

/-! Exact arithmetic. -/

/-- The signed integer of a number in units of 2^q, for q at or below its exponent. -/
def unitsAt (neg : Bool) (m : Nat) (e q : Int) : Int :=
  let u : Int := Int.ofNat (m * 2 ^ (e - q).toNat)
  if neg then -u else u

/-- The exact sum of two numbers; an exact zero sum of opposite signs is +0, or −0 under RDN. (PRESUMED, log 28.) -/
def addNum (rdn : Bool) (n1 : Bool) (m1 : Nat) (e1 : Int) (n2 : Bool) (m2 : Nat) (e2 : Int) : Val :=
  if m1 = 0 ∧ m2 = 0 then .zero (if n1 = n2 then n1 else rdn)
  else if m1 = 0 then .num n2 m2 e2 false
  else if m2 = 0 then .num n1 m1 e1 false
  else
    let q := if e1 < e2 then e1 else e2
    let t := unitsAt n1 m1 e1 q + unitsAt n2 m2 e2 q
    if t = 0 then .zero rdn else .num (decide (t < 0)) t.natAbs q false

/-- The exact sum of two values and the flags of an invalid one (R229). (PRESUMED, log 28.) -/
def Val.add (rdn : Bool) (a b : Val) : Val × W64 :=
  match a, b with
  | .nan, _ => (.nan, flNV)
  | _, .nan => (.nan, flNV)
  | .inf n1, .inf n2 => if n1 = n2 then (.inf n1, 0) else (.nan, flNV)
  | .inf n, .num _ _ _ _ => (.inf n, 0)
  | .num _ _ _ _, .inf n => (.inf n, 0)
  | .num n1 m1 e1 _, .num n2 m2 e2 _ => (addNum rdn n1 m1 e1 n2 m2 e2, 0)

/-- The exact product of two values (R229: 0·∞ is invalid). -/
def Val.mul (a b : Val) : Val × W64 :=
  match a, b with
  | .nan, _ => (.nan, flNV)
  | _, .nan => (.nan, flNV)
  | .inf n1, .inf n2 => (.inf (n1 != n2), 0)
  | .inf n1, .num n2 m _ _ => if m = 0 then (.nan, flNV) else (.inf (n1 != n2), 0)
  | .num n1 m _ _, .inf n2 => if m = 0 then (.nan, flNV) else (.inf (n1 != n2), 0)
  | .num n1 m1 e1 _, .num n2 m2 e2 _ => (.num (n1 != n2) (m1 * m2) (e1 + e2) false, 0)

/-- a·b + c, exact (R235). -/
def Val.fma (rdn : Bool) (a b c : Val) : Val × W64 :=
  let (p, f) := a.mul b
  if f ≠ 0 then (.nan, f) else p.add rdn c

/-- The quotient of two values: floor to at least 120 bits with a sticky remainder (R229: 0/0 and ∞/∞ are invalid, x/0 sets DZ). -/
def Val.div (a b : Val) : Val × W64 :=
  match a, b with
  | .nan, _ => (.nan, flNV)
  | _, .nan => (.nan, flNV)
  | .inf _, .inf _ => (.nan, flNV)
  | .inf n1, .num n2 _ _ _ => (.inf (n1 != n2), 0)
  | .num n1 _ _ _, .inf n2 => (.zero (n1 != n2), 0)
  | .num n1 m1 e1 _, .num n2 m2 e2 _ =>
    if m2 = 0 then (if m1 = 0 then (.nan, flNV) else (.inf (n1 != n2), flDZ))
    else if m1 = 0 then (.zero (n1 != n2), 0)
    else
      let k := 120 + bitLen m2 - bitLen m1
      let n := m1 * 2 ^ k
      (.num (n1 != n2) (n / m2) (e1 - e2 - (k : Int)) (n % m2 != 0), 0)

/-- floor(sqrt n) for n < 4^k, one bit at a time. -/
def isqrt (n : Nat) : Nat → Nat → Nat
  | 0, acc => acc
  | k + 1, acc => let t := acc + 2 ^ k; isqrt n k (if t * t ≤ n then t else acc)

/-- The square root (R229: of a negative value it is invalid; of −0 it is −0). -/
def Val.sqrt (a : Val) : Val × W64 :=
  match a with
  | .nan => (.nan, flNV)
  | .inf n => if n then (.nan, flNV) else (.inf false, 0)
  | .num n m e _ =>
    if m = 0 then (.zero n, 0)
    else if n then (.nan, flNV)
    else
      let m := if e % 2 = 0 then m else 2 * m
      let e := if e % 2 = 0 then e else e - 1
      let k : Nat := 130
      let x := m * 4 ^ k
      let r := isqrt x (bitLen x / 2 + 1) 0
      (.num false r (e / 2 - (k : Int)) (r * r != x), 0)

/-- The comparison of two numbers: negative, zero or positive as a is below, at or above b; infinities count, NaN does not reach here. -/
def Val.cmp (a b : Val) : Int :=
  match a, b with
  | .nan, _ => 0
  | _, .nan => 0
  | .inf n1, .inf n2 => if n1 = n2 then 0 else if n1 then -1 else 1
  | .inf n, .num _ _ _ _ => if n then -1 else 1
  | .num _ _ _ _, .inf n => if n then 1 else -1
  | .num n1 m1 e1 _, .num n2 m2 e2 _ =>
    let q := if e1 < e2 then e1 else e2
    unitsAt n1 m1 e1 q - unitsAt n2 m2 e2 q

/-- The lesser and the greater of two values, −0 below +0 (R273). -/
def Val.below (a b : Val) : Bool := decide (Val.cmp a b < 0) || (decide (Val.cmp a b = 0) && a.negative && !b.negative)
def valMin (a b : Val) : Val × W64 := if a.isNan || b.isNan then (.nan, flNV) else (if b.below a then b else a, 0)
def valMax (a b : Val) : Val × W64 := if a.isNan || b.isNan then (.nan, flNV) else (if a.below b then b else a, 0)

/-- Round to nearest even with IEEE overflow and no flush, for intermediate results the spec fixes so. -/
def Rnd.rne (r : Rnd) : Rnd := { r with mode := 0 }

end Sys2Proof.Machine
end

