-- ==== Sys2Proof/Machine/Exact.lean ====
section
/-! DEFINITION. Exact real functions for rounding (R276, R301): powers of two, binary logarithm, reciprocal square root and the logistic
function, as the floor of the value to about 200 bits with a sticky remainder. -/
namespace Sys2Proof.Machine

/-- Bits of the fixed-point work. (DEDUCED, log 30.) -/
def fxP : Nat := 240
def fxOne : Nat := 2 ^ fxP

/-- Σ over k from 1 of 1/(k·2^k) = ln 2, n terms from term k. -/
def ln2Terms : Nat → Nat → Nat
  | 0, _ => 0
  | n + 1, k => fxOne / (k * 2 ^ k) + ln2Terms n (k + 1)

def fxLn2 : Nat := ln2Terms 250 1

/-- Σ of y^k/k! from a given term on. -/
def expTerms (y : Nat) : Nat → Nat → Nat → Nat
  | 0, _, _ => 0
  | n + 1, k, t => t + expTerms y n (k + 1) (t * y / fxOne / k)

/-- e^y for fixed-point y below 1. (DEDUCED, log 30.) -/
def fxExp (y : Nat) : Nat := expTerms y 64 1 fxOne

/-- Σ of z^(2k+1)/(2k+1) from a given term on: the inverse hyperbolic tangent. -/
def atanhTerms (z2 : Nat) : Nat → Nat → Nat → Nat
  | 0, _, _ => 0
  | n + 1, k, t => t / k + atanhTerms z2 n (k + 2) (t * z2 / fxOne)

/-- ln t for fixed-point t in [1, 2). (DEDUCED, log 30.) -/
def fxLn (t : Nat) : Nat :=
  let z := (t - fxOne) * fxOne / (t + fxOne)
  2 * atanhTerms (z * z / fxOne) 90 1 z

/-- floor(m · 2^e · 2^P) as a fixed-point integer part and fraction of a signed number: (floor, fraction, whether bits were dropped). -/
def fxSplit (neg : Bool) (m : Nat) (e : Int) : Int × Nat × Bool :=
  let s := e + (fxP : Int)
  let mag := if 0 ≤ s then m * 2 ^ s.toNat else m / 2 ^ (-s).toNat
  let lost := decide (s < 0) && m % 2 ^ (-s).toNat != 0
  let v : Int := if neg then -(mag : Int) - (if lost then 1 else 0) else mag
  (v / (fxOne : Int), (v % (fxOne : Int)).toNat, lost)

/-- 2^b. (DEDUCED, log 30.) -/
def Val.exp2 (b : Val) : Val × W64 :=
  match b with
  | .nan => (.nan, flNV)
  | .inf neg => (if neg then .zero false else .inf false, 0)
  | .num neg m e _ =>
    if m = 0 then (.num false 1 0 false, 0)
    else if 14 < (bitLen m : Int) + e then (.num false 1 (if neg then -20000 else 20000) true, 0)
    else
      let (n, f, lost) := fxSplit neg m e
      if f = 0 ∧ !lost then (.num false 1 n false, 0)
      else (.num false (fxExp (f * fxLn2 / fxOne)) (n - (fxP : Int)) true, 0)

/-- log₂ b (R277). (DEDUCED, log 30.) -/
def Val.log2 (b : Val) : Val × W64 :=
  match b with
  | .nan => (.nan, flNV)
  | .inf neg => if neg then (.nan, flNV) else (.inf false, 0)
  | .num neg m e _ =>
    if m = 0 then (.inf true, flDZ)
    else if neg then (.nan, flNV)
    else
      let k := bitLen m - 1
      let n : Int := (k : Int) + e
      if m = 2 ^ k then (.ofInt n, 0)
      else
        let l := fxLn (m * fxOne / 2 ^ k) * fxOne / fxLn2
        let v : Int := n * (fxOne : Int) + l
        if 0 ≤ v then (.num false v.toNat (-(fxP : Int)) true, 0) else (.num true ((-v).toNat - 1) (-(fxP : Int)) true, 0)

/-- 1/√b (R277). -/
def Val.rsqrt (b : Val) : Val × W64 :=
  match b with
  | .nan => (.nan, flNV)
  | .inf neg => if neg then (.nan, flNV) else (.zero false, 0)
  | .num neg m e _ =>
    if m = 0 then (.inf false, flDZ)
    else if neg then (.nan, flNV)
    else
      let m := if e % 2 = 0 then m else 2 * m
      let e := if e % 2 = 0 then e else e - 1
      let t := bitLen m + 130
      let y := 4 ^ t / m
      let r := isqrt y (bitLen y / 2 + 1) 0
      (.num false r (-(e / 2) - (t : Int)) (r * r * m != 4 ^ t), 0)

/-- 1/(1 + e^(−z)) for a number z: the logistic function (R301), 1/2 at 0. -/
def Val.logistic (z : Val) : Val :=
  match z with
  | .nan => .nan
  | .inf neg => if neg then .zero false else .num false 1 0 false
  | .num neg m e _ =>
    if m = 0 then .num false 1 (-1) false
    else if 9 < (bitLen m : Int) + e then (if neg then .num false 1 (-600) true else .num false (2 ^ 600 - 1) (-600) true)
    else
      let mag := if 0 ≤ e + (fxP : Int) then m * 2 ^ (e + (fxP : Int)).toNat else m / 2 ^ (-(e + (fxP : Int))).toNat
      let y := mag * fxOne / fxLn2
      let n := y / fxOne
      let x := fxExp (y % fxOne * fxLn2 / fxOne) * 2 ^ n
      if neg then .num false (fxOne * fxOne / (fxOne + x)) (-(fxP : Int)) true
      else .num false (x * fxOne / (fxOne + x)) (-(fxP : Int)) true

end Sys2Proof.Machine
end

