-- ==== Sys2Proof/Machine/Graph.lean ====
section
/-! DEFINITION. Flowstone graphs: the image and its checks (R357-R360, R362), evaluation (R361), and the transform of accesses to bound ranges (R364, R365). -/
namespace Sys2Proof.Machine

/-! Evaluation. -/

/-- What the inputs of a graph hold for one element (R359), and the codes of the nodes evaluated so far, in order. -/
structure FEnv where
  x : Nat
  p0 : Nat
  p1 : Nat
  r : Nat
  j : Nat
  vals : List Nat
deriving DecidableEq, Repr

/-- The value an input code names (R359). -/
def FEnv.input (e : FEnv) (c : Nat) : Nat :=
  match c with
  | 0x40 => e.x
  | 0x41 => e.p0
  | 0x42 => e.p1
  | 0x43 => e.r
  | 0x44 => e.j
  | n => e.vals.getD n 0

/-- The format of the value an input code names. -/
def Graph.inputFmt (g : Graph) (c : Nat) : Tag :=
  match c with
  | 0x40 => g.mfmt
  | 0x41 => g.mfmt
  | 0x42 => g.mfmt
  | 0x43 => .i32
  | 0x44 => .i32
  | n => match g.nodes[n]? with | some d => d.fmt | none => .i32

/-- The rounding of a graph: to nearest even, overflow under OPT.OVF, subnormals kept (R361). -/
def Graph.rnd (g : Graph) : Rnd := { mode := 0, ieee := g.ovf, ftz := false, draw := 0 }

/-- A value as a node writes it: its code and whether it made a graph saturation. -/
def Graph.put (g : Graph) (t : Tag) (v : Val) : Nat × Bool :=
  let r := t.round g.rnd v
  (r.code, r.sat)

/-- An arithmetic node: integers wrap modulo 2^32, floats round once. -/
def Graph.arith (g : Graph) (t : Tag) (i : Int) (v : Val) : Nat × Bool := if t.isInt then (wrapCode 32 i, false) else g.put t v

/-- Compare codes of CMP (R360); a NaN compares as vcmp does. -/
def cmpHolds (sel : Nat) (t : Tag) (a b : Nat) : Bool :=
  let x := t.decode false a
  let y := t.decode false b
  if x.isNan || y.isNan then sel == 1
  else
    let c := Val.cmp x y
    match sel with
    | 0 => c == 0
    | 1 => c != 0
    | 2 => decide (c < 0)
    | 3 => decide (c ≤ 0)
    | 4 => decide (0 < c)
    | _ => decide (0 ≤ c)

/-- A signed shift amount. -/
def shiftBy (imm : W32) (a : Nat) : Nat :=
  let n := imm.toInt
  if 0 ≤ n then wrapCode 32 (a * 2 ^ n.toNat) else wrapCode 32 (Tag.i32.intOf a / (2 ^ (-n).toNat : Int))

/-- The result of a node before its NaN is made canonical (R360, R361): `hist` holds the earlier elements of the row, the nearest first. -/
def Graph.rawNode (g : Graph) (hist : List FEnv) (e : FEnv) (n : FNode) : Nat × Bool :=
  let a := e.input n.in0
  let b := e.input n.in1
  let c := e.input n.in2
  let t := n.fmt
  let va := t.decode false a
  let vb := t.decode false b
  let vc := t.decode false c
  match n.op with
  | 0x01 => (n.imm.toNat % 2 ^ t.bits, false)
  | 0x02 => g.arith t (t.intOf a + t.intOf b) (va.add false vb).1
  | 0x03 => g.arith t (t.intOf a * t.intOf b) (va.mul vb).1
  | 0x04 => g.arith t (t.intOf a * t.intOf b + t.intOf c) (Val.fma false va vb vc).1
  | 0x05 => g.arith t (if t.intOf b < t.intOf a then t.intOf b else t.intOf a) (valMin va vb).1
  | 0x06 => g.arith t (if t.intOf a < t.intOf b then t.intOf b else t.intOf a) (valMax va vb).1
  | 0x07 => (if cmpHolds n.sel (g.inputFmt n.in0) a b then 1 else 0, false)
  | 0x08 => (if a ≠ 0 then b else c, false)
  | 0x09 => g.put t ((g.inputFmt n.in0).decode false a)
  | 0x0A => (shiftBy n.imm a, false)
  | 0x0B => g.put t va.sqrt.1
  | 0x0C => g.put t va.rsqrt.1
  | _ => (match hist[n.sel - 1]? with | some p => p.input n.in0 | none => n.imm.toNat % 2 ^ t.bits, false)

/-- One node (R361): a NaN of a float node is the canonical one, whatever the operation. -/
def Graph.node (g : Graph) (hist : List FEnv) (e : FEnv) (n : FNode) : Nat × Bool :=
  let r := g.rawNode hist e n
  let v := n.fmt.decode false r.1
  if !n.fmt.isInt && v.isNan then ((g.put n.fmt v).1, r.2) else r

/-- The nodes of a graph for one element, in ascending order. -/
def Graph.eval (g : Graph) (hist : List FEnv) (e : FEnv) : FEnv × Bool :=
  g.nodes.foldl (fun (es : FEnv × Bool) n =>
    let (v, s) := g.node hist es.1 n
    ({ es.1 with vals := es.1.vals ++ [v] }, es.2 || s)) (e, false)

/-- A row evaluated element by element (R367): each element's environment, in order, with its saturation. -/
def Graph.evalRow (g : Graph) : List FEnv → List FEnv → List (FEnv × Bool)
  | _, [] => []
  | hist, e :: r =>
    let x := g.eval hist e
    x :: g.evalRow (x.1 :: hist) r

/-- What a stream-kind graph makes of one element (R365). -/
def Graph.map (g : Graph) (v : Nat) : Nat := ((g.eval [] { x := v, p0 := 0, p1 := 0, r := 0, j := 0, vals := [] }).1.vals).getD g.outw 0

/-! The image. -/

/-- A little-endian field of bytes. -/
def fieldAt (bs : List Byte) (off n : Nat) : Nat := leNat ((bs.drop off).take n)

/-- The formats a graph may carry (R357, R358). -/
def graphFmt (c : Nat) : Bool := c == 0x05 || c == 0x09 || c == 0x0A

/-- Node n of an image. -/
def parseNode (bs : List Byte) (n : Nat) : FNode :=
  let o := 0x40 + 16 * n
  { op := fieldAt bs o 1, fmt := (tagOf (fieldAt bs (o + 1) 1)).getD .i32, in0 := fieldAt bs (o + 2) 1, in1 := fieldAt bs (o + 3) 1, in2 := fieldAt bs (o + 4) 1
    sel := fieldAt bs (o + 5) 1, imm := BitVec.ofNat 32 (fieldAt bs (o + 8) 4) }

/-- The graph of an image, before its checks. -/
def parseGraph (bs : List Byte) : Graph :=
  { kind := fieldAt bs 1 1, mfmt := (tagOf (fieldAt bs 3 1)).getD .i32, outw := fieldAt bs 4 1
    out1 := if fieldAt bs 5 1 = 0xFF then none else some (fieldAt bs 5 1), paths := fieldAt bs 6 1, ovf := bit (fieldAt bs 7 1) 0
    nodes := (List.range (fieldAt bs 2 1)).map (parseNode bs), bound := [] }

/-- Inputs each operation uses (R360). -/
def opArity (op : Nat) : Nat :=
  if op = 1 then 0 else if op = 4 ∨ op = 8 then 3 else if op = 2 ∨ op = 3 ∨ op = 5 ∨ op = 6 ∨ op = 7 then 2 else 1

/-- Whether an input code may stand in node n of a graph (R359, R362). -/
def Graph.inputOk (g : Graph) (n c : Nat) : Bool := decide (c < n) || c == 0x40 || (g.kind == 0 && decide (0x41 ≤ c) && decide (c ≤ 0x44))

/-- The format an input of a node must carry; none where any will do (R360). -/
def Graph.inputNeeds (g : Graph) (d : FNode) (k : Nat) : Option Tag :=
  if d.op = 9 then none
  else if d.op = 7 then (if k = 1 then some (g.inputFmt d.in0) else none)
  else if d.op = 8 && k == 0 then some .i32
  else some d.fmt

/-- An input field of a node: a legal code of the right format where the operation uses it, zero elsewhere. -/
def Graph.fieldOk (g : Graph) (n : Nat) (d : FNode) (k c : Nat) : Bool :=
  if k < opArity d.op then
    g.inputOk n c && (match g.inputNeeds d k with | some t => g.inputFmt c == t | none => true)
  else c == 0

/-- The first offset whose field fails, in a list of checks by rising offset. -/
def firstBad (l : List (Nat × Bool)) : Option Nat := (l.find? (fun x => !x.2)).map Prod.fst

/-- The checks of node n (R358-R360, R362). (DEDUCED, log 62.) -/
def Graph.nodeChecks (g : Graph) (bs : List Byte) (n : Nat) : List (Nat × Bool) :=
  let d := parseNode bs n
  let o := 0x40 + 16 * n
  let f := fieldAt bs (o + 1) 1
  let sh := d.imm.toInt
  [(o, decide (1 ≤ d.op) && decide (d.op ≤ 13) && !(d.op == 13 && g.kind != 0)),
   (o + 1, graphFmt f && !((d.op == 7 || d.op == 10) && f != 5) && !((d.op == 11 || d.op == 12) && f == 5)),
   (o + 2, g.fieldOk n d 0 d.in0), (o + 3, g.fieldOk n d 1 d.in1), (o + 4, g.fieldOk n d 2 d.in2),
   (o + 5, if d.op = 7 then decide (d.sel ≤ 5) else if d.op = 13 then decide (1 ≤ d.sel) && decide (d.sel ≤ 16) else d.sel == 0),
   (o + 6, fieldAt bs (o + 6) 2 == 0),
   (o + 8, if d.op = 10 then decide (-31 ≤ sh) && decide (sh ≤ 31) else d.op == 1 || d.op == 13 || d.imm == 0),
   (o + 12, fieldAt bs (o + 12) 4 == 0)]

/-- The checks of an entry at or above NNODE: all zero. -/
def emptyChecks (bs : List Byte) (n : Nat) : List (Nat × Bool) :=
  let o := 0x40 + 16 * n
  [(o, fieldAt bs o 1 == 0), (o + 1, fieldAt bs (o + 1) 1 == 0), (o + 2, fieldAt bs (o + 2) 1 == 0), (o + 3, fieldAt bs (o + 3) 1 == 0),
   (o + 4, fieldAt bs (o + 4) 1 == 0), (o + 5, fieldAt bs (o + 5) 1 == 0), (o + 6, fieldAt bs (o + 6) 2 == 0), (o + 8, fieldAt bs (o + 8) 4 == 0),
   (o + 12, fieldAt bs (o + 12) 4 == 0)]

/-- Whether an output names a node whose format code is MFMT's (R362). -/
def outOk (bs : List Byte) (n : Nat) : Bool := decide (n < fieldAt bs 2 1) && fieldAt bs (0x41 + 16 * n) 1 == fieldAt bs 3 1

/-- The byte offset of the first failing field of an image of 8 KiB; none where the image passes (R362). (DEDUCED, log 62.) -/
def imageBad (bs : List Byte) : Option Nat :=
  let g := parseGraph bs
  let nn := fieldAt bs 2 1
  let row := g.kind == 0
  let base := fieldAt bs 8 8
  let len := fieldAt bs 0x10 8
  firstBad
    ([(0, fieldAt bs 0 1 == 1), (1, decide (g.kind ≤ 2)), (2, decide (1 ≤ nn) && decide (nn ≤ 64)), (3, graphFmt (fieldAt bs 3 1)), (4, outOk bs g.outw),
      (5, match g.out1 with | none => true | some n => row && outOk bs n), (6, if row then g.paths == 0 else g.paths &&& 0x94 == 0),
      (7, decide (fieldAt bs 7 1 ≤ 1)), (8, if row then base == 0 else base % 4096 == 0),
      (0x10, if row then len == 0 else len % 4096 == 0 && decide (4096 ≤ len) && decide (len ≤ 2 ^ 40)), (0x18, fieldAt bs 0x18 40 == 0)]
    ++ (List.range 64).flatMap (fun n => if n < nn then g.nodeChecks bs n else emptyChecks bs n)
    ++ [(0x440, (bs.drop 0x440).all (fun b => b == 0))])

/-- The input codes a graph reads. -/
def Graph.reads (g : Graph) (c : Nat) : Bool :=
  g.nodes.any (fun d => (decide (0 < opArity d.op) && d.in0 == c) || (decide (1 < opArity d.op) && d.in1 == c) || (decide (2 < opArity d.op) && d.in2 == c))

/-! Bound ranges (R364, R365). -/

/-- The memory controller of a die's DRAM that a physical address lies behind (R53). -/
def ctrlOf (pa : Nat) : Nat := pa / 4096 % 4

/-- The graph bound to a byte of local DRAM for an access of a path, in a direction. (DEDUCED, log 63.) -/
def State.boundGraph (s : State) (path : Nat) (write : Bool) (k : Nat) : Option Graph :=
  if k / 2 ^ 41 = 0 then
    (s.flow.find? (fun f => f.die == bits k 35 6 && f.ctrl == ctrlOf k && f.graph.kind == (if write then 2 else 1) && bit f.graph.paths path
      && f.graph.bound.any (fun r => decide (r.1 ≤ k) && decide (k < r.1 + r.2)))).map FSlot.graph
  else none

/-- The byte a read on a path returns (R365): through the graph bound to it, if there is one. (DEDUCED, log 63.) -/
def State.pathByte (s : State) (path k : Nat) : Byte :=
  match s.boundGraph path false k with
  | some g =>
    let w := g.mfmt.bytes
    let e := k / w * w
    BitVec.ofNat 8 (g.map (s.natAt e w) / 256 ^ (k - e))
  | none => s.keyByte k

/-- The bytes a read on a path returns. -/
def State.pathBytes (s : State) (path : Nat) (ks : List Nat) : List Byte := ks.map (s.pathByte path)

/-- The bytes of an element among keys being written; none where it is not wholly covered. -/
def coveredElem (l : List (Nat × Byte)) (e : Nat) : Nat → Option (List Byte)
  | 0 => some []
  | w + 1 =>
    match l.find? (fun x => x.1 == e), coveredElem l (e + 1) w with
    | some x, some r => some (x.2 :: r)
    | some _, none => none
    | none, _ => none

/-- The bytes that a write on a path stores (R365): f(w) for each whole element of a write-bound range, the bytes unchanged elsewhere. -/
def State.pathData (s : State) (path : Nat) (ks : List Nat) (bs : List Byte) : List Byte :=
  List.zipWith (fun k b =>
    match s.boundGraph path true k with
    | none => b
    | some g =>
      let w := g.mfmt.bytes
      let e := k / w * w
      match coveredElem (ks.zip bs) e w with
      | some l => BitVec.ofNat 8 (g.map (leNat l) / 256 ^ (k - e))
      | none => b) ks bs

/-- Path codes (R96). -/
def pathLS : Nat := 0
def pathWN : Nat := 1
def pathMX : Nat := 2
def pathCP : Nat := 3
def pathFL : Nat := 4
def pathNT : Nat := 5
def pathSG : Nat := 6

/-- The paths of a set, bit n for path n (R96). -/
def pathsOf (set : Nat) : List Nat := (List.range 7).filter (bit set)

/-- All seven paths. -/
def allPaths : List Nat := List.range 7

end Sys2Proof.Machine
end

