-- ==== Sys2Proof/Machine/Order.lean ====
section
/-! DEFINITION. The order of a hart's accesses on different paths (R93-R124): which of its earlier writes an access of a hart may still precede, what a read then
returns, where a write then stands in coherence order, and what fences, acquires and releases order. -/
namespace Sys2Proof.Machine

/-! Memory as State holds it is as the latest writes leave it. An access of a hart on a path may have been performed before write events of the hart that stand before
it in program order, where no chain of R110 and R112 to R114 orders it after them; `State.unseen` holds those events. Which of them an access precedes is a free
choice: none where no choice is given. Accesses of other agents meet the latest writes. (DESIGN CHOICE, log 77.) -/

/-- How the bytes of an access are events (R97-R99): one for each byte, one for each location, or one over all. -/
inductive Split where
  | bytes | locs | one
deriving DecidableEq, Repr

/-- An access as the order of a hart sees it: the hart, the path, how many fences had completed where it stands in program order (R105), its events, whether it
is an acquire or a release (R106, R107), and whether its events form request groups (R124). -/
structure Manner where
  hart : Nat
  path : Nat
  stamp : Nat
  split : Split
  acquire : Bool
  release : Bool
  grouped : Bool
deriving DecidableEq, Repr

/-- A plain access of the focus hart on a path. -/
def State.manner (s : State) (path : Nat) : Manner :=
  { hart := s.hart.id, path := path, stamp := s.fences, split := .locs, acquire := false, release := false, grouped := false }

/-- The events of a scalar access or of one element, `n` bytes at an address (R97-R99). -/
def splitOf (va : W64) (n : Nat) : Split := if n ≤ 16 ∧ va.toNat % n ≠ 0 then .bytes else .locs

/-- An access of `n` bytes at an address: a single event where its flag makes it one (R98). -/
def Manner.sized (m : Manner) (va : W64) (n : Nat) (one : Bool) : Manner := { m with split := if one then .one else splitOf va n }

/-- The keys of each event of an access. -/
def Split.events (p : Split) (ks : List Nat) : List (List Nat) :=
  match p with
  | .bytes => ks.map (fun k => [k])
  | .locs => ((ks.map locOf).eraseDups).map (fun l => ks.filter (fun k => locOf k == l))
  | .one => [ks]

/-- The locations of an event. -/
def locsOf (ks : List Nat) : List Nat := (ks.map locOf).eraseDups

/-- The records of a location, its latest write first. -/
def State.recordsAt (s : State) (loc : Nat) : List Unseen := s.unseen.filter (fun u => u.loc == loc)

/-- Whether an access may precede the write of a record, as far as the record itself says: no fence orders the access after it. -/
def Unseen.hides (u : Unseen) (m : Manner) : Bool :=
  u.hart == m.hart && u.paths.contains m.path && !u.due.any (fun d => d.1 == m.path && decide (d.2 ≤ m.stamp))

/-- Whether a record is of the event of another. -/
def Unseen.sameEvent (u v : Unseen) : Bool := u.event == v.event

/-- The carried paths with which chains from the event of a record have come, by any of its locations. -/
def State.viaOf (s : State) (u : Unseen) : List Nat := (s.unseen.filter u.sameEvent).flatMap Unseen.via

/-- Whether an access may precede the write of a record: not a release once an access of its path has met the event (R106, R114), and not a request group that
reaches where an access has met the row (R124). -/
def State.hideable (s : State) (m : Manner) (u : Unseen) : Bool :=
  u.hides m && !(m.release && (s.viaOf u).contains m.path)
    && !(m.grouped && u.kind == .row && !((s.unseen.filter (fun x => x.sameEvent u && x.loc / 4096 == u.loc / 4096)).all (fun x => x.hides m)))

/-- The latest writes of a location that an access may precede. -/
def State.hiding (s : State) (m : Manner) (loc : Nat) : List Unseen := (s.recordsAt loc).takeWhile (s.hideable m)

/-- Whether event e may come after an access that precedes the events `late`: at each of the access's locations nothing earlier than e, nor e, has to precede the access,
every later write is late as well, and a write of the access does not come between the read and the write of an atomic or of an isolated row (R113, R124). -/
def State.mayWait (s : State) (m : Manner) (kind : Option WriteKind) (locs late : List Nat) (e : Nat) : Bool :=
  locs.all (fun l =>
    let hs := s.hiding m l
    let here := hs.any (fun u => u.event == e)
    ((s.recordsAt l).drop hs.length).all (fun u => u.event != e)
      && (!here || (hs.takeWhile (fun u => u.event != e)).all (fun u => late.contains u.event))
      && (kind.isNone || !here || !(hs.filter (fun u => u.event == e)).any (fun u => u.kind != .plain && ((m.grouped && u.kind == .row)
        || ((hs.takeWhile (fun x => late.contains x.event)).getLast?.map Unseen.event) == some e)))
      && (kind != some .row || !here || (locs.flatMap s.recordsAt).all (fun x => late.contains x.event
        || !(hs.any (fun u => u.event == e && u.group == x.group && u.loc / 4096 == x.loc / 4096)))))

/-- The largest set of events among some that an access may precede together. -/
def State.lateFrom (s : State) (m : Manner) (kind : Option WriteKind) (locs : List Nat) : Nat → List Nat → List Nat
  | 0, late => late
  | n + 1, late => s.lateFrom m kind locs n (late.filter (s.mayWait m kind locs late))

/-- Whether the running request group has met an isolated row's event already, and how (R124). -/
def State.metRow (s : State) (block event : Nat) : Option Bool :=
  s.groups.findSome? (fun g => match g with
    | .met b e seen => if b = block ∧ e = event then some seen else none
    | .writes _ _ => none)

/-- The events that one event of an access, on some locations, precedes; `kind` is what it writes. Bit i of the choice stands for the i-th event it may precede. -/
def State.cut (s : State) (m : Manner) (kind : Option WriteKind) (locs : List Nat) : List Nat × State :=
  let us := locs.flatMap (s.hiding m)
  let ids := (us.map Unseen.event).eraseDups
  if ids.isEmpty then ([], s)
  else
    let (c, s') := s.choose
    let rows := if m.grouped then (us.filter (fun u => u.kind == .row)).map (fun u => (u.loc / 4096, u.event)) else []
    let seen := (rows.filter (fun x => s.metRow x.1 x.2 == some true)).map Prod.snd
    let want := if rows.any (fun x => s.metRow x.1 x.2 == some false) then ids else (ids.zip (List.range ids.length)).filterMap (fun x => if bit c x.2 then some x.1 else none)
    let late := s.lateFrom m kind locs ids.length (want.filter (fun e => !seen.contains e))
    (late, { s' with groups := s.groups ++ rows.map (fun x => .met x.1 x.2 (!late.contains x.2)) })

/-- What each event of an access precedes. -/
def cutEvents (m : Manner) (kind : Option WriteKind) : List (List Nat) → State → List (List Nat × List Nat) × State
  | [], s => ([], s)
  | ks :: r, s =>
    let (late, s) := s.cut m kind (locsOf ks)
    let (l, s) := cutEvents m kind r s
    ((ks, late) :: l, s)

/-- Memory at some bytes as it was before late events. -/
def State.before (s : State) (late : List Nat) (ks : List Nat) : State :=
  ks.foldl (fun v k =>
    match ((s.recordsAt (locOf k)).takeWhile (fun u => late.contains u.event)).getLast? with
    | some u => v.putRaw k (BitVec.ofNat 8 (u.old.toNat / 256 ^ (k % 4)))
    | none => v) s

/-- A path added to a list. -/
def addPath (p : Nat) (l : List Nat) : List Nat := if l.contains p then l else l ++ [p]

/-- The list of unseen writes, put in order. -/
def State.setUnseen (s : State) (l : List Unseen) : State := { s with unseen := tidyUnseen l }

/-- An event of a hart on a path continues the chains that a fence has brought to that path (R110). -/
def Unseen.reached (u : Unseen) (m : Manner) : Unseen :=
  if u.hart = m.hart ∧ u.due.any (fun d => d.1 == m.path && decide (d.2 ≤ m.stamp)) then { u with via := addPath m.path u.via } else u

/-- A record whose write an access has met: chains go on from there on the access's path, and but for the commands of engines every later access of that path comes
after it too (R106, R112). -/
def Unseen.met (u : Unseen) (m : Manner) : Unseen :=
  { u with via := addPath m.path u.via, paths := if 3 ≤ m.path then u.paths else u.paths.filter (fun q => q != m.path) }

/-- One event of a read that preceded the events `late` leaves its marks. -/
def meetEvent (m : Manner) (l : List Unseen) (x : List Nat × List Nat) : List Unseen :=
  let locs := locsOf x.1
  let l := l.map (fun u => if u.hart = m.hart ∧ locs.contains u.loc ∧ !x.2.contains u.event then u.met m else u)
  if m.acquire then
    let met := (l.filter (fun u => u.hart == m.hart && locs.contains u.loc && u.via.contains m.path && !x.2.contains u.event)).map Unseen.event
    l.map (fun u => if met.contains u.event then { u with paths := u.paths.filter (fun q => q != m.path) } else u)
  else l

/-- Whether a hart has writes that some access may precede. -/
def State.hasUnseen (s : State) (hart : Nat) : Bool := s.unseen.any (fun u => u.hart == hart)

/-- The machine as a read of bytes sees it, and as it leaves it. -/
def State.look (s : State) (m : Manner) (ks : List Nat) : State × State :=
  if s.hasUnseen m.hart then
    let (cuts, t) := cutEvents m none (m.split.events ks) s
    (cuts.foldl (fun v x => if x.2.isEmpty then v else (s.before x.2 x.1).bytesOver x.1 v) s, t.setUnseen (cuts.foldl (meetEvent m) (t.unseen.map (fun u => u.reached m))))
  else (s, s)

/-- Whether byte j of a location lies in a mask, and a word with the bytes of a mask replaced. -/
def maskHas (m j : Nat) : Bool := m / 2 ^ j % 2 == 1
def mergeWord (v x : W32) (m : Nat) : W32 :=
  BitVec.ofNat 32 (leNat ((List.range 4).map (fun j => BitVec.ofNat 8 ((if maskHas m j then x.toNat else v.toNat) / 256 ^ j))))

/-- A write placed under the d latest of a location's writes: the location's value, its records, and the bytes of the value that the write gives. -/
def placeUnder (x : W32) (new : Unseen) : Nat → W32 → List Unseen → W32 × List Unseen × Nat
  | d + 1, v, r :: rs =>
    let (old, rs, m) := placeUnder x new d r.old rs
    let left := ((List.range 4).filter (fun j => maskHas m j && !maskHas r.mask j)).foldl (fun a j => a + 2 ^ j) 0
    (mergeWord v x left, { r with old := old } :: rs, left)
  | _, v, rs => (mergeWord v x new.mask, { new with old := v } :: rs, new.mask)

/-- The paths an access on which may precede a write on a path: all others, and that of an engine's command itself (R106). -/
def otherPaths (path : Nat) : List Nat := if 3 ≤ path then allPaths else allPaths.filter (fun q => q != path)

/-- What an event of a write does at one of its locations, where it precedes the events `late`: its records, and which bytes of the location then hold the write's. -/
def State.placeAt (s : State) (m : Manner) (kind : WriteKind) (event group : Nat) (late : List Nat) (l : List (Nat × Byte)) (loc : Nat) : State × List Nat :=
  let mask := ((List.range 4).filter (fun j => l.any (fun x => x.1 == loc + j))).foldl (fun a j => a + 2 ^ j) 0
  let x := BitVec.ofNat 32 (leNat ((List.range 4).map (fun j => match l.find? (fun y => y.1 == loc + j) with | some y => y.2 | none => 0)))
  let new : Unseen := { hart := m.hart, event := event, group := group, loc := loc, mask := mask, old := 0, kind := kind, via := [m.path], due := [], paths := otherPaths m.path }
  let rs := s.recordsAt loc
  let d := (rs.takeWhile (fun u => late.contains u.event)).length
  let (_, rs, k) := placeUnder x new d (BitVec.ofNat 32 (s.natAt loc 4)) rs
  ({ s with unseen := rs ++ s.unseen.filter (fun u => u.loc != loc) }, (List.range 4).filterMap (fun j => if maskHas k j then some (loc + j) else none))

/-- The number of the request group of a write event in a block, kept where its events form groups (R124). -/
def State.groupFor (s : State) (m : Manner) (event block : Nat) : Nat × State :=
  if m.grouped then
    match s.groups.findSome? (fun g => match g with | .writes b n => if b = block then some n else none | .met _ _ _ => none) with
    | some n => (n, s)
    | none => (event, { s with groups := .writes block event :: s.groups })
  else (event, s)

/-- What one event of a write does: its keys with the bytes, and the events it precedes. -/
def placeEvent (m : Manner) (kind : WriteKind) (l : List (Nat × Byte)) (a : State × List Nat) (x : List Nat × List Nat) : State × List Nat :=
  let event := (a.1.unseen.map Unseen.event).foldl Nat.max 0 + 1
  (locsOf x.1).foldl (fun a loc =>
    let (g, s) := a.1.groupFor m event (loc / 4096)
    let (s, ks) := s.placeAt m kind event g x.2 (l.filter (fun y => x.1.contains y.1)) loc
    (s, a.2 ++ ks)) a

/-- What the events of a write leave in the list of unseen writes and of request groups, and which of its bytes the latest writes leave standing. -/
def State.place (s : State) (m : Manner) (kind : WriteKind) (cuts : List (List Nat × List Nat)) (l : List (Nat × Byte)) : State × List Nat :=
  let (t, ks) := cuts.foldl (placeEvent m kind l) ({ s with unseen := s.unseen.map (fun u => u.reached m) }, [])
  (t.setUnseen t.unseen, ks)

/-! Fences. -/

/-- A completed fence of a hart (R108, R109): by `order`, the paths on which what follows comes after the write of a record. Where nothing of what stands before the
fence is outstanding on such a path, no access of the path can precede the write any more. -/
def State.fenced (s : State) (hart : Nat) (outstanding : List Nat) (order : Unseen → List Nat) : State :=
  let k := s.fences + 1
  { (s.setUnseen (s.unseen.map (fun u =>
      if u.hart = hart then
        let ps := order u
        { u with due := u.due ++ (ps.filter (fun p => !u.due.any (fun d => d.1 == p && decide (d.2 ≤ k)))).map (fun p => (p, k)), paths := u.paths.filter (fun q => !ps.contains q || outstanding.contains q) }
      else u))) with fences := k }

/-- A completed `fence.x` (R109, R110): what follows on a path of the after-set comes after the writes from which a chain has come with a path of the before-set; where
a path lies in both sets, chains that go through other locations of an event count too (R114). -/
def State.orderPaths (s : State) (hart : Nat) (outstanding before after : List Nat) : State :=
  s.fenced hart outstanding (fun u => after.filter (fun p => u.via.any before.contains || (before.contains p && (s.viaOf u).contains p)))

/-- A completed `fence` (R108): it orders each path by itself. -/
def State.orderEach (s : State) (hart : Nat) (outstanding : List Nat) : State := s.fenced hart outstanding (fun u => allPaths.filter (s.viaOf u).contains)

end Sys2Proof.Machine
end

