-- ==== Sys2Proof/Machine/Ops.lean ====
section
/-! DEFINITION. The named operations over registers and memory, taking a trap and returning from one, and the end of a gang. -/
namespace Sys2Proof.Machine

/-- A trap met by an instruction: cause (R384), TVAL (R391), the element it names (R389), the queue where it arose (R385), and whether it
ends the gang whatever TVEC holds (R188). -/
structure Trap where
  cause : Byte
  tval : W64
  elem : Option Nat
  queue : Nat
  fatal : Bool
deriving DecidableEq, Repr

/-- What an instruction does inside one step: it may change the machine, and it may end in a trap, keeping the changes made before it. -/
abbrev M := EStateM Trap State

/-- How an instruction leaves the PC: at the next instruction, at an address, or where it is, because the hart waits. -/
inductive Ctl where
  | seq
  | jump (pc : W64)
  | wait (w : Wait)
deriving DecidableEq, Repr

/-- A trap without an element. -/
def trap (cause : Byte) (tval : W64) (queue : Nat := 0) : Trap :=
  { cause := cause, tval := tval, elem := none, queue := queue, fatal := false }

/-- Queue codes of R385. (DEDUCED, log 72.) -/
def qFront : Nat := 0
def qVq : Nat := 1
def qMq : Nat := 2
def qLq : Nat := 3
def qEq : Nat := 4

/-- Raises a trap. -/
def raise {α : Type} (t : Trap) : M α := throw t

/-- Raises a trap unless a condition holds. -/
def check (c : Bool) (t : Trap) : M Unit := if c then pure () else raise t

/-- A trap at element i. -/
def Trap.at (t : Trap) (i : Nat) : Trap := { t with elem := some i }

/-- Runs an operation; a trap it meets names element i. -/
def atElem {α : Type} (i : Nat) (m : M α) : M α := fun s =>
  match m s with
  | .ok a s => .ok a s
  | .error t s => .error (t.at i) s

/-! Registers. -/

/-- The value of a scalar register; g0 reads as zero (R203). -/
def Hart.gr (h : Hart) (r : GReg) : W64 := if r = 0 then 0 else h.g[r.toNat]'(r.isLt)

/-- A hart with a scalar register written; a write of g0 is discarded (R203). -/
def Hart.setG (h : Hart) (r : GReg) (v : W64) : Hart := if r = 0 then h else { h with g := h.g.set r.toNat v r.isLt }

/-- The focus hart changed. -/
def State.setHart (s : State) (h : Hart) : State := { s with hart := h }

/-- A scalar register of the focus hart. -/
def State.gr (s : State) (r : GReg) : W64 := s.hart.gr r

/-- A scalar register of the focus hart written. -/
def State.setG (s : State) (r : GReg) (v : W64) : State := s.setHart (s.hart.setG r v)

/-- The control registers of the focus hart replaced. -/
def State.setCsr (s : State) (c : Csr) : State := s.setHart { s.hart with csr := c }

/-- The PC moved to an address; the hart no longer waits. -/
def State.jumpTo (s : State) (pc : W64) : State := s.setHart { s.hart with pc := pc, wait := .none }

/-- The PC moved past an instruction of `n` bytes. -/
def State.advance (s : State) (n : Nat) : State := s.jumpTo (s.hart.pc + BitVec.ofNat 64 n)

/-- The focus hart waits at its PC. -/
def State.waiting (s : State) (w : Wait) : State := s.setHart { s.hart with wait := w }

/-- The next scalar register of a pair (R147). -/
def pairHi (d : GReg) : GReg := d + 1

/-- Core number, die number of a hart (R2). -/
def Hart.core (h : Hart) : Nat := h.id / 4
def Hart.die (h : Hart) : Nat := h.id / 64

/-- The machine read or changed inside an instruction. -/
def getS : M State := get
def getH : M Hart := do return (← get).hart
def modH (f : Hart → Hart) : M Unit := modify (fun s => s.setHart (f s.hart))
def modCsr (f : Csr → Csr) : M Unit := modH (fun h => { h with csr := f h.csr })
def readG (r : GReg) : M W64 := do return (← get).gr r
def writeG (r : GReg) (v : W64) : M Unit := modify (fun s => s.setG r v)

/-! Memory accesses of the focus hart. -/

/-- The access of a hart in its own partition, address space and mode (R39). -/
def Hart.acc (h : Hart) (kind : AKind) (dev : Bool) : Acc :=
  { kind := kind, dev := dev, peer := true, part := h.part, asid := h.asid, user := !h.sup, die := h.die, core := some h.core }

/-- Whether a VA names the hart's own Chamber (R25, R177). -/
def Hart.ownChamber (h : Hart) (va : W64) : Bool :=
  inAperture va.toNat && bits va.toNat 23 17 == h.core

/-- The queue in which a scalar access is performed (R177). (DEDUCED, log 72.) -/
def Hart.scalarQueue (h : Hart) (va : W64) : Nat := if h.ownChamber va then qFront else qLq

/-- The aperture VA of a Chamber byte (R24). -/
def apertureVa (ca : Nat) : W64 := BitVec.ofNat 64 (0xFFFFFF0000000000 + ca)

/-- Logs a poisoned word met at a key (R393): class 5 where an active element consumed it, class 4 where none did. (DEDUCED, log 25; DESIGN CHOICE, log 74.) -/
def State.logPoison (s : State) (cls k : Nat) : State :=
  if isChamber k then
    let ca := k - 0x10000000000000
    s.logError (bits ca 27 6) cls 0 (bits ca 23 4) (ca / 8 * 8) 0
  else s.logError (bits k 35 6) cls 1 0xFF (k / 32 * 32) 0

/-- The trap of an access that consumes poison (R391): TVAL holds the VA of the aligned 8-byte word. -/
def poisonTrap (va : W64) (q : Nat) : Trap := trap causePoison (va &&& ~~~(7 : W64)) q

/-- The first poisoned byte among keys, with its place. -/
def State.firstPoison (s : State) : Nat → List Nat → Option (Nat × Nat)
  | _, [] => none
  | j, k :: ks => if !isRegSpace k && s.poisoned k then some (j, k) else s.firstPoison (j + 1) ks

/-- Ends with POISON when a byte at the keys of an access is poisoned (R144), once the bank has read them: bit errors and check mismatches are met (R51, R59). Which
checks are verified is as in the machine `ref` that the translation has left (R44); `log` where the access consumes what it reads (R393). -/
def cleanOr (log : Bool) (ref : State) (a : Acc) (va : W64) (ks : List Nat) (q : Nat) : M Unit := fun s =>
  let s := s.inspect 1 ks (ref.checkedKeys a va ks)
  match s.firstPoison 0 ks with
  | none => .ok () s
  | some (j, k) => .error (poisonTrap (va + BitVec.ofNat 64 j) q) (if log then s.logPoison 5 k else s)

/-- The same of an access that consumes what it reads. -/
def needClean (ref : State) (a : Acc) (va : W64) (ks : List Nat) (q : Nat) : M Unit := cleanOr true ref a va ks q

/-- Resolves the bytes of an access of the focus hart; a PAGE or ACCESS fault traps, once the walk has met the errors of the entries it reads (R51). -/
def resolveM (a : Acc) (va : W64) (n q : Nat) : M (List Nat) := fun s =>
  match s.resolveSpan a va n with
  | .ok (ks, s') => .ok ks s'
  | .error f => .error (trap f.cause f.tval q) (s.meetWalks a va n)

/-- The errors that one machine has met laid over another: what a fault leaves behind where everything else is to stay as it was (R35, R51, R62). -/
def State.withErrors (s t : State) : State :=
  { s with flaws := t.flaws, poison := t.poison, wr := t.wr, elogs := t.elogs, errTimes := t.errTimes }

/-- Translates, and then checks what was translated for poison. A fault of either leaves the machine as it was, A and D too (R35), but for the errors met. -/
def translateClean {α : Type} (m : M α) (clean : State → α → M Unit) : M α := fun s =>
  match m s with
  | .error t s' => .error t (s.withErrors s')
  | .ok a s' =>
    match clean s' a (s.withErrors s') with
    | .error t s => .error t s
    | .ok _ _ =>
      match clean s' a s' with
      | .error t s => .error t s
      | .ok _ s => .ok a s

/-- The bytes of a read of the focus hart, translated and free of poison. -/
def resolveClean (a : Acc) (va : W64) (n q : Nat) : M (List Nat) := translateClean (resolveM a va n q) (fun ref ks => needClean ref a va ks q)

/-! Storage of bound windows (R95). -/

/-- Whether a Chamber byte lies in the storage of a window that some hart has bound. -/
def State.inBoundWindow (s : State) (k : Nat) : Bool :=
  let ca := k - 0x10000000000000
  isChamber k && (s.hart :: s.parked).any (fun h => h.core == bits ca 23 10
    && h.wins.any (fun w => match w with | some w => decide (w.range.1 ≤ bits ca 0 23) && decide (bits ca 0 23 < w.range.1 + w.range.2) | none => false))

/-- A storage line accessed by other means than its window: what the window holds in it is not defined any more, until a fill brings an element anew or the window
is unbound. The Chamber locations themselves keep their values (R97). (DEDUCED, log 45.) -/
def State.taintLine (s : State) (line : Nat) : State :=
  let (n, s) := s.fresh
  { s with vague := (line * 256, 256, n) :: s.vague }

/-- The lines of bound windows among bytes accessed by other means (R95). -/
def State.taint (s : State) (ks : List Nat) : State := ((ks.filter s.inBoundWindow).map (fun k => k / 256)).eraseDups.foldl State.taintLine s

/-- The machine after a read of bytes that is not a window's own: device registers and window storage notice it. -/
def State.afterRead (s : State) (ks : List Nat) : State := (s.touch ks).taint ks

/-- Reads the bytes at keys, the latest of each, with the effects a read has. -/
def readKeys (ks : List Nat) : M (List Byte) := fun s => .ok (s.keyBytes ks) (s.afterRead ks)

/-- The bytes that a read of the focus hart returns: as it sees them (R97, R115), through the graphs bound to them (R365). -/
def readAs (m : Manner) (ks : List Nat) : M (List Byte) := fun s =>
  .ok ((s.look m ks).1.pathBytes m.path ks) ((s.look m ks).2.afterRead ks)

/-- The bytes that a plain read of the focus hart on a path returns. -/
def readOn (path : Nat) (ks : List Nat) : M (List Byte) := fun s => readAs (s.manner path) ks s

/-- A load of `n` bytes by the focus hart (R144), on path LS: `one` where its flag makes it one event (R98), and whether it is an acquire. -/
def loadAs (va : W64) (n : Nat) (dev one acquire : Bool) (q : Nat) : M (List Byte) := do
  let h ← getH
  let ks ← resolveClean (h.acc .read dev) va n q
  let s ← getS
  readAs { ((s.manner pathLS).sized va n (one || acquire)) with acquire := acquire } ks

/-- A plain load. -/
def loadBytes (va : W64) (n : Nat) (dev : Bool) (q : Nat) : M (List Byte) := loadAs va n dev false false q

/-- A load of a little-endian value. -/
def loadNat (va : W64) (n : Nat) (dev : Bool) (q : Nat) : M Nat := do return leNat (← loadBytes va n dev q)

/-- ACCESS REGION at an address (R414). -/
def regionTrap (va : W64) (q : Nat) : Trap := trap causeAccess (faultTval 0x02 va.toNat) q

/-- Resolves the bytes of a write or an atomic that module register space takes none of (R378, R414): a fault changes nothing, not even A and D (R35). -/
def resolvePlain (a : Acc) (va : W64) (n q : Nat) : M (List Nat) := fun s =>
  match s.resolveSpan a va n with
  | .ok (ks, s') => if ks.any isRegSpace then .error (regionTrap va q) (s.withErrors s') else .ok ks s'
  | .error f => .error (trap f.cause f.tval q) (s.meetWalks a va n)

/-- Bytes written to memory by an access, at keys. Where it is not the window's own access, what a bound window holds in a line so written is not
defined (R95). -/
def State.storeKeys (s : State) (whole : Bool) (ks : List Nat) (bs : List Byte) : State := (s.putKeys whole ks bs).taint ks

/-- Bytes that a write of some kind stores with `put`, where its events precede the late ones of `cuts`: which of them stand after those. -/
def State.storeCut (s : State) (m : Manner) (kind : WriteKind) (put : State → List Nat → List Byte → State) (cuts : List (List Nat × List Nat)) (ks : List Nat) (bs : List Byte) : State :=
  let (p, kept) := s.place m kind cuts (ks.zip bs)
  let l := if cuts.all (fun x => x.2.isEmpty) then ks.zip bs else (ks.zip bs).filter (fun x => kept.contains x.1)
  { (put s (l.map Prod.fst) (l.map Prod.snd)) with unseen := p.unseen, groups := p.groups }

/-- Bytes written by a hart, or by no hart: which of the hart's other writes they precede is a free choice where nothing orders them (R97, R115). (DESIGN CHOICE, log 77.) -/
def State.storeBy (s : State) (who : Option Manner) (whole : Bool) (ks : List Nat) (bs : List Byte) : State :=
  match who with
  | none => s.storeKeys whole ks bs
  | some m =>
    let (cuts, t) := cutEvents m (some .plain) (m.split.events ks) s
    t.storeCut m .plain (fun s => s.storeKeys whole) cuts ks bs

/-- Bytes written by an access on a path, through the graphs bound to them (R365). -/
def State.storeOn (s : State) (who : Option Manner) (path : Nat) (whole : Bool) (ks : List Nat) (bs : List Byte) : State :=
  s.storeBy who whole ks (s.pathData path ks bs)

/-- The bank of a store reads the lines it changes: bit errors on the way into the Gallery and in its units are met, and the old checks verified (R51, R54, R59). -/
def State.beforeWrite (s : State) (a : Acc) (va : W64) (ks : List Nat) : State :=
  s.inspect 1 (ks.filter (fun k => !isChamber k)) (s.checkedKeys a va ks)

/-- A store of bytes by the focus hart on path LS. `quad` marks the one event of `st.q.a16`, the only write SCMD takes (R378); `one` another that is one event (R98), `release`
a release; `whole` a write that reaches a Gallery bank as whole units (R51). -/
def storeAs (va : W64) (bs : List Byte) (dev quad one release whole : Bool) (q : Nat) : M Unit := do
  let a := (← getH).acc .write dev
  let put := fun (ks : List Nat) (s : State) =>
    (s.beforeWrite a va ks).storeOn (some { ((s.manner pathLS).sized va bs.length (quad || one || release)) with release := release }) pathLS whole ks bs
  if quad then do
    let ks ← resolveM a va bs.length q
    match ks with
    | k :: _ =>
      if isRegSpace k then modify (fun s => s.writeScmd (bits k 28 6) (leNat bs) (some s.hart.part))
      else modify (put ks)
    | [] => pure ()
  else do
    let ks ← resolvePlain a va bs.length q
    modify (put ks)

/-- A plain store. -/
def storeBytes (va : W64) (bs : List Byte) (dev quad whole : Bool) (q : Nat) : M Unit := storeAs va bs dev quad false false whole q

/-- The read of an event that writes as well: the events it precedes, the machine as it sees it, and the machine that it leaves. -/
def State.rmwRead (s : State) (m : Manner) (kind : WriteKind) (ks : List Nat) : List Nat × State × State :=
  let (cuts, t) := cutEvents m (some kind) [ks] s
  let late := cuts.flatMap Prod.snd
  (late, (if late.isEmpty then s else s.before late ks), if s.hasUnseen m.hart then t.setUnseen (cuts.foldl (meetEvent m) (t.unseen.map (fun u => u.reached m))) else t)

/-- A read and a write of the focus hart joined in one event (R113): the value read, and the bytes written where there are any, at the same place in coherence order. One
that writes nothing is a read only, and no release (R153). -/
def rmwAs (m : Manner) (ks : List Nat) (f : List Byte → Option (List Byte)) : M (List Byte) := fun s =>
  let m := if (f ((s.rmwRead { m with release := false } .atomic ks).2.1.keyBytes ks)).isNone then { m with release := false } else m
  let (late, v, t) := s.rmwRead m .atomic ks
  match f (v.keyBytes ks) with
  | some bs => .ok (v.keyBytes ks) ((t.afterRead ks).storeCut m .atomic (fun s => s.storeKeys false) [(ks, late)] ks bs)
  | none => .ok (v.keyBytes ks) (t.afterRead ks)

/-- An atomic of `n` bytes at its home (R153): the old value, and the new one written where there is one. -/
def atomicAt (va : W64) (n : Nat) (dev acquire release : Bool) (q : Nat) (f : Nat → Option Nat) : M Nat := do
  let a := (← getH).acc .amo dev
  let ks ← translateClean (resolvePlain a va n q) (fun ref ks => needClean ref a va ks q)
  let s ← getS
  let old ← rmwAs { (s.manner pathLS) with split := .one, acquire := acquire, release := release } ks (fun bs => (f (leNat bs)).map (leBytes n))
  return leNat old

/-! Accesses of a hart that have not been performed (R94, R105). -/

/-- The path of a command's accesses (R96, R337). -/
def cmdPath (c : Command) : Nat :=
  match c.bytes.toNat % 256 with
  | 6 => pathNT
  | 7 => pathSG
  | 8 => pathSG
  | 9 => pathFL
  | 10 => pathFL
  | _ => pathCP

/-- Whether a command that a hart of a gang had accepted is not done. -/
def State.owesCommands (s : State) (gang : Nat) (hart : Option Nat) (paths : List Nat) : Bool :=
  (s.engines ++ s.drives).any (fun c => c.gang == gang && (match hart with | some h => c.hart == h | none => true) && paths.contains (cmdPath c))

/-! Gangs: finding them, and their end (R188, R189). -/

/-- The home die of a gang: the lowest-numbered die of its rectangle (R185). -/
def GangRec.home (r : GangRec) : Nat := r.y0 * 8 + r.x0

/-- A gang by its number. -/
def State.gangOf (s : State) (id : Nat) : Option Gang := s.gangs.find? (fun g => g.id == id)

/-- Replaces a gang. -/
def State.setGang (s : State) (g : Gang) : State :=
  { s with gangs := s.gangs.map (fun x => if x.id = g.id then g else x) }

/-- Whether a hart still belongs to a running or halted or pre-empted program. -/
def HStatus.live (t : HStatus) : Bool :=
  match t with
  | .off => false
  | .ended => false
  | .running => true
  | .halted => true
  | .preempted => true
  | .preemptedHalted => true

/-- Whether a hart holds a hart slot. -/
def HStatus.placed (t : HStatus) : Bool :=
  match t with
  | .off => false
  | .ended => false
  | .running => true
  | .halted => true
  | .preempted => false
  | .preemptedHalted => false

/-- Whether the focus hart can fetch. -/
def Hart.live (h : Hart) : Bool := h.status.live

/-- Every live hart of a gang, the focus first. -/
def State.gangHarts (s : State) (id : Nat) : List Hart := (s.hart :: s.parked).filter (fun h => h.live && h.gang == id)

/-- Changes every live hart of a gang. -/
def State.mapGang (s : State) (id : Nat) (f : Hart → Hart) : State :=
  let g := fun (h : Hart) => if h.live && h.gang == id then f h else h
  { s with hart := g s.hart, parked := s.parked.map g }

/-- Releases the matrix unit a hart holds and forgets its wait for it (R318, R377). -/
def State.dropMatrix (s : State) (hart : Nat) : State :=
  { s with
    mxs := s.mxs.map (fun u => { u with holder := if u.holder = some hart then none else u.holder, queue := u.queue.filter (fun x => x != hart) }) }

/-- A hart ended: its windows and streams are gone with it. -/
def Hart.end_ (h : Hart) : Hart :=
  { h with status := .ended, wait := .none, span := none, convoy := none, wins := List.replicate 16 none, strs := List.replicate 8 none }

/-- Ends every live hart of a gang and discards its state (R189). -/
def State.discardGang (s : State) (id : Nat) : State :=
  let ids := ((s.gangHarts id).filter (fun h => h.status.placed)).map Hart.id
  let s := (ids.foldl State.dropMatrix s).mapGang id Hart.end_
  { s with frames := s.frames.filter (fun f => f.gang != id) }

/-- Writes a gang's done word (R189): status and cause, as a 4-byte release in the gang's address space; a write that faults is logged as class 8. -/
def State.doneWord (s : State) (g : Gang) (status : Nat) (cause : Byte) : State :=
  if g.record.done = 0 then s
  else
    let a : Acc := { kind := .write, dev := true, peer := true, part := g.part, asid := g.record.asid, user := false, die := g.record.home, core := none }
    let lost := fun (s : State) (addr : Nat) => s.logError g.record.home 8 9 0xFF addr (bits g.record.done.toNat 0 57)
    match s.resolveSpan a g.record.done 4 with
    | .ok (ks, s) =>
      if ks.any isRegSpace then lost s (s.paOf g.part g.record.asid g.record.done)
      else (s.beforeWrite a g.record.done ks).storeOn none pathLS false ks (leBytes 4 (status + 256 * cause.toNat))
    | .error f => lost (s.meetWalks a g.record.done 4) (if f.cause = causePage then 0 else s.paOf g.part g.record.asid g.record.done)

/-- The done words of ended gangs whose last accesses have been performed (R119). -/
def State.payDone (s : State) : State :=
  (s.gangs.filter (fun g => g.owed.isSome && !s.owesCommands g.id none allPaths)).foldl (fun s g =>
    (s.setGang { g with owed := none }).doneWord g (g.owed.getD 0) g.cause) s

/-- Ends a gang: its harts are discarded, its slots are free, its done word is written once every command of its harts has ended (R119, R189). -/
def State.endGang (s : State) (id status : Nat) (cause : Byte) : State :=
  match s.gangOf id with
  | none => s.discardGang id
  | some g =>
    let s := s.discardGang id
    let g := { g with status := .ended, cause := cause }
    if s.owesCommands id none allPaths then s.setGang { g with owed := some status } else (s.setGang g).doneWord g status cause

/-! Traps. -/

/-- TSTAT after a trap (R385, R389). -/
def tstatAfter (member : Nat) (elem : Bool) (queue : Nat) (pm intrap : Bool) : W64 :=
  BitVec.ofNat 64 (member * 0x1000 + elem.toNat * 0x800 + queue * 0x100 + pm.toNat * 2 + intrap.toNat)

/-- The trap registers of a hart at a trap (R389), before its handler is entered. -/
def Hart.trapRegs (h : Hart) (t : Trap) (tpc : W64) (member : Nat) : Hart :=
  { h with
    wait := .none
    convoy := none
    csr := { h.csr with
      tcause := t.cause.setWidth 64
      tval := t.tval
      tpc := tpc
      estart := match t.elem with | some e => BitVec.ofNat 64 e | none => 0
      tstat := tstatAfter member t.elem.isSome t.queue (h.csr.tstat.getLsbD 1) (h.csr.tstat.getLsbD 0) } }

/-- A hart enters its handler (R389): the mode is saved in PM, INTRAP is set, and it goes on in supervisor mode at TVEC. -/
def Hart.enterHandler (h : Hart) (t : Trap) (member : Nat) : Hart :=
  { h with
    sup := true
    pc := h.csr.tvec
    csr := { h.csr with tstat := tstatAfter member t.elem.isSome t.queue h.sup true } }

/-- Whether a hart cannot take a trap itself (R389). -/
def Hart.noHandler (h : Hart) : Bool := h.csr.tvec == 0 || h.csr.tstat.getLsbD 0

/-- Taking a trap of the focus hart (R389) at the instruction or convoy at `tpc`: its handler is entered, or its gang faults (R189). -/
def State.takeTrapAt (s : State) (t : Trap) (tpc : W64) (member : Nat) : State :=
  let h := s.hart.trapRegs t tpc member
  if t.fatal || s.hart.noHandler then (s.setHart h).endGang h.gang 2 t.cause
  else s.setHart (h.enterHandler t member)

/-- Taking a trap of a loose instruction (R389): TPC is its address. -/
def State.takeTrap (s : State) (t : Trap) : State := s.takeTrapAt t s.hart.pc 0

/-- Returning from a trap (R390, R251): PC from TPC, mode from TSTAT.PM, INTRAP cleared. -/
def Hart.trapReturn (h : Hart) : Hart :=
  { h with
    pc := h.csr.tpc
    sup := h.csr.tstat.getLsbD 1
    wait := .none
    csr := { h.csr with tstat := h.csr.tstat &&& ~~~(1 : W64) } }

/-- What an instruction of `len` bytes does to the machine: its effect and the PC, or its trap. -/
def runInstr (len : Nat) (body : M Ctl) (s : State) : Host.Outcome State Fault Refusal :=
  match body s with
  | .ok .seq s => .next (s.endWrites.advance len)
  | .ok (.jump pc) s => .next (s.endWrites.jumpTo pc)
  | .ok (.wait w) s => .next (s.endWrites.waiting w)
  | .error t s => .next (s.endWrites.takeTrap t)

/-- PRIV for a supervisor-only instruction (R249, R391). -/
def needSup : M Unit := do
  let h ← getH
  check h.sup (trap causePriv 1)

/-- ILLEGAL with a subcode (R391): TVAL holds the subcode and the instruction's low 32 bits. (DEDUCED, log 18.) -/
def illegalTrap (sub : Nat) (low : W32) (q : Nat := 0) : Trap :=
  trap causeIllegal (BitVec.ofNat 64 (sub + low.toNat * 0x100000000)) q

/-- OPERAND (R391). -/
def operandTrap (q : Nat) : Trap := trap causeOperand 0 q

end Sys2Proof.Machine
end

