-- ==== Sys2Proof/Machine/Control.lean ====
section
/-! DEFINITION. Branches and jumps, MAJ 0x10 and 0x11 (R241-R244). -/
namespace Sys2Proof.Machine

/-- The target of a branch or jump at the PC: its offset counts halfwords (R12). -/
def State.target (s : State) {n : Nat} (off : BitVec n) : W64 := s.hart.pc + (off.signExtend 64) * 2

/-- A branch of `len` bytes (R242). -/
def State.branch (s : State) (c : Bool) (off : BitVec 14) (len : Nat) : State :=
  if c then s.jumpTo (s.target off) else s.advance len

/-- jalr of `len` bytes (R242): the target is read before the link is written. -/
def State.jalr (s : State) (off : BitVec 14) (a c : GReg) (len : Nat) : State :=
  (s.setG c (s.hart.pc + BitVec.ofNat 64 len)).jumpTo ((s.gr a + (off.signExtend 64) * 2) &&& ~~~(1 : W64))

/-- beq gA, g0, label (R241, R242). -/
def execBeq (off : BitVec 14) (a : GReg) (s : State) : Host.Outcome State Fault Refusal :=
  .next (s.branch (s.gr a == s.gr 0) off 4)

/-- beq gA, gC, label (R241, R242). -/
def execBeqLong (off : BitVec 14) (a c : GReg) (s : State) : Host.Outcome State Fault Refusal :=
  .next (s.branch (s.gr a == s.gr c) off 8)

/-- bne gA, g0, label (R241, R242). -/
def execBne (off : BitVec 14) (a : GReg) (s : State) : Host.Outcome State Fault Refusal :=
  .next (s.branch (s.gr a != s.gr 0) off 4)

/-- bne gA, gC, label (R241, R242). -/
def execBneLong (off : BitVec 14) (a c : GReg) (s : State) : Host.Outcome State Fault Refusal :=
  .next (s.branch (s.gr a != s.gr c) off 8)

/-- blt gA, g0, label (R241, R242). -/
def execBlt (off : BitVec 14) (a : GReg) (s : State) : Host.Outcome State Fault Refusal :=
  .next (s.branch ((s.gr a).slt (s.gr 0)) off 4)

/-- blt gA, gC, label (R241, R242). -/
def execBltLong (off : BitVec 14) (a c : GReg) (s : State) : Host.Outcome State Fault Refusal :=
  .next (s.branch ((s.gr a).slt (s.gr c)) off 8)

/-- bge gA, g0, label (R241, R242). -/
def execBge (off : BitVec 14) (a : GReg) (s : State) : Host.Outcome State Fault Refusal :=
  .next (s.branch (!(s.gr a).slt (s.gr 0)) off 4)

/-- bge gA, gC, label (R241, R242). -/
def execBgeLong (off : BitVec 14) (a c : GReg) (s : State) : Host.Outcome State Fault Refusal :=
  .next (s.branch (!(s.gr a).slt (s.gr c)) off 8)

/-- bltu gA, g0, label (R241, R242). -/
def execBltu (off : BitVec 14) (a : GReg) (s : State) : Host.Outcome State Fault Refusal :=
  .next (s.branch ((s.gr a).ult (s.gr 0)) off 4)

/-- bltu gA, gC, label (R241, R242). -/
def execBltuLong (off : BitVec 14) (a c : GReg) (s : State) : Host.Outcome State Fault Refusal :=
  .next (s.branch ((s.gr a).ult (s.gr c)) off 8)

/-- bgeu gA, g0, label (R241, R242). -/
def execBgeu (off : BitVec 14) (a : GReg) (s : State) : Host.Outcome State Fault Refusal :=
  .next (s.branch (!(s.gr a).ult (s.gr 0)) off 4)

/-- bgeu gA, gC, label (R241, R242). -/
def execBgeuLong (off : BitVec 14) (a c : GReg) (s : State) : Host.Outcome State Fault Refusal :=
  .next (s.branch (!(s.gr a).ult (s.gr c)) off 8)

/-- jalr g0, [gA, disp]: the 32-bit form discards the link (R241, R242). -/
def execJalr (off : BitVec 14) (a : GReg) (s : State) : Host.Outcome State Fault Refusal := .next (s.jalr off a 0 4)

/-- jalr gC, [gA, disp] (R241, R242). -/
def execJalrLong (off : BitVec 14) (a c : GReg) (s : State) : Host.Outcome State Fault Refusal := .next (s.jalr off a c 8)

/-- jal gD, label (R243). -/
def execJal (off : BitVec 19) (d : GReg) (s : State) : Host.Outcome State Fault Refusal :=
  .next ((s.setG d (s.hart.pc + 4)).jumpTo (s.target off))

end Sys2Proof.Machine
end

