-- ==== Sys2Proof/Machine/Flags.lean ====
section
/-! DEFINITION. The control registers (R204, R206, R212-R214, R231, R384-R386), the sticky flags of VSTAT (R229) and the noise source (R232). -/
namespace Sys2Proof.Machine

/-! VSTAT. -/

/-- Sets flags of VSTAT by OR (R215). -/
def orFlags (f : W64) : M Unit := modCsr (fun c => { c with vstat := c.vstat ||| f })

/-! VCFG and VTYPE. -/

/-- VSZ, NV, NM and RBASE of a VCFG value (R204). -/
def vcfgVsz (v : W64) : Nat := 0x10000 * 2 ^ bits v.toNat 4 3
def vcfgNv (v : W64) : Nat := 8 * 2 ^ bits v.toNat 0 2
def vcfgNm (v : W64) : Nat := 4 * 2 ^ bits v.toNat 8 2
def vcfgRbase (v : W64) : Nat := bits v.toNat 32 23

/-- W, the default bytes of a vector register, and EM, the elements of a mask register (R205). -/
def vcfgW (v : W64) : Nat := vcfgVsz v / vcfgNv v
def vcfgEm (v : W64) : Nat := Nat.min 0x10000 (8 * vcfgW v)

/-- The storage of R205, in bytes. -/
def vcfgStorage (v : W64) : Nat := vcfgVsz v + vcfgNm v * 2 * vcfgEm v

/-- A VCFG value with its zero fields zero and no reserved code (R204), and RBASE a multiple of 4 KiB. -/
def vcfgFieldsOk (v : W64) : Bool :=
  bits v.toNat 55 9 == 0 && bits v.toNat 10 22 == 0 && bits v.toNat 7 1 == 0 && bits v.toNat 2 2 == 0
    && bits v.toNat 8 2 != 3 && bits v.toNat 4 3 != 7 && vcfgRbase v % 0x1000 == 0

/-- NV and NM of the hart. -/
def Hart.nv (h : Hart) : Nat := vcfgNv h.csr.vcfg
def Hart.nm (h : Hart) : Nat := vcfgNm h.csr.vcfg
def Hart.em (h : Hart) : Nat := vcfgEm h.csr.vcfg

/-- Fields of VTYPE (R212). -/
def Csr.rw (c : Csr) : Nat := 8 * 2 ^ bits c.vtype.toNat 0 3
def Csr.lmul (c : Csr) : Nat := 2 ^ bits c.vtype.toNat 4 2
def Csr.tz (c : Csr) : Bool := c.vtype.getLsbD 6
def Csr.mz (c : Csr) : Bool := c.vtype.getLsbD 7
def Csr.strict (c : Csr) : Bool := c.vtype.getLsbD 8
def Csr.bxg (c : Csr) : Nat := bits c.vtype.toNat 9 4
def Csr.bsz (c : Csr) : Nat := 16 * 2 ^ bits c.vtype.toNat 13 2

/-- A value VTYPE may hold (R212). -/
def vtypeOk (v : W64) : Bool :=
  bits v.toNat 15 49 == 0 && !v.getLsbD 3 && !v.getLsbD 2 && decide (3 ≤ bits v.toNat 9 4) && decide (bits v.toNat 9 4 ≤ 10)

/-- MVL (R206). -/
def Csr.mvl (c : Csr) : Nat := Nat.min 0x10000 (c.lmul * vcfgVsz c.vcfg * 8 / (vcfgNv c.vcfg * c.rw))

/-- FRM.MODE, FRM.OVF = IEEE, FRM.FTZ (R214). -/
def Csr.mode (c : Csr) : Nat := bits c.frm.toNat 0 3
def Csr.ieee (c : Csr) : Bool := c.frm.getLsbD 3
def Csr.ftz (c : Csr) : Bool := c.frm.getLsbD 4

/-- Rounding controls of a hart, with a draw. -/
def Csr.rnd (c : Csr) (draw : Nat) : Rnd := { mode := c.mode, ieee := c.ieee, ftz := c.ftz, draw := draw }

/-- The mask register that OVFM names, if any (R214). -/
def Csr.ovfMask (c : Csr) : Option Nat := if bits c.ovfm.toNat 0 5 < 16 then some (bits c.ovfm.toNat 0 5) else none

/-! Control registers by number (R213). -/

/-- How a mode reaches a control register: not at all (marked —), read only, or read and write. -/
inductive CsrMode where
  | none | ro | rw
deriving DecidableEq, Repr

/-- User and supervisor access of a control-register number; `none` for an unassigned number. -/
def csrAccess (n : Nat) : Option (CsrMode × CsrMode) :=
  match n with
  | 0x000 => some (.ro, .ro)
  | 0x001 => some (.rw, .rw)
  | 0x002 => some (.ro, .ro)
  | 0x003 => some (.ro, .ro)
  | 0x004 => some (.ro, .ro)
  | 0x005 => some (.rw, .rw)
  | 0x006 => some (.ro, .ro)
  | 0x007 => some (.ro, .ro)
  | 0x010 => some (.rw, .rw)
  | 0x011 => some (.rw, .rw)
  | 0x012 => some (.rw, .rw)
  | 0x013 => some (.rw, .rw)
  | 0x014 => some (.rw, .rw)
  | 0x018 => some (.rw, .rw)
  | 0x019 => some (.rw, .rw)
  | 0x100 => some (.ro, .ro)
  | 0x101 => some (.ro, .ro)
  | 0x102 => some (.ro, .ro)
  | 0x103 => some (.ro, .ro)
  | 0x104 => some (.ro, .ro)
  | 0x200 => some (.none, .rw)
  | 0x201 => some (.none, .rw)
  | 0x202 => some (.none, .rw)
  | 0x203 => some (.none, .rw)
  | 0x204 => some (.none, .rw)
  | 0x205 => some (.none, .rw)
  | 0x300 => some (.ro, .ro)
  | 0x301 => some (.ro, .ro)
  | 0x302 => some (.ro, .ro)
  | 0x303 => some (.ro, .ro)
  | 0x7F0 => some (.none, .ro)
  | _ => none

/-- The value of a control register (R213). -/
def State.csrVal (s : State) (n : Nat) : W64 :=
  let c := s.hart.csr
  match n with
  | 0x000 => c.vl
  | 0x001 => c.vtype
  | 0x002 => c.vcfg
  | 0x003 => BitVec.ofNat 64 c.mvl
  | 0x004 => c.sc
  | 0x005 => c.estart
  | 0x006 => c.mxl
  | 0x007 => c.mxf
  | 0x010 => c.temp
  | 0x011 => c.frm
  | 0x012 => c.xrm
  | 0x013 => c.vstat
  | 0x014 => c.ovfm
  | 0x018 => c.noise
  | 0x019 => c.nlog
  | 0x100 => BitVec.ofNat 64 s.hart.id
  | 0x101 => BitVec.ofNat 64 s.hart.core
  | 0x102 => BitVec.ofNat 64 s.hart.die
  | 0x103 => BitVec.ofNat 64 s.hart.part
  | 0x104 => 0x10201020
  | 0x200 => c.tcause
  | 0x201 => c.tpc
  | 0x202 => c.tval
  | 0x203 => c.tstat
  | 0x204 => c.tvec
  | 0x205 => c.tscratch
  | 0x300 => match s.gangOf s.hart.gang with | some g => g.budget | none => 0
  | 0x301 => match s.gangOf s.hart.gang with | some g => BitVec.ofNat 64 g.eff | none => 0
  | 0x302 => c.chbase
  | 0x303 => c.chlim
  | 0x7F0 => s.bootstat
  | _ => 0

/-- What a write of FRM stores (R214). -/
def frmStore (v : W64) : W64 := if bits v.toNat 0 3 ≥ 6 then v &&& 0x18 else v &&& 0x1F

/-- What a write of OVFM stores (R214). -/
def ovfmStore (nm : Nat) (v : W64) : W64 := if bits v.toNat 0 5 < nm then v &&& 0x1F else 0x10

/-- What a write of TEMP stores, and whether it sets TINV (R303). -/
def tempStore (v : W64) : W64 × Bool :=
  let x := bits v.toNat 0 32
  if x = 0x80000000 then (0, false)
  else if 0x7F800000 < x then (0, true)
  else (BitVec.ofNat 64 x, false)

/-- What a write of NOISE stores (R231). -/
def noiseStore (v : W64) : W64 := (v &&& 0x0000FFFF00003FF0) ||| (if bits v.toNat 0 2 = 3 then 0 else v &&& 3)

/-- What a write of the trap status stores: its zero fields ignore the write (R385). -/
def tstatStore (v : W64) : W64 := v &&& 0xFF03

/-- NOISE fields (R231). -/
def noiseMode (v : W64) : Nat := bits v.toNat 0 2
def noiseRsz (v : W64) : Nat := bits v.toNat 4 4
def noiseIdx (v : W64) : Nat := bits v.toNat 8 6
def noisePos (v : W64) : Nat := bits v.toNat 32 16 % 2 ^ noiseRsz v

/-- NOISE with its POS and IDX replaced. -/
def noiseSet (v : W64) (pos idx : Nat) : W64 :=
  (v &&& 0x00000000000000F3) ||| BitVec.ofNat 64 (pos * 2 ^ 32 + idx * 2 ^ 8)

/-- The VA of byte n of the noise log ring (R231, R232). -/
def nlogAt (c : Csr) (n : Nat) : W64 := (c.nlog &&& ~~~(0x7F : W64)) + BitVec.ofNat 64 n

/-- The bytes of the noise record buffer, entries at and above `n` zero. -/
def recordBytes (buf : List W16) (n : Nat) : List Byte :=
  (List.range 64).flatMap (fun j => leBytes 2 (if j < n then (buf.getD j 0).toNat else 0))

/-- Draw16 (R232). -/
def draw16 (q : Nat) : M Nat := do
  let h ← getH
  let v := h.csr.noise
  let pos := noisePos v
  let idx := noiseIdx v
  let r ← if noiseMode v = 2 then loadNat (nlogAt h.csr (pos * 128 + idx * 2)) 2 false q
    else do
      let s ← getS
      let (n, s') := s.fresh
      set s'
      pure (Config.noise n).toNat
  let buf := if noiseMode v = 1 then h.noiseBuf.set idx (BitVec.ofNat 16 r) else h.noiseBuf
  if idx = 63 then
    if noiseMode v = 1 then storeBytes (nlogAt h.csr (pos * 128)) (recordBytes buf 64) false false false q
    modH (fun h => { h with noiseBuf := buf, csr := { h.csr with noise := noiseSet v ((pos + 1) % 2 ^ noiseRsz v) 0 } })
  else modH (fun h => { h with noiseBuf := buf, csr := { h.csr with noise := noiseSet v (bits v.toNat 32 16) (idx + 1) } })
  return r

/-- A write of a control register under its map (R212, R214, R231, R233, R303, R384-R386). -/
def csrWrite (n : Nat) (v : W64) : M Unit := do
  match n with
  | 0x001 => do
    check (vtypeOk v) (operandTrap qFront)
    modCsr (fun c => { c with vtype := v })
  | 0x005 => modCsr (fun c => { c with estart := v })
  | 0x010 => do
    modCsr (fun c => { c with temp := (tempStore v).1 })
    if (tempStore v).2 then orFlags flTINV else pure ()
  | 0x011 => modCsr (fun c => { c with frm := frmStore v })
  | 0x012 => modCsr (fun c => { c with xrm := v })
  | 0x013 => modCsr (fun c => { c with vstat := v &&& 0xFF })
  | 0x014 => modH (fun h => { h with csr := { h.csr with ovfm := ovfmStore h.nm v } })
  | 0x018 => do
    let h ← getH
    if noiseMode h.csr.noise = 1 then
      storeBytes (nlogAt h.csr (noisePos h.csr.noise * 128)) (recordBytes h.noiseBuf (noiseIdx h.csr.noise)) false false false qFront
    modCsr (fun c => { c with noise := noiseStore v })
  | 0x019 => modCsr (fun c => { c with nlog := v &&& ~~~(0x7F : W64) })
  | 0x200 => modCsr (fun c => { c with tcause := v &&& 0xFF })
  | 0x201 => modCsr (fun c => { c with tpc := v })
  | 0x202 => modCsr (fun c => { c with tval := v })
  | 0x203 => modCsr (fun c => { c with tstat := tstatStore v })
  | 0x204 => modCsr (fun c => { c with tvec := v &&& ~~~(1 : W64) })
  | 0x205 => modCsr (fun c => { c with tscratch := v })
  | _ => pure ()

end Sys2Proof.Machine
end

