-- ==== Sys2Proof/Machine/Words.lean ====
section
/-! DEFINITION. The low 32 bits of instruction words from their fields (R11, R13, R17), as TVAL of ILLEGAL reports them (R391). -/
namespace Sys2Proof.Machine

/-- Bits [1:0] and MAJ of a word: 0b01, or 0b11 for a 64-bit form. -/
def lowHead (long : Bool) (maj : Nat) : Nat := (if long then 3 else 1) + 4 * maj

/-- A word of the VV format (R13). -/
def lowVV (maj fn : Nat) (cv mk : Bool) (d a b : Fld6) : W32 :=
  BitVec.ofNat 32 (lowHead false maj + 0x100 * d.toNat + 0x4000 * a.toNat + 0x100000 * b.toNat + 0x4000000 * fn + 0x40000000 * mk.toNat + 0x80000000 * cv.toNat)

/-- The low word of the VX format (R13). -/
def lowVX (long : Bool) (maj fn : Nat) (cv mk : Bool) (d a : Fld6) (g : GReg) : W32 :=
  BitVec.ofNat 32 (lowHead long maj + 0x100 * d.toNat + 0x4000 * a.toNat + 0x100000 * g.toNat + 0x2000000 * fn + 0x40000000 * mk.toNat + 0x80000000 * cv.toNat)

/-- The low word of the vector memory layout of R159. -/
def lowVM (long : Bool) (maj kind : Nat) (cv mk ord fm a8 : Bool) (d a : Fld6) (g : GReg) : W32 :=
  BitVec.ofNat 32 (lowHead long maj + 0x100 * d.toNat + 0x4000 * a.toNat + 0x100000 * g.toNat + 0x2000000 * a8.toNat + 0x4000000 * fm.toNat
    + 0x8000000 * ord.toNat + 0x10000000 * kind + 0x40000000 * mk.toNat + 0x80000000 * cv.toNat)

/-- An outer product's word (R323). -/
def lowXP (op : Nat) (cv mk pb pa : Bool) (d a b : Fld6) : W32 :=
  BitVec.ofNat 32 (lowHead false 0x2A + 0x100 * d.toNat + 0x4000 * a.toNat + 0x100000 * b.toNat + 0x4000000 * op + 0x10000000 * pa.toNat
    + 0x20000000 * pb.toNat + 0x40000000 * mk.toNat + 0x80000000 * cv.toNat)

/-- The low word of vnext: OFF17 spans the D, A and G fields (R264). -/
def lowVN (off : BitVec 17) : W32 := BitVec.ofNat 32 (lowHead false 0x24 + 0x100 * off.toNat + 0x2000000 * 6)

/-- A control-register word (R245). -/
def lowCS (grp : Nat) (csr : BitVec 12) (a d : GReg) : W32 :=
  BitVec.ofNat 32 (lowHead false 0x12 + 0x100 * d.toNat + 0x2000 * a.toNat + 0x40000 * csr.toNat + 0x40000000 * grp)

/-- A compact halfword (R17). -/
def lowC16 (op : Nat) (d : Fld6) (b : GReg) : W32 := BitVec.ofNat 32 (2 * op + 0x20 * d.toNat + 0x800 * b.toNat)

end Sys2Proof.Machine
end

