-- ==== Sys2Proof/Machine/Operands.lean ====
section
/-! DEFINITION. Vector operands: register groups and bypass names (R14, R195, R205-R211), masks, element reads and writes with their poison and
live lengths, the checks at issue (R261), and the element loop (R259, R260). -/
namespace Sys2Proof.Machine

/-- A vector operand: a group of `cnt` registers from vN, or a bypass name. -/
inductive VOp where
  | reg (n cnt : Nat)
  | byp (b : Nat)
deriving DecidableEq, Repr

/-- Whether a vector register field names a register or a bypass name (R14). -/
def Hart.vfld (h : Hart) (f : Fld6) : Bool := decide (f.toNat < h.nv) || (decide (h.nv ≤ 32) && decide (60 ≤ f.toNat))

/-- The operand a vector register field names, as a group of mult·LMUL registers (R14, R207). -/
def Hart.vop (h : Hart) (f : Fld6) (mult : Nat := 1) : VOp :=
  if f.toNat < h.nv then .reg f.toNat (mult * h.csr.lmul) else .byp (f.toNat - 60)

/-- Window bytes of a vector register. -/
def Hart.vw (h : Hart) : Nat := vcfgW h.csr.vcfg

/-- A vector register, a mask register, a bypass name; numbers past the file read as an empty window. -/
def Hart.vreg (h : Hart) (n : Nat) : VReg := h.vregs.getD n { base := 0, tag := .f32, len := 0 }
def Hart.mreg (h : Hart) (n : Nat) : MReg := h.mregs.getD n { base := 0, len := 0 }
def Hart.bypass (h : Hart) (n : Nat) : Bypass := h.byp.getD n { tag := .f32, written := false, data := [] }

/-- The tag of an operand: a group has its first member's (R207). -/
def Hart.opTag (h : Hart) : VOp → Tag
  | .reg n _ => (h.vreg n).tag
  | .byp b => (h.bypass b).tag

/-- Element count of an operand under a tag (R195, R207). -/
def Hart.opCount (h : Hart) (o : VOp) (t : Tag) : Nat :=
  match o with
  | .reg _ cnt => cnt * h.vw * 8 / t.bits
  | .byp _ => h.csr.mvl

/-- VL as a number. -/
def Csr.vlN (c : Csr) : Nat := c.vl.toNat

/-- A group's register rules (R207). -/
def Hart.groupRegs (h : Hart) : VOp → Bool
  | .reg n cnt => n % cnt == 0 && decide (n + cnt ≤ h.nv)
  | .byp _ => true

/-- A group's register rules and its element count (R207). -/
def Hart.groupOk (h : Hart) (o : VOp) (t : Tag) : Bool := h.groupRegs o && decide (h.csr.vlN ≤ h.opCount o t)

/-- Two operands share a register or are one bypass name. -/
def VOp.meets : VOp → VOp → Bool
  | .reg n c, .reg m d => decide (n < m + d) && decide (m < n + c)
  | .byp a, .byp b => a == b
  | .reg _ _, .byp _ => false
  | .byp _, .reg _ _ => false

/-- A partial overlap: the operands share a register but are not the same group (R261). -/
def VOp.partly (d s : VOp) : Bool := d.meets s && d != s

/-- Register codes for the convoy rules (R193): vN is N, mN is 128 + N, bN is 256 + N. A group that runs past the file keeps codes that name no register. -/
def bypassCode (b : Nat) : Nat := 256 + b
def VOp.regs : VOp → List Nat
  | .reg n c => (List.range c).map (fun j => n + j)
  | .byp b => [bypassCode b]

def maskCode (m : Nat) : Nat := 128 + m

/-- The Chamber offset of a byte of a group (R207). -/
def Hart.opOffset (h : Hart) (n off : Nat) : Nat := (h.vreg (n + off / h.vw)).base + off % h.vw

/-- The keys of element i of a register group under a tag. -/
def Hart.elemKeys (h : Hart) (n : Nat) (t : Tag) (i : Nat) : List Nat :=
  (List.range t.bytes).map (fun j => chamberKey (chamberAddr h.core (h.opOffset n (i * t.bits / 8 + j))))

/-- The keys of element i of mask register j. -/
def Hart.maskKeys (h : Hart) (j i : Nat) : List Nat :=
  (List.range 2).map (fun b => chamberKey (chamberAddr h.core ((h.mreg j).base + 2 * i + b)))

/-- The part of a byte that holds BX4 element i (R223). -/
def nibbleOf (i byte : Nat) : Nat := if i % 2 = 0 then byte % 16 else byte / 16

/-- A byte with the nibble of BX4 element i replaced. -/
def setNibble (i byte code : Nat) : Nat := if i % 2 = 0 then byte / 16 * 16 + code % 16 else byte % 16 + code % 16 * 16

/-- The keys an element of an operand reads: none for a bypass name. -/
def Hart.opKeys (h : Hart) (o : VOp) (t : Tag) (i : Nat) : List Nat :=
  match o with
  | .reg n _ => h.elemKeys n t i
  | .byp _ => []

/-- The code of element i of an operand under a tag, from the bytes it reads; a bypass element its member did not write is a free value (R195). -/
def State.codeFrom (s : State) (o : VOp) (t : Tag) (i : Nat) (bs : List Byte) : Nat :=
  match o with
  | .reg _ _ => if t = .bx4 then nibbleOf i (leNat bs) else leNat bs
  | .byp b =>
    match (s.hart.bypass b).data.find? (fun x => x.1 == i) with
    | some x => x.2
    | none => leNat ((List.range t.bytes).map (fun j => Config.freeByte (s.freeCtr * 4 + b) (8 * i + j)))

/-- The code of element i of an operand under a tag, as the latest writes leave it. -/
def State.codeOf (s : State) (o : VOp) (t : Tag) (i : Nat) : Nat := s.codeFrom o t i ((s.hart.opKeys o t i).map s.byteAt)

/-- The code of element i of a mask register. -/
def State.maskOf (s : State) (j i : Nat) : Nat := leNat ((s.hart.maskKeys j i).map s.byteAt)

/-- The first poisoned key of a list. -/
def State.badKey (s : State) (ks : List Nat) : Option Nat := ks.find? (fun k => s.poisoned k)

/-- POISON for a poisoned byte of the hart's own Chamber: TVAL is its word's aperture VA (R391). -/
def ownPoison (k q : Nat) : Trap := poisonTrap (apertureVa (k - 0x10000000000000)) q

/-- Ends with POISON when one of the hart's own Chamber bytes is poisoned (R263), once the bit errors of its words are met (R48). -/
def needOwnClean (ks : List Nat) (q : Nat) : M Unit := fun s =>
  let s := s.expose ks
  match s.badKey ks with
  | none => .ok () s
  | some k => .error (ownPoison k q) (s.logPoison 5 k)

/-- The bytes of the hart's own registers as an instruction reads them: an event on path LS (R94). -/
def readOwn (ks : List Nat) : M (List Byte) := fun s => .ok (ks.map (s.look (s.manner pathLS) ks).1.byteAt) (s.look (s.manner pathLS) ks).2

/-- Element i of an operand as an instruction reads it, whatever its poison. -/
def peekCode (o : VOp) (t : Tag) (i : Nat) : M Nat := do
  let bs ← readOwn ((← getH).opKeys o t i)
  return (← getS).codeFrom o t i bs

/-- Element i of a mask register as an instruction reads it, whatever its poison. -/
def peekMask (j i : Nat) : M Nat := do return leNat (← readOwn ((← getH).maskKeys j i))

/-- An active read of element i of an operand. -/
def readCode (o : VOp) (t : Tag) (i : Nat) (q : Nat := qVq) : M Nat := do
  needOwnClean ((← getH).opKeys o t i) q
  peekCode o t i

/-- An active read of element i of a mask register. -/
def readMask (j i : Nat) (q : Nat := qVq) : M Nat := do
  needOwnClean ((← getH).maskKeys j i) q
  peekMask j i

/-- Whether element i is active under m0 (R6, R222). -/
def State.active (s : State) (mk : Bool) (i : Nat) : Bool := !mk || activeCode (s.maskOf 0 i)

/-- Whether element i is active, as an instruction under MK finds it: an active element reads its word of m0 (R263). (DEDUCED, log 24.) -/
def activeM (mk : Bool) (i : Nat) (q : Nat := qVq) : M Bool := do
  if mk then do
    let act := activeCode (← peekMask 0 i)
    if act then needOwnClean ((← getH).maskKeys 0 i) q else pure ()
    return act
  else return true

/-- The scale operand of a BX group (R224). -/
def VOp.scale : VOp → VOp
  | .reg n c => .reg (n + c) 1
  | .byp b => .byp b

/-- A source of a vector instruction as the rules of poison see it: an operand under a tag, one of which element i reads the element that a list names, the
scale words of a BX group, a mask register, or one of which element i reads the element that a list names. -/
inductive Src where
  | vec (o : VOp) (t : Tag)
  | picked (o : VOp) (t : Tag) (xs : List (Option Nat))
  | scale (o : VOp)
  | mask (j : Nat)
  | pickedMask (j : Nat) (xs : List (Option Nat))
deriving DecidableEq, Repr

/-- The keys element i of a source reads. -/
def Hart.srcKeys (h : Hart) (x : Src) (i : Nat) : List Nat :=
  match x with
  | .vec o t => h.opKeys o t i
  | .picked o t xs => match xs.getD i none with | some x => h.opKeys o t x | none => []
  | .scale o => h.opKeys o.scale .bxs (i / 32)
  | .mask j => h.maskKeys j i
  | .pickedMask j xs => match xs.getD i none with | some x => h.maskKeys j x | none => []

/-- The registers of an operand: first key and bytes of each. -/
def Hart.opRanges (h : Hart) : VOp → List (Nat × Nat)
  | .reg n c => (List.range c).map (fun j => (chamberKey (chamberAddr h.core (h.vreg (n + j)).base), h.vw))
  | .byp _ => []

/-- The registers of a source: first key and bytes of each. -/
def Hart.srcRanges (h : Hart) : Src → List (Nat × Nat)
  | .vec o _ => h.opRanges o
  | .picked o _ _ => h.opRanges o
  | .scale o => h.opRanges o.scale
  | .mask j => [(chamberKey (chamberAddr h.core (h.mreg j).base), 2 * h.em)]
  | .pickedMask j _ => [(chamberKey (chamberAddr h.core (h.mreg j).base), 2 * h.em)]

/-- Whether a word lies in a source. -/
def Hart.inSrc (h : Hart) (x : Src) (u : Nat) : Bool := (h.srcRanges x).any (fun r => decide (r.1 < u + 8) && decide (u < r.1 + r.2))

/-- Whether an active element below VL reads a word of a source. -/
def State.readsWord (s : State) (mk : Bool) (x : Src) (u : Nat) : Bool :=
  (List.range s.hart.csr.vl.toNat).any (fun i => s.active mk i && (s.hart.srcKeys x i).any (fun k => unitOf k == u))

/-- The poisoned words of a source that lie under inactive elements or at or above VL only. -/
def State.quietWords (s : State) (mk : Bool) (x : Src) : List Nat := s.poison.filter (fun u => isChamber u && s.hart.inSrc x u && !s.readsWord mk x u)

/-- The poisoned words of an instruction's sources, and of m0 under MK, that no active element reads, once the bit errors of the sources are met (R263). -/
def State.quietOf (s : State) (mk : Bool) (xs : List Src) : List Nat × State :=
  let xs := xs ++ (if mk then [.mask 0] else [])
  let s := s.expose ((s.flaws.map Flaw.first).filter (fun u => isChamber u && xs.any (fun x => s.hart.inSrc x u)))
  ((xs.flatMap (s.quietWords mk)).eraseDups, s)

/-- The operands of an instruction as sources. -/
def vecSrcs (os : List (VOp × Tag)) : List Src := os.flatMap (fun o => if o.2.isBx then [.vec o.1 o.2, .scale o.1] else [.vec o.1 o.2])

/-- A vector register's live length raised to cover bytes up to `hi` of its window (R169): a write that names the register raises it, and a write of its window by other
means, an aperture store, a delivery of vmcast or an engine's write, does not: the rule does not say which writes count. (DESIGN CHOICE, log 81.) -/
def Hart.grow (h : Hart) (n hi : Nat) : Hart :=
  { h with vregs := h.vregs.set n { h.vreg n with len := Nat.max (h.vreg n).len hi } }

/-- A mask register's live length raised. -/
def Hart.growMask (h : Hart) (j hi : Nat) : Hart :=
  { h with mregs := h.mregs.set j { h.mreg j with len := Nat.max (h.mreg j).len hi } }

/-- Bytes of the hart's own registers written: an event on path LS (R94). -/
def State.putOwn (s : State) (put : State → List Nat → List Byte → State) (ks : List Nat) (bs : List Byte) : State :=
  let (cuts, t) := cutEvents (s.manner pathLS) (some .plain) (Split.locs.events ks) s
  t.storeCut (s.manner pathLS) .plain put cuts ks bs

/-- Half of a byte written. -/
def State.putHalf (high : Bool) (s : State) (ks : List Nat) (bs : List Byte) : State :=
  (ks.zip bs).foldl (fun s x => (s.noteHalf x.1 high).putRaw x.1 x.2) s

/-- Element i of an operand written with a code under a tag. -/
def State.putCode (s : State) (o : VOp) (t : Tag) (i code : Nat) : State :=
  match o with
  | .reg n _ =>
    let h := s.hart
    let off := i * t.bits / 8
    let ks := h.elemKeys n t i
    let t' := if t = .bx4 then s.putOwn (State.putHalf (i % 2 == 1)) ks [BitVec.ofNat 8 (setNibble i (s.byteAt (ks.headD 0)).toNat code)]
      else s.putOwn (fun s => s.putKeys false) ks (leBytes t.bytes code)
    t'.setHart (h.grow (n + off / h.vw) (off % h.vw + t.bytes))
  | .byp b =>
    let x := s.hart.bypass b
    s.setHart { s.hart with byp := s.hart.byp.set b { x with data := (i, code) :: x.data.filter (fun y => y.1 != i) } }

/-- Element i of a mask register written. -/
def State.putMask (s : State) (j i code : Nat) : State :=
  (s.putOwn (fun s => s.putKeys false) (s.hart.maskKeys j i) (leBytes 2 code)).setHart (s.hart.growMask j (2 * i + 2))

def writeCode (o : VOp) (t : Tag) (i code : Nat) : M Unit := modify (fun s => s.putCode o t i code)
def writeMask (j i code : Nat) : M Unit := modify (fun s => s.putMask j i code)

/-- A saturation of element i (R211). -/
def saturate (i : Nat) : M Unit := do
  orFlags flSAT
  match (← getH).csr.ovfMask with
  | some m => writeMask m i 0x8000
  | none => pure ()

/-- A rounded result written as element i, with its flags and its saturation (R211, R229). -/
def writeRounded (o : VOp) (t : Tag) (i : Nat) (r : Rounded) : M Unit := do
  writeCode o t i r.code
  orFlags r.flags
  if r.sat then saturate i else pure ()

/-- A draw where FRM.MODE is SR and the write rounds (R230); 0 otherwise. (DEDUCED, log 23.) -/
def drawIf (rounds : Bool) (q : Nat := qVq) : M Nat := do
  if rounds && (← getH).csr.mode == 5 then draw16 q else pure 0

/-! The element loop. -/

/-- ESTART, the element at which an instruction stops (VL, or the convoy's limit), and whether it runs to its end (R196). -/
structure Bounds where
  lo : Nat
  hi : Nat
  full : Bool
deriving DecidableEq, Repr

/-- The bounds of a vector instruction at its place. -/
def Hart.bounds (h : Hart) : Bounds :=
  match h.convoy with
  | some c =>
    match c.limit with
    | some e => { lo := h.csr.estart.toNat, hi := Nat.min h.csr.vlN e, full := false }
    | none => { lo := h.csr.estart.toNat, hi := h.csr.vlN, full := true }
  | none => { lo := h.csr.estart.toNat, hi := h.csr.vlN, full := true }

/-- Whether the earlier members of the convoy whose results an instruction reads have performed some elements (R194). -/
def Hart.gateOpen (h : Hart) (is : List Nat) : Bool := match h.convoy with | some c => c.gates.all (fun d => is.all d.contains) | none => true

/-- Whether an instruction has surely performed an element from the stop on: a later member traps on what it makes of it (R196). -/
def Hart.forced (h : Hart) (is : List Nat) : Bool := match h.convoy with | some c => (match c.force with | some e => is.contains e | none => false) | none => false

/-- Elements from the stop on noted as performed. -/
def State.noteDone (s : State) (is : List Nat) : State := s.setHart { s.hart with convoy := s.hart.convoy.map (fun (c : ConvoyCtx) => { c with done := is ++ c.done }) }

/-- Elements that an instruction which traps or is pre-empted below them may have performed already (R101, R196): each of `n` units from i up by a free
choice, a unit being the elements that `cover` gives, where it meets no fault and earlier members have written the elements that it reads, as `reads` gives them (R194).
They are performed again on resume. (DESIGN CHOICE, log 8.) -/
def mayPerform (f : Nat → M Unit) (cover reads : Nat → List Nat) : Nat → Nat → State → State
  | 0, _, s => s
  | n + 1, i, s =>
    let (c, s) := s.choose
    mayPerform f cover reads n (i + 1) (if (c % 2 == 1 || s.hart.forced (cover i)) && s.hart.gateOpen (reads i) then
      (match f i s with | .ok _ t => t.noteDone (cover i) | .error _ _ => s) else s)

/-- Runs `f` on `n` elements from i up, a trap naming its element; where `free`, elements above the trap may have been performed (R101). -/
def overElems (free : Bool) (f : Nat → M Unit) : Nat → Nat → M Unit
  | 0, _ => pure ()
  | n + 1, i => fun s =>
    match atElem i (f i) s with
    | .ok _ s => overElems free f n (i + 1) s
    | .error t s => .error t (if free then mayPerform f (fun j => [j]) (fun j => [j]) n (i + 1) s else s)

/-- Runs `f` on numbers i to i + n − 1, traps kept as they are. -/
def overRange (f : Nat → M Unit) : Nat → Nat → M Unit
  | 0, _ => pure ()
  | n + 1, i => do
    f i
    overRange f n (i + 1)

/-- The elements from a stop below VL on, where they are free; `reads` gives the elements of its sources that one of them reads. -/
def afterStop (free : Bool) (f : Nat → M Unit) (reads : Nat → List Nat := fun i => [i]) : M Unit := fun s =>
  let b := s.hart.bounds
  .ok () (if free && !b.full then mayPerform f (fun j => [j]) (fun j => (reads j).filter (fun x => decide (b.hi ≤ x))) (s.hart.csr.vlN - b.hi) b.hi s else s)

/-- The element loop from ESTART (R259). -/
def elementLoop (f : Nat → M Unit) (free : Bool := false) (reads : Nat → List Nat := fun i => [i]) : M Unit := do
  let b := (← getH).bounds
  overElems free f (b.hi - b.lo) b.lo
  afterStop free f reads

/-- A list in the order that a number stands for; 0 leaves it as it is. -/
def orderOf : Nat → Nat → List Nat → List Nat
  | 0, _, _ => []
  | n + 1, c, l => l.getD (c % l.length) 0 :: orderOf n (c / l.length) (l.eraseIdx (c % l.length))

/-- The numbers from lo to hi − 1 in the order a choice stands for. -/
def elemOrder (c lo hi : Nat) : List Nat := orderOf (hi - lo) c ((List.range (hi - lo)).map (fun j => lo + j))

/-- Runs `f` on listed elements, a trap naming its element. -/
def overList (f : Nat → M Unit) : List Nat → M Unit
  | [] => pure ()
  | i :: r => do
    atElem i (f i)
    overList f r

/-- Elements lo to hi − 1 of an instruction whose elements are unordered (R116), with what follows them: their order is a free choice, ascending where none is
given. A trap is at the lowest element that faults, with every element below it performed, and where `free` some above it. (DESIGN CHOICE, log 8.) -/
def unorderedOver (f : Nat → M Unit) (free : Bool) (lo hi : Nat) (after : M Unit) : M Unit := fun s =>
  let (c, s) := s.choose
  match overElems false f (hi - lo) lo s with
  | .ok _ t => if c = 0 then after t else (do overList f (elemOrder c lo hi); after) s
  | .error tr t =>
    if c = 0 then .error tr t
    else
      let e := tr.elem.getD lo
      (do overList f (elemOrder c lo e); overElems free f (hi - e) e) s

/-- The loop of a vector instruction whose elements are unordered (R116, R259). -/
def unorderedLoop (f : Nat → M Unit) (free : Bool) : M Unit := do
  let b := (← getH).bounds
  unorderedOver f free b.lo b.hi (afterStop free f)

/-- Runs `f` on listed elements and keeps what each gives, up to one that traps. -/
def gatherList {α : Type} (f : Nat → M α) : List Nat → M (List (Nat × α) × Option Trap)
  | [] => pure ([], none)
  | i :: r => fun s =>
    match atElem i (f i) s with
    | .error t s => .ok ([], some t) s
    | .ok x s =>
      match gatherList f r s with
      | .ok (l, t) s => .ok ((i, x) :: l, t) s
      | .error t s => .error t s

/-- What `f` gives for the elements from lo below hi, whose order is a free choice (R116), up to the lowest that traps. (DESIGN CHOICE, log 8.) -/
def gatherAny {α : Type} (f : Nat → M α) (lo hi : Nat) : M (List (Nat × α) × Option Trap) := do
  let (c, s) := (← getS).choose
  set s
  let l ← gatherList f (elemOrder 0 lo hi)
  if c = 0 then return l
  else do
    let e := match l.2 with | some t => t.elem.getD lo | none => hi
    set s
    let (xs, _) ← gatherList f (elemOrder c lo e)
    let (_, t) ← gatherList f (elemOrder 0 e (if l.2.isSome then e + 1 else e))
    return (xs, t)

/-- A trap that was met is raised. -/
def raiseMet : Option Trap → M Unit
  | none => pure ()
  | some t => raise t

/-- The tail of a vector destination: zero codes from element `lo` to the group's end under TZ (R259, R212). -/
def tailFrom (o : VOp) (t : Tag) (lo : Nat) : M Unit := do
  let h ← getH
  if h.csr.tz then overRange (fun i => writeCode o t i 0) (h.opCount o t - lo) lo else pure ()

/-- The tail of a mask destination. -/
def maskTailFrom (j lo : Nat) : M Unit := do
  let h ← getH
  if h.csr.tz then overRange (fun i => writeMask j i 0) (h.em - lo) lo else pure ()

/-- Runs what happens only when the instruction runs to its end. -/
def whenFull (m : M Unit) : M Unit := do
  if (← getH).bounds.full then m else pure ()

/-- An instruction over its sources: the poisoned words that no active element reads are logged as class 4, each once, when it ends (R263, R393).
(DEDUCED, log 25.) -/
def withSources (mk : Bool) (xs : List Src) (body : M Unit) : M Unit := do
  let (quiet, s) := (← getS).quietOf mk xs
  set s
  body
  whenFull (modify fun s => quiet.foldl (fun s u => s.logPoison 4 u) s)

/-- An inactive element of a destination (R259): zero under MZ, unchanged under MU. -/
def inactiveElem (o : VOp) (t : Tag) (i : Nat) : M Unit := do
  if (← getH).csr.mz then writeCode o t i 0 else pure ()

def inactiveMask (j i : Nat) : M Unit := do
  if (← getH).csr.mz then writeMask j i 0 else pure ()

/-! Issue. -/

/-- What issue and the convoy rules need to know of a VQ or MQ instruction: its class (none for None), CV, its low word for TVAL, the ILLEGAL subcode its
fields give (6 before 7), the field that becomes the last vector destination (R17), the registers it reads and writes (R193), the scalar registers
it reads and writes, whether it writes BX blocks (R225), the queue where it traps, whether it is an external load of R197, and whether it raises no trap but ILLEGAL (R91, R161: at VL = 0). -/
structure VInfo where
  cls : Option PClass
  cv : Bool
  low : W32
  len : Nat
  ill : Option Nat
  dest : Option Fld6
  reads : List Nat
  writes : List Nat
  gReads : List GReg
  gWrite : Option GReg
  bx : Bool
  queue : Nat
  ext : Bool := false
  quiet : Bool := false
deriving DecidableEq, Repr

/-- The lowest ILLEGAL subcode among fields: 6 for a vector register field, 7 for another file's field beyond its count (R20). -/
def fieldIll (vecOk otherOk : Bool) : Option Nat := if !vecOk then some 6 else if !otherOk then some 7 else none

/-- The scale register a BX group brings (R224). -/
def scaleRegs (h : Hart) (o : VOp) : List Nat :=
  match o with
  | .reg n c => if (h.vreg n).tag.isBx then [n + c] else []
  | .byp _ => []

/-- The mask register OVFM names, for instructions that can saturate (R211). (DEDUCED, log 27.) -/
def ovfRegs (h : Hart) : List Nat :=
  match h.csr.ovfMask with
  | some m => [maskCode m]
  | none => []

/-- An instruction that can saturate: the mask register OVFM names is a destination of it (R211). -/
def VInfo.canSat (v : VInfo) (h : Hart) : VInfo := { v with writes := v.writes ++ ovfRegs h }

/-- The bypass names among register codes. -/
def bypassCodes (rs : List Nat) : List Nat := rs.filter (fun r => decide (256 ≤ r))

/-- Whether the hart runs a member of a convoy, and not a loose instruction. -/
def Hart.inConvoy (h : Hart) : Bool := match h.convoy with | some c => !c.loose | none => false

/-- A bypass name that an instruction reads and no member of its convoy has written (R195). -/
def Hart.unwritten (h : Hart) (rs : List Nat) : Option Nat :=
  (bypassCodes rs).find? (fun r => !h.inConvoy || !(h.bypass (r - 256)).written)

/-- The SCHEDULE BYPASS trap (R199). -/
def bypassTrap (r q : Nat) : Trap := trap causeSchedule (BitVec.ofNat 64 (1 + 256 * (r - 256 + 60))) q

/-- The SCHEDULE PENDING trap (R199): the register field of a source that an external load has not delivered on schedule. -/
def pendingTrap (r q : Nat) : Trap := trap causeSchedule (BitVec.ofNat 64 (3 + 256 * (if 256 ≤ r then r - 256 + 60 else r % 64))) q

/-- Whether an instruction runs under MK: bit 30 of every 32-bit word that has the field (R13, R159, R323). -/
def VInfo.masked (v : VInfo) : Bool := v.len != 2 && v.low.getLsbD 30

/-- The first active element that one of a list of outstanding sources is late for, and the source: how many elements of each arrive on schedule is free, the
next choice. -/
def lateSource (b : Bounds) (mk : Bool) : List Nat → Option (Nat × Nat) → State → Option (Nat × Nat) × State
  | [], found, s => (found, s)
  | r :: rs, found, s =>
    let (n, s) := s.choose
    let here := (List.range b.hi).find? (fun i => decide (b.lo ≤ i) && decide (n ≤ i) && s.active mk i)
    lateSource b mk rs (match here, found with
      | some i, some f => if i < f.1 then some (i, r) else some f
      | some i, none => some (i, r)
      | none, f => f) s

/-- In a strict convoy, the sources that external loads of the convoy write may be late (R197). The trap is at the first active element whose source is not
available, for m0 under MK as for any other source. A rerun up to a stop asks no more: the run that found the stop has asked. -/
def needOnSchedule (v : VInfo) : M Unit := do
  let h ← getH
  match h.convoy with
  | none => pure ()
  | some c =>
    let out := (v.reads.filter c.ext.contains).eraseDups
    if h.csr.strict && !out.isEmpty && (c.limit.isNone || c.trap.isSome) then
      let (late, s) := lateSource h.bounds v.masked out none (← getS)
      set s
      match late with
      | some (i, r) => raise ((pendingTrap r v.queue).at i)
      | none => pure ()
    else pure ()

/-- Marks the bypass names a member has written. -/
def Hart.markBypass (h : Hart) (rs : List Nat) : Hart :=
  { h with byp := (bypassCodes rs).foldl (fun l r => l.set (r - 256) { l.getD (r - 256) { tag := .f32, written := false, data := [] } with written := true }) h.byp }

/-- The checks of a VQ instruction before its operand checks: ILLEGAL of its fields (R14, R20), a loose bypass destination (R193), an unwritten bypass
source (R195). `loose` names no bypass check for `vtag`, whose destination may be a bypass name (R266). -/
def issueChecks (v : VInfo) (mayBypass : Bool) : M Unit := do
  let h ← getH
  match v.ill with
  | some n => raise (illegalTrap n v.low v.queue)
  | none => pure ()
  check (mayBypass || h.inConvoy || (bypassCodes v.writes).isEmpty) (illegalTrap 0x14 v.low v.queue)
  if v.quiet then pure ()
  else
    match h.unwritten v.reads with
    | some r => raise ((bypassTrap r v.queue).at 0)
    | none => pure ()

/-- A body whose sources must arrive on schedule (R197). What it checks at issue, before any element, comes first (R261, R387). -/
def onSchedule (v : VInfo) (body : M Ctl) : M Ctl := fun s =>
  if v.quiet then body s
  else
    match needOnSchedule v s with
    | .ok _ s => body s
    | .error t u =>
      match body u with
      | .error t' _ => .error (if t'.elem.isNone && (t'.cause == causeOperand || t'.cause == causeIllegal) then t' else t) u
      | .ok _ _ => .error t u

/-- The end of a vector instruction that ran: ESTART is 0 when it is loose (R260), its bypass destinations are written, and its D becomes the last vector
destination (R17). -/
def Hart.finishVector (h : Hart) (v : VInfo) : Hart :=
  let h := h.markBypass v.writes
  let h := match v.dest with | some d => { h with lastDest := d.toNat } | none => h
  let h := { h with convoy := h.convoy.map (fun (c : ConvoyCtx) =>
    { c with ext := if v.ext then v.writes ++ c.ext else c.ext, ahead := (v.writes, c.done) :: c.ahead, gates := [], done := [], force := none }) }
  if h.convoy.isNone then { h with csr := { h.csr with estart := 0 } } else h

/-- Whether two lists share an entry. -/
def shares {α : Type} [BEq α] (a b : List α) : Bool := a.any b.contains

/-- What a member of a convoy reads of earlier members limits what it can have performed from a stop on (R194). -/
def Hart.atGates (h : Hart) (v : VInfo) : Hart :=
  { h with convoy := h.convoy.map (fun (c : ConvoyCtx) => { c with gates := (c.ahead.filter (fun a => shares a.1 v.reads)).map Prod.snd, done := [] }) }

/-- What the convoy rules keep of a member. -/
def VInfo.sig (v : VInfo) : SpanMember := { cls := v.cls, reads := v.reads, writes := v.writes, gWrite := v.gWrite }

/-- The lowest subcode of R193 that an instruction breaks behind earlier members; `full` where a span has ended (R201). -/
def breaks (ms : List SpanMember) (v : VInfo) (full : Bool) : Option Nat :=
  if ms.any (fun m => m.cls == v.cls) then some 0x10
  else if ms.any (fun m => shares m.writes v.writes) then some 0x11
  else if ms.any (fun m => shares m.reads v.writes) then some 0x12
  else if full then some 0x15
  else none

/-- Whether an instruction reads a scalar register that an earlier member writes (R191). -/
def readsEarlier (ms : List SpanMember) (v : VInfo) : Bool :=
  ms.any (fun m => match m.gWrite with | some g => g != 0 && v.gReads.contains g | none => false)

/-- Whether a VQ instruction continues the convoy of earlier members (R191). -/
def continues (ms : List SpanMember) (v : VInfo) : Bool := !ms.isEmpty && !v.cv && v.cls.isSome && !readsEarlier ms v

/-- The members of the skipped convoy that is open after a skipped instruction: it begins one, joins one, or breaks it (R191, R193). -/
def membersAfter (ms : List SpanMember) (v : VInfo) : List SpanMember :=
  if v.cv && v.cls.isSome then [v.sig] else if continues ms v && (breaks ms v false).isNone then ms ++ [v.sig] else []

/-- Counts an instruction into the span of a `vrgn` (R200): the span after it, and whether the instruction is skipped. -/
def Hart.spanStep (h : Hart) (v : VInfo) : Option Span × Bool :=
  match h.span with
  | none => (none, false)
  | some sp =>
    if sp.left = 0 then (none, false)
    else
      let sp' : Span := { left := sp.left - 1, skip := sp.skip, members := if sp.skip then membersAfter sp.members v else [] }
      (if sp'.left = 0 && sp'.members.isEmpty then none else some sp', sp.skip)

/-- The subcode of a VQ instruction that would continue a skipped convoy across the end of a span (R201), the lowest it breaks (R193). -/
def Hart.spanBreaks (h : Hart) (v : VInfo) : Option Nat :=
  match h.span with
  | some sp => if sp.left = 0 ∧ continues sp.members v then breaks sp.members v true else none
  | none => none

/-- A member's trap noted in its convoy (R196): the lowest element wins, and among equals the earliest member; later members run below it. -/
def ConvoyCtx.note (c : ConvoyCtx) (t : Trap) (estart : Nat) : ConvoyCtx :=
  let e := match t.elem with | some i => i | none => estart
  let better := match c.limit with | some l => decide (e < l) | none => true
  if better then { c with limit := some e, trap := some (t.cause, t.tval, t.elem, t.queue), trapMember := c.member } else c

/-- Whether the focus hart, placed again, has not yet reacquired the matrix unit it held (R381). -/
def State.owesTile (s : State) : Bool := s.frames.any (fun f => f.hart == s.hart.id && f.gang == s.hart.gang && f.tile.isSome)

/-- Whether an instruction belongs to the matrix unit: MAJ 0x2A or 0x2B. -/
def VInfo.matrix (v : VInfo) : Bool := v.len != 2 && (bits v.low.toNat 2 6 == 0x2A || bits v.low.toNat 2 6 == 0x2B)

/-- A VQ or MQ instruction: skipped in a span, or issued and run; in a convoy its trap is noted and the convoy goes on (R196). A hart that has yet to reacquire
its matrix unit waits with the unit's instructions (R381). -/
def runVector (v : VInfo) (mayBypass : Bool) (body : M Ctl) (s : State) : Host.Outcome State Fault Refusal :=
  let h := s.hart.atGates v
  let s := s.setHart h
  if v.ill.isSome || (h.spanBreaks v).isSome then
    .next (({ s.endWrites with hart := { h with span := if (h.spanBreaks v).isSome then none else h.span } }).takeTrap
      (illegalTrap (match v.ill with | some n => n | none => (h.spanBreaks v).getD 0x15) v.low v.queue))
  else if v.matrix && s.owesTile then .next (s.waiting .line)
  else
    let inVq := v.queue == qVq
    let (span, skip) := if inVq then h.spanStep v else (h.span, false)
    if skip then
      .next ((s.setHart { h with span := span, lastDest := match v.dest with | some d => d.toNat | none => h.lastDest }).advance v.len)
    else
      match (do issueChecks v mayBypass; onSchedule v body : M Ctl) s with
      | .ok (.wait w) s => .next (s.endWrites.waiting w)
      | .ok (.jump pc) s => .next ((s.endWrites.setHart { s.hart.finishVector v with span := span }).jumpTo pc)
      | .ok .seq s =>
        let s := s.endWrites.setHart { s.hart.finishVector v with span := span }
        .next (if s.hart.convoy.isSome then s else s.advance v.len)
      | .error t s =>
        match s.hart.convoy with
        | some c => .next (s.endWrites.setHart { s.hart.finishVector v with span := span, convoy := some (c.note t s.hart.csr.estart.toNat) })
        | none => .next (s.endWrites.takeTrap t)

end Sys2Proof.Machine
end

