-- ==== Sys2Proof/Machine/Elements.lean ====
section
/-! DEFINITION. Element-wise vector instructions (R259, R261, R272-R274): exact results, their one write under the destination's tag, and the
block formats BX8 and BX4 (R223-R226). -/
namespace Sys2Proof.Machine

/-! BX blocks. -/

/-- The exponent offset and the largest magnitude of a BX format (R223). -/
def bxOff (t : Tag) : Int := if t = .bx4 then 128 else 132
def bxMax (t : Tag) : Nat := if t = .bx4 then 3 else 63
def bxBits (t : Tag) : Nat := if t = .bx4 then 2 else 6

/-- The value of a BX code under its scale word (R223). -/
def bxVal (t : Tag) (word code : Nat) : Val :=
  let e0 := word % 256
  let e1 := word / 256 % 256
  if e0 = 255 ∨ e1 = 255 then .nan
  else
    let k := bxBits t
    .num (code / 2 ^ (k + 1) % 2 == 1) (code % 2 ^ k) ((if code / 2 ^ k % 2 = 1 then e1 else e0 : Nat) - bxOff t) false

/-- An element of a block to be written (R225): computed from a value, kept with the value it held, or the zero code. -/
inductive BxIn where
  | computed (v : Val)
  | kept (v : Val)
  | zero
deriving DecidableEq, Repr

/-- The value an element brings to the choice of the scale. -/
def BxIn.val : BxIn → Val
  | .computed v => v
  | .kept v => v
  | .zero => .zero false

def BxIn.isComputed : BxIn → Bool
  | .computed _ => true
  | .kept _ => false
  | .zero => false

/-- |a| ≤ mx · 2^k for a number. -/
def fitsBx (a : Val) (mx : Nat) (k : Int) : Bool := decide (Val.cmp a.abs (.num false mx k false) ≤ 0)

/-- The smallest E0 with M · 2^(off − E0) ≤ max, from the value M of greatest magnitude (R225). -/
def bxE0 (t : Tag) (m : Val) : Int :=
  match m with
  | .nan => 0
  | .inf _ => 0
  | .num _ mm e _ =>
    let k := (bitLen mm : Int) + e - (bxBits t : Int)
    bxOff t + (if fitsBx m (bxMax t) k then k else k + 1)

/-- The element of greatest magnitude. -/
def maxAbs : List Val → Val
  | [] => .zero false
  | v :: r => let w := maxAbs r; if Val.cmp w.abs v.abs < 0 then v else w

/-- One element encoded under the chosen exponents (R225): code, flags, saturation. -/
def bxElem (t : Tag) (r : Rnd) (e0 e1 : Nat) (x : BxIn) : Rounded :=
  match x with
  | .zero => { code := 0, flags := 0, sat := false }
  | .computed v => go v r true
  | .kept v => go v (if r.mode = 5 then r.rne else r) false
where
  go (v : Val) (r : Rnd) (counts : Bool) : Rounded :=
    let off := bxOff t
    let sel := decide (e1 < e0) && fitsBx v (bxMax t) ((e1 : Int) - off)
    match v with
    | .nan => { code := 0, flags := 0, sat := false }
    | .inf _ => { code := 0, flags := 0, sat := false }
    | .num neg m e st =>
      let (q, ix) := roundUnits r neg m (e + off - (if sel then e1 else e0 : Nat)) 0 st
      let sat := decide (bxMax t < q)
      let mag := if sat then bxMax t else q
      { code := neg.toNat * 2 ^ (bxBits t + 1) + sel.toNat * 2 ^ bxBits t + mag
        flags := if counts && ix then flNX else 0
        sat := counts && sat }

/-- A block's scale word and elements (R225). `draws` gives each element its draw under SR. -/
def bxBlock (t : Tag) (c : Csr) (xs : List BxIn) (draws : List Nat) : Nat × List Rounded :=
  let bad := fun (x : BxIn) => x.val.isNan || x.val.isInf
  let none : Rounded := { code := 0, flags := 0, sat := false }
  if xs.any bad then
    (0xFFFF, xs.map (fun x => if x.isComputed && bad x then { none with flags := flNV } else none))
  else
    let m := maxAbs (xs.map BxIn.val)
    if m.isZero then
      (0, xs.map (fun x => match x with
        | .zero => none
        | .computed v => { none with code := v.negative.toNat * 2 ^ (bxBits t + 1) }
        | .kept v => { none with code := v.negative.toNat * 2 ^ (bxBits t + 1) }))
    else
      let e := bxE0 t m
      if 254 < e ∧ c.ieee then
        (0xFFFF, xs.map (fun x => if x.isComputed && !fitsBx x.val (bxMax t) (254 - bxOff t) then { none with flags := flOF } else none))
      else
        let e0 := (if 254 < e then 254 else if e < 0 then 0 else e).toNat
        let e1 := e0 - c.bxg
        (e1 * 256 + e0, List.zipWith (fun x d => bxElem t (c.rnd d) e0 e1 x) xs draws)

/-! Reading operands as values. -/

/-- An active element of an operand as a value; a BX element takes its block's scale word (R226). -/
def readVal (o : VOp) (t : Tag) (i : Nat) (q : Nat := qVq) : M Val := do
  let ftz := (← getH).csr.ftz
  if t.isBx then
    let w ← readCode o.scale .bxs (i / 32) q
    let x ← readCode o t i q
    return bxVal t w x
  else
    let x ← readCode o t i q
    return t.decode ftz x

/-- The groups an operand stands for: itself, and the scale register of a BX group (R224). -/
def VOp.set (o : VOp) (t : Tag) : List VOp := if t.isBx then [o, o.scale] else [o]

/-- The checks R224 makes of a BX group. -/
def Hart.bxOk (h : Hart) (o : VOp) (t : Tag) : Bool :=
  if t.isBx then
    match o with
    | .reg n c => decide (n + c < h.nv) && (h.vreg (n + c)).tag == .bxs
    | .byp _ => false
  else true

/-- The operand checks of R261 and R224: every group whole and long enough, BX scale registers in order, no partial overlap of a destination with
a source, and with `ban` no equality either. -/
def Hart.operandsOk (h : Hart) (dst : VOp) (dt : Tag) (srcs : List (VOp × Tag)) (ban : Bool) : Bool :=
  h.groupOk dst dt && h.bxOk dst dt && srcs.all (fun s => h.groupOk s.1 s.2 && h.bxOk s.1 s.2)
    && (dst.set dt).all (fun d => (srcs.flatMap (fun s => s.1.set s.2)).all (fun s => !d.partly s && !(ban && d == s)))

/-! Exact results and their write. -/

/-- A result of an element: an exact value in the source format, or a code of it; the flags of its operation and whether it was clamped (R273). -/
inductive EVal where
  | exact (v : Val)
  | code (c : Nat)
deriving DecidableEq, Repr

structure EOut where
  v : EVal
  flags : W64
  sat : Bool
deriving DecidableEq, Repr

def EOut.ofVal (v : Val) (f : W64) : EOut := { v := .exact v, flags := f, sat := false }
def EOut.ofInt (i : Int) : EOut := { v := .exact (.ofInt i), flags := 0, sat := false }
def EOut.ofCode (c : Nat) : EOut := { v := .code c, flags := 0, sat := false }

/-- Whether writing a result rounds under FRM, and so takes a draw under SR (R230). -/
def EOut.rounds (r : EOut) (st dt : Tag) : Bool :=
  match r.v with
  | .exact _ => if st.isInt then !dt.isInt else true
  | .code _ => st != dt && !(st.isInt && dt.isInt)

/-- A result as a value for a destination of another tag: a float result is first rounded into the source format to nearest even (R274). -/
def EOut.asVal (r : EOut) (c : Csr) (st : Tag) : Val × W64 × Bool :=
  match r.v with
  | .exact v =>
    if st.isInt then (v, r.flags, r.sat)
    else
      let x := st.round (c.rnd 0).rne v
      (st.decode c.ftz x.code, r.flags ||| x.flags, r.sat || x.sat)
  | .code k => (st.decode c.ftz k, r.flags, r.sat)

/-- A result converted into the destination's tag, not BX (R210, R220, R274). -/
def EOut.convert (r : EOut) (c : Csr) (st dt : Tag) (draw : Nat) : Rounded :=
  if st = dt then
    match r.v with
    | .code k => { code := k, flags := r.flags, sat := r.sat }
    | .exact v =>
      if st.isInt then
        match v with
        | .num n m _ _ => { code := wrapCode st.bits (if n then -(m : Int) else m), flags := r.flags, sat := r.sat }
        | .nan => { code := 0, flags := r.flags, sat := r.sat }
        | .inf _ => { code := 0, flags := r.flags, sat := r.sat }
      else
        let x := st.round (c.rnd draw) v
        { code := x.code, flags := r.flags ||| x.flags, sat := r.sat || x.sat }
  else
    let (v, f, s) := r.asVal c st
    let x := dt.round (c.rnd draw) v
    { code := x.code, flags := f ||| x.flags, sat := s || x.sat }

/-- Writes a result as element i of a destination that is not BX. -/
def writeOut (o : VOp) (st dt : Tag) (i : Nat) (r : EOut) (q : Nat := qVq) : M Unit := do
  let d ← drawIf (r.rounds st dt) q
  let c := (← getH).csr
  writeRounded o dt i (r.convert c st dt d)

/-- Collects a list of results of a numbered operation. -/
def collect {α : Type} (f : Nat → M α) : Nat → Nat → M (List α)
  | 0, _ => pure []
  | n + 1, i => do
    let a ← f i
    let r ← collect f n (i + 1)
    return a :: r

/-- Runs a block whole: a trap leaves the hart as it was and names element i (R225). -/
def atBlock {α : Type} (i : Nat) (m : M α) : M α := fun s =>
  match m s with
  | .ok a s' => .ok a s'
  | .error t s' => .error (t.at i) (s'.setHart s.hart)

/-- Writes the 32 elements and the scale word of a block. -/
def putBlock (o : VOp) (t : Tag) (b word : Nat) (rs : List Rounded) (j : Nat) : M Unit :=
  match rs with
  | [] => writeCode o.scale .bxs b word
  | r :: rest => do
    writeRounded o t (32 * b + j) r
    putBlock o t b word rest (j + 1)

/-- Converts and writes block b of a BX destination (R225); `act` and `comp` say which elements are computed and give their values. -/
def bxWrite (o : VOp) (t : Tag) (b lo hi : Nat) (act : Nat → M Bool) (comp : Nat → M (Val × W64 × Bool)) (q : Nat := qVq) : M Unit :=
    atBlock (Nat.max lo (32 * b)) do
  let c := (← getH).csr
  let word ← peekCode o.scale .bxs b
  let kept := fun (zero : Bool) (i : Nat) => do
    if zero then return (BxIn.zero, (0 : W64), false) else return (BxIn.kept (bxVal t word (← peekCode o t i)), (0 : W64), false)
  let xs ← collect (fun i => do
    if i < lo then kept false i
    else if i < hi then
      if ← act i then
        let (v, f, sat) ← comp i
        return (BxIn.computed v, f, sat)
      else kept c.mz i
    else kept c.tz i) 32 (32 * b)
  let ds ← collect (fun j => drawIf (match xs.getD j (BxIn.zero, 0, false) with | (x, _, _) => x.isComputed) q) 32 0
  let (w, rs) := bxBlock t c (xs.map (fun x => x.1)) ds
  putBlock o t b w (List.zipWith (fun x r => { r with flags := r.flags ||| x.2.1, sat := r.sat || x.2.2 }) xs rs) 0

/-- The tail of a BX destination under TZ (R224, R259): the elements above VL, those of a block that was converted being zeroed with it, and the scale words of the blocks
wholly above VL. -/
def bxTail (o : VOp) (t : Tag) : M Unit := do
  let h ← getH
  let nb := (h.csr.vlN + 31) / 32
  tailFrom o t (if h.bounds.lo < h.bounds.hi then 32 * nb else h.csr.vlN)
  tailFrom o.scale .bxs nb

/-- Runs `f` on `n` blocks from k up; those above one that traps may have been performed by `ahead` (R101). -/
def overBlocks (f ahead : Nat → M Unit) (cover : Nat → List Nat) : Nat → Nat → M Unit
  | 0, _ => pure ()
  | n + 1, k => fun s =>
    match f k s with
    | .ok _ s => overBlocks f ahead cover n (k + 1) s
    | .error t s => .error t (mayPerform ahead cover cover n (k + 1) s)

/-- The elements of block k below VL. -/
def blockElems (vl k : Nat) : List Nat := (List.range 32).filterMap (fun j => if 32 * k + j < vl then some (32 * k + j) else none)

/-- Every block of a BX destination from ESTART to VL, and its tail; `free` says which blocks may have been performed where the instruction stops below them (R101). -/
def bxLoop (o : VOp) (t : Tag) (act : Nat → M Bool) (comp : Nat → M (Val × W64 × Bool)) (free : Nat → Bool) (q : Nat := qVq) (reads : Nat → List Nat := fun i => [i]) : M Unit := do
  let h ← getH
  let b := h.bounds
  let vl := h.csr.vlN
  let sources := fun k => (blockElems vl k).flatMap reads
  let ahead := fun k => if free k then bxWrite o t k b.lo vl act comp q else raise (operandTrap q)
  if b.lo < b.hi then overBlocks (fun k => bxWrite o t k b.lo b.hi act comp q) ahead (blockElems vl) ((b.hi + 31) / 32 - b.lo / 32) (b.lo / 32)
  if b.full then bxTail o t
  else modify (fun s => mayPerform ahead (blockElems vl) sources ((vl + 31) / 32 - (b.hi + 31) / 32) ((b.hi + 31) / 32) s)

/-- The scale words above VL of a BX destination that keeps or copies codes, zeroed with its tail under TZ (R224). -/
def scaleTail (o : VOp) (t : Tag) : M Unit := do
  if t.isBx then tailFrom o.scale .bxs (((← getH).csr.vlN + 31) / 32) else pure ()

/-- The tail of a destination whose codes were moved and not converted (R224, R259). -/
def codeTail (o : VOp) (t : Tag) : M Unit := do
  tailFrom o t (← getH).csr.vlN
  scaleTail o t

/-- The register a source names. -/
def Src.reg : Src → VOp ⊕ Nat
  | .vec o _ => .inl o
  | .picked o _ _ => .inl o
  | .scale o => .inl o.scale
  | .mask j => .inr j
  | .pickedMask j _ => .inr j

/-- Whether an element-wise instruction may have performed elements above the one at which it stops (R101): not where it reads its destination, the mask register that
OVFM names among them where it can saturate (R211, R262), nor under SR, where no element above takes a draw (R230). -/
def mayRunAhead (c : Csr) (dst : Src) (srcs : List Src) (sat : Bool := true) : Bool :=
  c.mode != 5 && srcs.all (fun x => x.reg != dst.reg && !(sat && (match c.ovfMask, x.reg with | some m, .inr j => m == j | _, _ => false)))

/-- The sources of an instruction under MK with m0 among them. -/
def withMask (mk : Bool) (srcs : List Src) : List Src := srcs ++ if mk then [.mask 0] else []

/-- The same for block k of a BX destination: an element that keeps its value is read from the destination (R225). -/
def mayRunBlock (c : Csr) (dst : Src) (mk : Bool) (srcs : List Src) (k : Nat) : Bool :=
  mayRunAhead c dst (withMask mk srcs) && (c.mz || !mk) && (c.tz || decide (32 * k + 32 ≤ c.vlN))

/-- The loop of an element-wise instruction (R259): what it does with an active and with an inactive element, and its tail. -/
def maskedLoop (dst : Src) (mk : Bool) (srcs : List Src) (act inact : Nat → M Unit) (tail : M Unit) (q : Nat := qVq) (sat : Bool := true)
    (reads : Nat → List Nat := fun i => [i]) : M Unit :=
  withSources mk srcs do
    let free := mayRunAhead (← getH).csr dst (withMask mk srcs) sat
    elementLoop (free := free) (reads := reads) (fun i => do if ← activeM mk i q then act i else inact i)
    whenFull tail

/-- An element-wise instruction with a vector destination (R259): `comp` reads its sources and gives the result in the source tag; `reads` gives the source elements
that an element needs (R194). -/
def elementwiseOn (dst : VOp) (dt st : Tag) (mk : Bool) (srcs : List Src) (comp : Nat → M EOut) (q : Nat := qVq) (reads : Nat → List Nat := fun i => [i]) : M Unit :=
  if dt.isBx then
    withSources mk srcs do
      let c := (← getH).csr
      bxLoop dst dt (fun i => activeM mk i q) (fun i => do return (← comp i).asVal (← getH).csr st) (mayRunBlock c (.vec dst dt) mk srcs) q reads
  else
    maskedLoop (.vec dst dt) mk srcs (fun i => do
      let r ← comp i
      writeOut dst st dt i r q) (inactiveElem dst dt) (do tailFrom dst dt (← getH).csr.vlN) q (reads := reads)

/-- An element-wise instruction whose sources are vector operands. -/
def elementwise (dst : VOp) (dt st : Tag) (mk : Bool) (srcs : List (VOp × Tag)) (comp : Nat → M EOut) (q : Nat := qVq) : M Unit :=
  elementwiseOn dst dt st mk (vecSrcs srcs) comp q

/-- An element-wise instruction that writes codes unchanged: `comp` reads its sources and gives each element's code. -/
def codewise (dst : VOp) (dt : Tag) (mk : Bool) (srcs : List (VOp × Tag)) (comp : Nat → M Nat) : M Unit :=
  maskedLoop (.vec dst dt) mk (vecSrcs srcs) (fun i => do
    let x ← comp i
    writeCode dst dt i x) (inactiveElem dst dt) (codeTail dst dt)

/-- An element-wise instruction with a mask destination (R259, R280). -/
def maskwise (j : Nat) (mk : Bool) (srcs : List Src) (comp : Nat → M Nat) : M Unit :=
  maskedLoop (.mask j) mk srcs (fun i => do
    let r ← comp i
    writeMask j i r) (inactiveMask j) (do maskTailFrom j (← getH).csr.vlN) (sat := false)

end Sys2Proof.Machine
end

