-- ==== Sys2Proof/Machine/Windows.lean ====
section
/-! DEFINITION. The residency engine (R63-R82): descriptors, boxes and slots, fills, write-backs, recorded faults, advances, prefetch, and what a
resume retries. Everything here concerns the focus hart's windows. -/
namespace Sys2Proof.Machine

/-! Geometry (R63, R67, R68). -/

/-- Whether a window's KSEL fields select counter k. -/
def Window.selects (w : Window) (k : Nat) : Bool := w.d.ksel.any (fun x => x == some k)

/-- A counter's value. -/
def ctrAt (cs : List Int) (k : Nat) : Int := cs.getD k 0

/-- Lower bounds of the declared box under counters (R67). -/
def lowerBounds (d : Wdesc) (cs : List Int) : List Int :=
  List.zipWith (fun (ab : Int × Int) (k : Option Nat) => ab.1 * (match k with | some n => ctrAt cs n | none => 0) + ab.2) (d.a.zip d.b) d.ksel

/-- The clipped set of each dimension as a half-open interval (R67). -/
def clipped (w : Window) (lo : List Int) : List (Int × Int) :=
  List.zipWith (fun (l : Int) (en : Nat × Nat) =>
    (if l < 0 then 0 else l, if (en.2 : Int) < l + en.1 then (en.2 : Int) else l + en.1)) lo (w.d.e.zip w.t.dims)

/-- The integers of a half-open interval. -/
def intsIn (a b : Int) : List Int := (List.range (b - a).toNat).map (fun (j : Nat) => a + Int.ofNat j)

/-- The coordinates of a box. -/
def coordsIn : List (Int × Int) → List (List Int)
  | [] => [[]]
  | (a, b) :: r => (intsIn a b).flatMap (fun x => (coordsIn r).map (fun c => x :: c))

/-- Whether a coordinate lies in a box, and whether a box is empty. -/
def inBox (box : List (Int × Int)) (c : List Int) : Bool := (box.zip c).all (fun x => decide (x.1.1 ≤ x.2) && decide (x.2 < x.1.2))
def emptyBox (box : List (Int × Int)) : Bool := box.any (fun x => decide (x.2 ≤ x.1))

/-- The window's set. -/
def Window.box (w : Window) : List (Int × Int) := clipped w w.lo

/-- The slot of a coordinate (R68). -/
def slotOf : List Nat → List Int → Nat → Nat
  | n :: ns, c :: cs, p => (c % (n : Int)).toNat * p + slotOf ns cs (p * n)
  | _, _, _ => 0

def Window.slot (w : Window) (c : List Int) : Nat := slotOf w.d.alloc c 1

/-- The storage line of a slot. -/
def Window.lineOf (w : Window) (slot : Nat) : Nat := slot * w.esize / 256

/-- The VA of an element (R63). -/
def Window.va (w : Window) (c : List Int) : W64 :=
  w.t.base + BitVec.ofInt 64 ((List.zipWith (fun (x : Int) (s : Int) => x * s) c w.t.strides).foldl (· + ·) 0)

/-- The keys of a slot's bytes in the hart's Chamber. -/
def Hart.slotKeys (h : Hart) (w : Window) (slot : Nat) : List Nat :=
  (List.range w.esize).map (fun j => chamberKey (chamberAddr h.core (w.d.cbase + slot * w.esize + j)))

/-- The byte hull of a set (R77): from the lowest address of its elements to one past the highest. Addresses are modulo 2^64 (R63); a set whose exact
addresses lie in one block of 2^64 has its corners for bounds. -/
def hullOf (w : Window) (box : List (Int × Int)) : Int × Int :=
  let ends := List.zipWith (fun (i : Int × Int) (s : Int) => (i.1 * s, (i.2 - 1) * s)) box w.t.strides
  let lo : Int := ends.foldl (fun acc e => acc + (if e.1 < e.2 then e.1 else e.2)) (w.t.base.toNat : Int)
  let hi : Int := ends.foldl (fun acc e => acc + (if e.1 < e.2 then e.2 else e.1)) (w.t.base.toNat : Int)
  let top : Int := 2 ^ 64
  if lo / top = hi / top then (lo % top, hi % top + w.esize)
  else
    let vas := (coordsIn box).map (fun c => (w.va c).toNat)
    ((vas.min?.getD 0 : Nat), (vas.max?.getD 0 + w.esize : Nat))

def WMode.writable : WMode → Bool
  | .r => false
  | .w => true
  | .rw => true

def WMode.code : WMode → Nat
  | .r => 0
  | .w => 1
  | .rw => 2

/-- Whether two sets overlap (R77). -/
def setsOverlap (w : Window) (bw : List (Int × Int)) (v : Window) (bv : List (Int × Int)) : Bool :=
  let a := hullOf w bw
  let b := hullOf v bv
  !emptyBox bw && !emptyBox bv && (w.d.mode.writable || v.d.mode.writable) && decide (a.1 < b.2) && decide (b.1 < a.2)

/-! Windows of a hart. -/

/-- Window n, if it is bound. -/
def Hart.win (h : Hart) (n : Nat) : Option Window := (h.wins.getD n none)

/-- The machine with window n of the focus hart replaced. -/
def State.setWin (s : State) (n : Nat) (w : Option Window) : State := s.setHart { s.hart with wins := s.hart.wins.set n w }

/-- The machine with window n of the focus hart unbound: its storage lines are ordinary Chamber locations again (R95). -/
def State.freeWin (s : State) (n : Nat) : State :=
  match s.hart.win n with
  | none => s
  | some w =>
    let lo := chamberKey (chamberAddr s.hart.core w.range.1)
    { (s.setWin n none) with vague := s.vague.filter (fun r => !(decide (lo ≤ r.1) && decide (r.1 < lo + w.range.2))) }

/-- The numbers of the bound windows. -/
def Hart.bound (h : Hart) : List Nat := (List.range 16).filter (fun n => (h.win n).isSome)

/-- Byte ranges (start, length) of the hart's vector and mask registers in its Chamber. -/
def Hart.vecRanges (h : Hart) : List (Nat × Nat) := (h.vregs.take h.nv).map (fun r => (r.base, h.vw))
def Hart.maskRanges (h : Hart) : List (Nat × Nat) := (h.mregs.take h.nm).map (fun r => (r.base, 2 * h.em))

/-- Byte ranges of the bound windows' storage, but for window n. -/
def Hart.winRanges (h : Hart) (but : Nat) : List (Nat × Nat) :=
  (h.bound.filter (fun n => n != but)).filterMap (fun n => (h.win n).map (Window.range))

/-- Whether two byte ranges meet, and whether a range meets one of a list. -/
def rangesMeet (a b : Nat × Nat) : Bool := decide (a.1 < b.1 + b.2) && decide (b.1 < a.1 + a.2)
def meetsAny (a : Nat × Nat) (l : List (Nat × Nat)) : Bool := l.any (rangesMeet a)

/-- Whether a range lies within [CHBASE, CHLIM). -/
def Hart.inChamber (h : Hart) (a : Nat × Nat) : Bool := decide (h.csr.chbase.toNat ≤ a.1) && decide (a.1 + a.2 ≤ h.csr.chlim.toNat)

/-- A RESIDENCY trap (R79). -/
def residencyTrap (sub named other : Nat) : Trap := trap causeResidency (BitVec.ofNat 64 (sub + 256 * named + 4096 * other)) qVq

/-- The trap of a recorded fault (R80). -/
def RecFault.trap (f : RecFault) : Trap := Machine.trap f.fault.cause f.fault.tval qVq

/-! Fills and write-backs (R71, R72, R78, R80). -/

/-- The path WN as translation sees it: the die TLB (R78), no device-class page, no peer module (R80). A fill or a write-back is checked in the mode the hart is
in when it is performed: the spec names no other moment. (DESIGN CHOICE, log 78.) -/
def Hart.wnAcc (h : Hart) (kind : AKind) : Acc :=
  { kind := kind, dev := false, peer := false, part := h.part, asid := h.asid, user := !h.sup, die := h.die, core := none }

/-- Whether a failed write-back holds a slot (R80). -/
def Window.held (w : Window) (slot : Nat) : Bool := w.faults.any (fun f => !f.isFill && f.slot == slot)

/-- Poisons the units of keys. -/
def State.poisonKeys (s : State) (ks : List Nat) : State := ks.foldl State.setPoison s

/-- Poisons the units of keys where data arrives with a mark (R48, R51). -/
def State.carryPoison (s : State) (hurt : Bool) (ks : List Nat) : State := if hurt then s.poisonKeys ks else s

/-- A check mismatch met as data arrives in a core's Chamber (R59, R60): the Chamber words are poisoned, and the record names the line's PA.
(DESIGN CHOICE, log 74.) -/
def State.meetArrival (core : Nat) (dst : List Nat) (s : State) (line : Nat) : State := (s.poisonKeys dst).logError (core / 16) 3 0 (core % 16) line 0

/-- Bytes that a window's own engine puts into its slots: the window holds them whatever accessed the line before (R95). -/
def State.putSlot (s : State) (ks : List Nat) (bs : List Byte) : State := { (s.putKeys true ks bs) with vague := ks.foldl (fun v k => undefCut k v) s.vague }

/-- The accesses of the focus hart on path WN, `n` bytes at an address, which stand where `mark` fences had completed (R94, R105). -/
def State.wnManner (s : State) (mark : Nat) (va : W64) (n : Nat) : Manner := { ((s.manner pathWN).sized va n false) with stamp := mark }

/-- Writes the element's data into its slot: FILL in mode W, the element's bytes in memory otherwise (R71), with their poison, and their check verified as
they arrive (R59). -/
def State.fillSlot (s : State) (w : Window) (mark : Nat) (c : List Int) : Except MFault State :=
  let h := s.hart
  let dst := h.slotKeys w (w.slot c)
  match w.d.mode with
  | .w => .ok (s.putSlot dst (leBytes w.esize w.d.fill.toNat))
  | .r | .rw =>
    let a := h.wnAcc .read
    match s.resolveSpan a (w.va c) w.esize with
    | .error f => .error f
    | .ok (ks, s) =>
      let s := s.expose ks
      let bad := s.badChecks (s.checkedKeys a (w.va c) ks)
      let hurt := ks.any s.poisoned
      let (v, s) := s.look (s.wnManner mark (w.va c) w.esize) ks
      let s := ((s.afterRead ks).putSlot dst (v.pathBytes pathWN ks)).carryPoison hurt dst
      .ok (bad.foldl (State.meetArrival h.core dst) s)

/-- What an element's access on path WN that faults in translation leaves: the errors its walk met (R51, R62). -/
def State.wnMissed (s : State) (kind : AKind) (w : Window) (c : List Int) : State := s.meetWalks (s.hart.wnAcc kind) (w.va c) w.esize

/-- Performs one outstanding fill of a window: it is held, done, or recorded as failed (R80). -/
def fillOne (sw : State × Window) (p : PendFill) : State × Window :=
  let (s, w) := sw
  let slot := w.slot p.coord
  if w.held slot then (s, { w with pend := w.pend ++ [p] })
  else
    match s.fillSlot w p.mark p.coord with
    | .ok s => (s, w)
    | .error f => (s.wnMissed .read w p.coord, { w with faults := w.faults ++ [{ slot := slot, isFill := true, adv := p.adv, coord := p.coord, mark := p.mark, fault := f, raised := false }] })

/-- Performs the outstanding fills of a window that a test picks, in order. -/
def performFills (s : State) (w : Window) (pick : PendFill → Bool) : State × Window :=
  (w.pend.filter pick).foldl fillOne (s, { w with pend := w.pend.filter (fun p => !pick p) })

/-- Writes one element back (R72): exactly its bytes, with their poison. On a fault the element stays in its slot and the fault is recorded; a retry stands in program
order where the write-back was first forced (R105). -/
def writeBack (sw : State × Window) (c : List Int) : State × Window :=
  let (s, w) := sw
  let slot := w.slot c
  let mark := match w.faults.find? (fun f => !f.isFill && f.slot == slot) with | some f => f.mark | none => s.fences
  let w := { w with faults := w.faults.filter (fun f => f.isFill || f.slot != slot) }
  let a := s.hart.wnAcc .write
  match s.resolveSpan a (w.va c) w.esize with
  | .ok (ks, s) =>
    let src := s.hart.slotKeys w slot
    let s := s.expose src
    let hurt := src.any s.poisoned
    let s := (s.beforeWrite a (w.va c) ks).storeOn (some (s.wnManner mark (w.va c) w.esize)) pathWN true ks (src.map s.slotByte)
    (s.carryPoison hurt ks, { w with dirty := w.dirty.filter (fun x => x != c) })
  | .error f => (s.wnMissed .write w c, { w with faults := w.faults ++ [{ slot := slot, isFill := false, adv := w.adv, coord := c, mark := mark, fault := f, raised := false }] })

/-- The elements whose write-back is owed (R80): those that a failed write-back keeps in their slots, and that are not dirty elements of the set. -/
def Window.owed (w : Window) : List (List Int) := (w.faults.filter (fun f => !f.isFill && !w.dirty.contains f.coord)).map RecFault.coord

/-- Writes every dirty element back, those among them that left the set and are still in their slots. -/
def flushWindow (s : State) (w : Window) : State × Window := (w.owed ++ w.dirty).foldl writeBack (s, w)

/-- The advances whose fill is incomplete (R76, R89). -/
def Window.openAdvances (w : Window) : List Nat :=
  ((w.pend.map PendFill.adv) ++ ((w.faults.filter RecFault.isFill).map RecFault.adv)).eraseDups

/-- How many advances ago an advance was accepted. -/
def Window.age (w : Window) (n : Nat) : Nat := (w.adv + 2 ^ 32 - n) % 2 ^ 32

/-- How many advances the window is behind: those from the oldest whose fill is incomplete on (R74, R76). -/
def Window.behind (w : Window) : Nat := ((w.openAdvances.map (fun n => w.age n + 1)).max?).getD 0

/-- The advance up to which every element of a line has been written (R74). -/
def Window.lineAdv (w : Window) (line : Nat) : Int :=
  let late := (w.pend.filter (fun p => w.lineOf (w.slot p.coord) == line)).map PendFill.adv
    ++ (w.faults.filter (fun f => f.isFill && w.lineOf f.slot == line)).map RecFault.adv
  (w.adv : Int) - ((late.map (fun n => w.age n + 1)).max?).getD 0

/-- The arrival tag of a line (R74). -/
def Window.lineTag (w : Window) (line : Nat) : Byte := BitVec.ofInt 8 (w.lineAdv line)

/-- A line has arrived when its tag equals ADV mod 256. -/
def Window.arrived (w : Window) (line : Nat) : Bool := w.lineTag line == BitVec.ofNat 8 w.adv

/-- The recorded fault of lowest slot among those a test picks. -/
def Window.recorded (w : Window) (pick : RecFault → Bool) : Option RecFault :=
  (w.faults.filter (fun f => !f.raised && pick f)).foldl (fun m f => match m with | none => some f | some g => if f.slot < g.slot then some f else m) none

/-- Marks a recorded fault raised: its record is cleared, and its retry is owed (R80). -/
def Window.clearRecord (w : Window) (f : RecFault) : Window :=
  { w with faults := w.faults.map (fun g => if g = f then { g with raised := true } else g) }

/-- Raises the recorded fault of a window, if there is one (R80). Of several the one of lowest slot is raised: for a control instruction the spec names no
order. (DESIGN CHOICE, log 78.) -/
def raiseRecorded (n : Nat) : M Unit := do
  match (← getH).win n with
  | none => pure ()
  | some w =>
    match w.recorded (fun _ => true) with
    | none => pure ()
    | some f => do
      modify (fun s => s.setWin n (some (w.clearRecord f)))
      raise f.trap

/-! Advances (R70, R71). -/

/-- An advance of window n to new lower bounds: what has not been filled and leaves is filled first, dirty elements that leave are written back, and
what enters is to be filled unless it was prefetched. (DEDUCED, log 43.) -/
def State.advanceWindow (s : State) (n : Nat) (lo : List Int) (adv : Nat) (lead : Option Nat) : State :=
  match s.hart.win n with
  | none => s
  | some w0 =>
    let new := clipped w0 lo
    let old := w0.box
    let w0 := { w0 with faults := w0.faults.filter (fun f => !(f.isFill && f.raised && !inBox new f.coord)) }
    let (s, w) := performFills s w0 (fun p => !inBox new p.coord)
    let (s, w) := (w.dirty.filter (fun c => !inBox new c)).foldl writeBack (s, w)
    let enter := (coordsIn new).filter (fun c => !inBox old c && !w.pre.contains c)
    s.setWin n (some { w with
      lo := lo
      adv := adv % 2 ^ 32
      lead := lead
      pre := []
      dirty := w.dirty.filter (inBox new)
      pend := w.pend.filter (fun p => inBox new p.coord) ++ enter.map (fun c => { adv := adv % 2 ^ 32, coord := c, mark := s.fences }) })

/-- The fill of a window just bound: its whole set as advance 0 (R86). -/
def Window.firstFill (w : Window) (mark : Nat) : Window :=
  { w with pend := (coordsIn w.box).map (fun c => { adv := 0, coord := c, mark := mark }) }

/-- The lead counter (R73). -/
def Window.leadCounter (w : Window) : Option Nat :=
  match w.lead with
  | some k => some k
  | none => w.d.ksel.findSome? id

/-- The predicted delta of a window's lead counter where prefetch is allowed (R73). -/
def Hart.prefetchDelta (h : Hart) (w : Window) : Option (Nat × Int) :=
  match w.leadCounter with
  | none => none
  | some k =>
    let p := ctrAt h.pred k
    if w.d.pd ≠ 0 ∧ w.d.mode ≠ .w ∧ (p = 1 ∨ p = -1) then some (k, p) else none

/-- Fetches ahead one element: only into a slot that holds no element of the set; a fetch that faults brings nothing. -/
def prefetchOne (sw : State × Window) (c : List Int) : State × Window :=
  let (s, w) := sw
  match s.fillSlot w s.fences c with
  | .ok s => (s, { w with pre := c :: w.pre })
  | .error _ => (s.wnMissed .read w c, w)

/-- Prefetches the set the window would have after `ahead` further advances (R73). -/
def State.prefetch (s : State) (n ahead : Nat) : State :=
  match s.hart.win n with
  | none => s
  | some w =>
    match s.hart.prefetchDelta w with
    | none => s
    | some (k, p) =>
      if ahead = 0 ∨ w.d.pd < ahead then s
      else
        let cs := s.hart.ctrs.set k (ctrAt s.hart.ctrs k + ahead * p)
        let used := (coordsIn w.box).map w.slot ++ w.pend.map (fun q => w.slot q.coord) ++ w.faults.map RecFault.slot ++ w.pre.map w.slot
        let want := (coordsIn (clipped w (lowerBounds w.d cs))).filter (fun c => !used.contains (w.slot c))
        let (s, w) := want.foldl prefetchOne (s, w)
        s.setWin n (some w)

/-- A line arrives: its outstanding fills are performed (R74). -/
def State.arrive (s : State) (n line : Nat) : State :=
  match s.hart.win n with
  | none => s
  | some w =>
    let (s, w) := performFills s w (fun p => w.lineOf (w.slot p.coord) == line)
    s.setWin n (some w)

/-- The lowest line of a window that waits for a fill that nothing holds. -/
def Window.nextLine (w : Window) : Option Nat :=
  ((w.pend.filter (fun p => !w.held (w.slot p.coord))).map (fun p => w.lineOf (w.slot p.coord))).min?

/-- An early write-back of the element in a slot (R72). -/
def State.earlyWb (s : State) (n slot : Nat) : State :=
  match s.hart.win n with
  | none => s
  | some w =>
    match w.dirty.find? (fun c => w.slot c == slot) with
    | none => s
    | some c =>
      if w.held slot then s
      else
        let (s, w) := writeBack (s, w) c
        s.setWin n (some w)

/-- Retries every recorded write-back and fill of a window once, then performs its outstanding fills (R81). -/
def State.settleWindow (s : State) (n : Nat) : State :=
  match s.hart.win n with
  | none => s
  | some w =>
    let wbs := w.faults.filter (fun f => !f.isFill)
    let fills := (w.faults.filter (fun f => f.isFill && inBox w.box f.coord)).map (fun f => ({ adv := f.adv, coord := f.coord, mark := f.mark } : PendFill))
    let (s, w) := wbs.foldl (fun sw f => writeBack sw f.coord) (s, { w with faults := wbs, pend := w.pend ++ fills })
    let (s, w) := performFills s w (fun _ => true)
    s.setWin n (some w)

/-- What the residency engine does before the focus hart resumes (R81). -/
def State.settle (s : State) : State := s.hart.bound.foldl State.settleWindow s

/-- Writes back every dirty element of every window of the focus hart before its Chamber is evicted (R82). -/
def State.flushAll (s : State) : State :=
  s.hart.bound.foldl (fun s n => match s.hart.win n with
    | none => s
    | some w => let (s, w) := flushWindow s w; s.setWin n (some w)) s

/-- After an eviction the set of each window in mode R or RW is to be filled again in full; ADV does not change (R82). Elements whose write-back failed keep their
slots and their records, and a window in mode W keeps the fills that a record holds back. (DEDUCED, log 46.) -/
def State.refillAll (s : State) : State :=
  s.hart.bound.foldl (fun s n => match s.hart.win n with
    | none => s
    | some w =>
      match w.d.mode with
      | .w => s
      | .r | .rw =>
        let enter := (coordsIn w.box).filter (fun c => !w.dirty.contains c)
        s.setWin n (some { w with pend := enter.map (fun c => { adv := w.adv, coord := c, mark := s.fences }), pre := [], faults := w.faults.filter (fun f => !f.isFill) })) s

/-- Completes the fills of advances already accepted, as pre-emption does first (R82). -/
def State.completeFills (s : State) : State :=
  s.hart.bound.foldl (fun s n => match s.hart.win n with
    | none => s
    | some w => let (s, w) := performFills s w (fun _ => true); s.setWin n (some w)) s

/-! Accesses of the focus hart that have not been performed (R94, R105). -/

/-- Whether a fill of the hart is outstanding. One that a failed write-back holds back is made only when the hart resumes (R80, R81), and nothing waits for it. -/
def Hart.owesFills (h : Hart) : Bool :=
  h.bound.any (fun n => match h.win n with | some w => w.pend.any (fun p => !w.held (w.slot p.coord)) | none => false)

/-- Whether accesses of the focus hart on paths of a list have not been performed: those of its accepted commands, and its fills. -/
def State.owes (s : State) (paths : List Nat) : Bool := s.owesCommands s.hart.gang (some s.hart.id) paths || (paths.contains pathWN && s.hart.owesFills)

/-- The paths on which the focus hart has accesses that have not been performed. -/
def State.outstanding (s : State) : List Nat := allPaths.filter (fun p => s.owes [p])

/-- What follows a `fence.x` from some paths to others (R109): the hart waits until its earlier accesses on the former have been performed, but where a set is empty. -/
def afterFenceX (before after : List Nat) (body : M Ctl) : M Ctl := do
  if !after.isEmpty && (← getS).owes before then return .wait .order
  else
    modify (fun s => s.orderPaths s.hart.id s.outstanding before after)
    body

end Sys2Proof.Machine
end

