-- ==== Sys2Proof/Machine/Residency.lean ====
section
/-! DEFINITION. Residency instructions, MAJ 0x25 and 0x26 (R83-R92), and the residency engine's own steps (R72-R76). -/
namespace Sys2Proof.Machine

/-! Reading descriptors (R63-R66, R408). -/

/-- A signed field of n bits. -/
def signedField (v n : Nat) : Int := if 2 ^ (n - 1) ≤ v then (v : Int) - 2 ^ n else v

/-- Reads a 64-byte descriptor: ALIGN first, then translation, then poison (R66, R144). -/
def readDescriptor (a : Acc) (path : Nat) (va : W64) (n q : Nat) : M (List Byte) := do
  check (va.toNat % n == 0) (trap causeAlign va q)
  let ks ← resolveClean a va n q
  readOn path ks

/-- A TDESC from its bytes (R63, R64); none where a check fails. -/
def parseTdesc (bs : List Byte) : Option Tdesc :=
  let rank := fieldAt bs 9 1
  match tagOf (fieldAt bs 8 1) with
  | none => none
  | some t =>
    let ds := List.range 4
    let n := fun (d : Nat) => if d < rank then fieldAt bs (0x10 + 4 * d) 4 else 1
    let st := fun (d : Nat) => if d < rank then signedField (fieldAt bs (0x20 + 8 * d) 8) 64 else 0
    if t ≠ .bx4 ∧ 1 ≤ rank ∧ rank ≤ 4 ∧ fieldAt bs 0x0A 6 = 0 ∧ ds.all (fun d => decide (0 < n d) && decide (n d < 0x80000000))
        ∧ fieldAt bs 0 8 % t.bytes = 0 ∧ ds.all (fun d => st d % (t.bytes : Int) == 0) then
      some { base := BitVec.ofNat 64 (fieldAt bs 0 8), tag := t, rank := rank, dims := ds.map n, strides := ds.map st }
    else none

/-- Window modes by code (R65, R69). -/
def wmodeOf (n : Nat) : Option WMode :=
  match n with
  | 0 => some .r
  | 1 => some .w
  | 2 => some .rw
  | _ => none

/-- A WDESC from its bytes under a TDESC (R65, R66); none where a check fails. -/
def parseWdesc (bs : List Byte) (t : Tdesc) : Option Wdesc :=
  let ctl := fieldAt bs 0x0C 4
  let ds := List.range 4
  let alog := fun (d : Nat) => fieldAt bs (0x10 + d) 1
  let ksel := fun (d : Nat) => fieldAt bs (0x14 + d) 1
  let b := fun (d : Nat) => signedField (fieldAt bs (0x20 + 8 * d) 4) 32
  let a := fun (d : Nat) => signedField (fieldAt bs (0x24 + 8 * d) 2) 16
  let e := fun (d : Nat) => fieldAt bs (0x26 + 8 * d) 2 + 1
  let fill := fieldAt bs 0x18 8
  match wmodeOf (bits ctl 2 2) with
  | none => none
  | some m =>
    if ctl / 32 = 0 ∧ ds.all (fun d => decide (ksel d < 16) && decide (alog d ≤ 18)) ∧ fill / 2 ^ (8 * t.tag.bytes) = 0
        ∧ ds.all (fun d => if d < t.rank then decide (e d + bits ctl 0 2 * (a d).natAbs ≤ 2 ^ alog d)
            else ksel d == 0 && a d == 0 && b d == 0 && e d == 1 && alog d == 0) then
      some { cbase := fieldAt bs 8 4, pd := bits ctl 0 2, mode := m, strict := bit ctl 4, alog := ds.map alog
             ksel := ds.map (fun d => if ksel d < 8 then none else some (ksel d - 8)), fill := BitVec.ofNat 64 fill
             a := ds.map a, b := ds.map b, e := ds.map e }
    else none

/-- The pairs of windows that overlap, among a list of windows with new sets and every other bound window (R77). Of several pairs the trap names the lowest window whose
set changes, and with it the lowest other window: the spec gives no order. (DESIGN CHOICE, log 78.) -/
def firstOverlap (h : Hart) (changed : List (Nat × Window × List (Int × Int))) : Option (Nat × Nat) :=
  let setOf := fun (j : Nat) => match changed.find? (fun c => c.1 == j) with
    | some c => some (c.2.1, c.2.2)
    | none => (h.win j).map (fun v => (v, v.box))
  (changed.flatMap (fun c => (List.range 16).filterMap (fun j =>
    if j = c.1 then none
    else match setOf j with
      | some (v, bv) => if setsOverlap c.2.1 c.2.2 v bv then some (c.1, j) else none
      | none => none))).head?

/-! What issue needs to know of a control instruction: pipe class None, no vector register (R85). -/

/-- ILLEGAL 7 for a window field above 15 or a counter field above 7 (R83). -/
def ctlIll (ok : Bool) : Option Nat := fieldIll true ok

def ctlInfo (low : W32) (len : Nat) (ok : Bool) (gs : List GReg) (gw : Option GReg) : VInfo :=
  { cls := none, cv := false, low := low, len := len, ill := ctlIll ok, dest := none, reads := [], writes := [], gReads := gs, gWrite := gw, bx := false, queue := qVq }

/-! winset (R86). -/

/-- Writes back every dirty element, raising at once the fault of one that meets one (R87). -/
def flushRaising (n : Nat) : List (List Int) → M Unit
  | [] => pure ()
  | c :: r => do
    let s ← getS
    match s.hart.win n with
    | none => pure ()
    | some w => do
      let (s, w) := writeBack (s, w) c
      match w.faults.find? (fun f => !f.isFill && f.slot == w.slot c) with
      | some f => do
        set (s.setWin n (some (w.clearRecord f)))
        raise f.trap
      | none => do
        set (s.setWin n (some w))
        flushRaising n r

/-- The write-backs of winclr and winflush (R87, R90): every dirty element, those among them whose write-back an earlier advance forced and that failed. Those owed come
first, in the order in which they failed, then the others in the order of the vstw that wrote them: the spec gives no order, and which of several faults is raised and
which elements stay unattempted follow from it. (DESIGN CHOICE, log 78.) -/
def clearWindow (n : Nat) : M Unit := do
  match (← getH).win n with
  | none => pure ()
  | some w => flushRaising n (w.owed ++ w.dirty)

/-- winset wD, gG (R86). (DEDUCED, log 44.) -/
def winsetBody (d : Fld6) (g : GReg) : M Ctl := do
  let n := d.toNat
  raiseRecorded n
  let h ← getH
  let wb ← readDescriptor (h.wnAcc .read) pathWN (h.gr g) 64 qVq
  let tb ← readDescriptor (h.wnAcc .read) pathWN (BitVec.ofNat 64 (fieldAt wb 0 8)) 64 qVq
  match parseTdesc tb with
  | none => raise (residencyTrap 4 n 0)
  | some t =>
    match parseWdesc wb t with
    | none => raise (residencyTrap 5 n 0)
    | some wd => do
      let w : Window := { t := t, d := wd, lo := lowerBounds wd h.ctrs, adv := 0, lead := none, dirty := [], pend := [], pre := [], faults := [] }
      let r := (wd.cbase, w.bytes)
      check (wd.cbase % 256 == 0 && h.inChamber r && !meetsAny r h.vecRanges && !meetsAny r h.maskRanges && !meetsAny r (h.winRanges n)) (residencyTrap 3 n 0)
      match firstOverlap h [(n, w, w.box)] with
      | some (i, j) => raise (residencyTrap 2 i j)
      | none => do
        clearWindow n
        modify (fun s => (s.freeWin n).setWin n (some (w.firstFill s.fences)))
        return .seq

/-- winset: what issue needs to know. -/
def winsetInfo (g : GReg) (d : Fld6) (_h : Hart) : VInfo := ctlInfo (lowVX false 0x25 0 false false d 0 g) 4 (decide (d.toNat < 16)) [g] none
/-- winset wD, gG (R86). -/
def execWinset (g : GReg) (d : Fld6) (s : State) : Host.Outcome State Fault Refusal := runVector (winsetInfo g d s.hart) false (winsetBody d g) s

/-- winclr (R87). -/
def winclrBody (d : Fld6) : M Ctl := do
  let n := d.toNat
  raiseRecorded n
  clearWindow n
  modify (fun s => s.freeWin n)
  return .seq

/-- winclr: what issue needs to know. -/
def winclrInfo (d : Fld6) (_h : Hart) : VInfo := ctlInfo (lowVX false 0x25 1 false false d 0 0) 4 (decide (d.toNat < 16)) [] none
/-- winclr wD (R87). -/
def execWinclr (d : Fld6) (s : State) : Host.Outcome State Fault Refusal := runVector (winclrInfo d s.hart) false (winclrBody d) s

/-- winclr.d (R87): the write-backs that earlier advances forced have been performed or have faulted already; one that is owed is never discarded, and is made
once more. -/
def winclrDBody (d : Fld6) : M Ctl := do
  raiseRecorded d.toNat
  match (← getH).win d.toNat with
  | none => pure ()
  | some w => flushRaising d.toNat w.owed
  modify (fun s => s.freeWin d.toNat)
  return .seq

/-- winclr.d: what issue needs to know. -/
def winclrDInfo (d : Fld6) (_h : Hart) : VInfo := ctlInfo (lowVX false 0x25 2 false false d 0 0) 4 (decide (d.toNat < 16)) [] none
/-- winclr.d wD (R87). -/
def execWinclrD (d : Fld6) (s : State) : Host.Outcome State Fault Refusal := runVector (winclrDInfo d s.hart) false (winclrDBody d) s

/-- A bound window, or UNBOUND (R79). -/
def needBound (n : Nat) : M Window := do
  match (← getH).win n with
  | some w => return w
  | none => raise (residencyTrap 7 n 0)

/-- winwait (R90): a fault recorded for the window is raised (R80); then every line must have arrived. -/
def winwaitBody (d : Fld6) : M Ctl := do
  let _ ← needBound d.toNat
  raiseRecorded d.toNat
  let w ← needBound d.toNat
  return if w.openAdvances.isEmpty then .seq else .wait .line

/-- winwait: what issue needs to know. -/
def winwaitInfo (d : Fld6) (_h : Hart) : VInfo := ctlInfo (lowVX false 0x25 3 false false d 0 0) 4 (decide (d.toNat < 16)) [] none
/-- winwait wD (R90). -/
def execWinwait (d : Fld6) (s : State) : Host.Outcome State Fault Refusal := runVector (winwaitInfo d s.hart) false (winwaitBody d) s

/-- winflush (R90). -/
def winflushBody (d : Fld6) : M Ctl := do
  let _ ← needBound d.toNat
  raiseRecorded d.toNat
  clearWindow d.toNat
  return .seq

/-- winflush: what issue needs to know. -/
def winflushInfo (d : Fld6) (_h : Hart) : VInfo := ctlInfo (lowVX false 0x25 4 false false d 0 0) 4 (decide (d.toNat < 16)) [] none
/-- winflush wD (R90). -/
def execWinflush (d : Fld6) (s : State) : Host.Outcome State Fault Refusal := runVector (winflushInfo d s.hart) false (winflushBody d) s

/-! Counters (R88). -/

/-- Raises the faults recorded for a list of windows, in order. Where several windows that a counter moves hold one, lcBody asks the lowest-numbered first: R88 gives no
order. (DESIGN CHOICE, log 78.) -/
def raiseAll : List Nat → M Unit
  | [] => pure ()
  | n :: r => do
    raiseRecorded n
    raiseAll r

/-- lcset and lcadv with their operand x = g[G] + SignExtend(A) + IMM32 (R88). -/
def lcBody (isSet : Bool) (low : W32) (len : Nat) (d : Fld6) (x : Int) : M Ctl := do
  let h ← getH
  let k := d.toNat
  let old := ctrAt h.ctrs k
  let new := if isSet then x else old + x
  check (decide (-2147483648 ≤ new) && decide (new ≤ 2147483647)) (residencyTrap 8 k 0)
  let ws := h.bound.filter (fun n => match h.win n with | some w => w.selects k | none => false)
  raiseAll ws
  let cs := h.ctrs.set k new
  let next := ws.filterMap (fun n => (h.win n).map (fun w => (n, w, clipped w (lowerBounds w.d cs))))
  match firstOverlap h (next.filter (fun c => c.2.2 != c.2.1.box)) with
  | some (i, j) => raise (residencyTrap 2 i j)
  | none =>
    if next.any (fun c => decide (4 ≤ c.2.1.behind)) then return .wait (.advance isSet low len d x)
    else do
      modify (fun s => s.setHart { s.hart with ctrs := cs, pred := s.hart.pred.set k (if isSet then 1 else x) })
      modify (fun s => next.foldl (fun s c => s.advanceWindow c.1 (lowerBounds c.2.1.d cs) (c.2.1.adv + 1) (some k)) s)
      return .seq

/-- A counter instruction as a whole. (DEDUCED, log 43.) -/
def runLc (isSet : Bool) (low : W32) (len : Nat) (gs : List GReg) (d : Fld6) (x : Int) (s : State) : Host.Outcome State Fault Refusal :=
  runVector (ctlInfo low len (decide (d.toNat < 8)) gs none) false (lcBody isSet low len d x) s

/-- The operand of R88. -/
def lcOperand (h : Hart) (g : GReg) (imm : BitVec 6) (imm32 : W32) : Int := (h.gr g).toInt + imm.toInt + imm32.toInt

/-- lcset: what issue needs to know. -/
def lcsetInfo (g : GReg) (imm : BitVec 6) (d : Fld6) (_h : Hart) : VInfo := ctlInfo (lowVX false 0x25 5 false false d imm g) 4 (decide (d.toNat < 8)) [g] none
/-- lcset kD, gG, imm (R88). -/
def execLcset (g : GReg) (imm : BitVec 6) (d : Fld6) (s : State) : Host.Outcome State Fault Refusal :=
  runLc true (lowVX false 0x25 5 false false d imm g) 4 [g] d (lcOperand s.hart g imm 0) s

/-- lcset: what issue needs to know of the 64-bit form. -/
def lcsetLongInfo (g : GReg) (imm : BitVec 6) (d : Fld6) (_imm32 : W32) (_h : Hart) : VInfo := ctlInfo (lowVX true 0x25 5 false false d imm g) 8 (decide (d.toNat < 8)) [g] none
/-- lcset kD, gG, imm with IMM32 added (R88). -/
def execLcsetLong (g : GReg) (imm : BitVec 6) (d : Fld6) (imm32 : W32) (s : State) : Host.Outcome State Fault Refusal :=
  runLc true (lowVX true 0x25 5 false false d imm g) 8 [g] d (lcOperand s.hart g imm imm32) s

/-- lcadv: what issue needs to know. -/
def lcadvInfo (g : GReg) (imm : BitVec 6) (d : Fld6) (_h : Hart) : VInfo := ctlInfo (lowVX false 0x25 6 false false d imm g) 4 (decide (d.toNat < 8)) [g] none
/-- lcadv kD, gG, imm (R88). -/
def execLcadv (g : GReg) (imm : BitVec 6) (d : Fld6) (s : State) : Host.Outcome State Fault Refusal :=
  runLc false (lowVX false 0x25 6 false false d imm g) 4 [g] d (lcOperand s.hart g imm 0) s

/-- lcadv: what issue needs to know of the 64-bit form. -/
def lcadvLongInfo (g : GReg) (imm : BitVec 6) (d : Fld6) (_imm32 : W32) (_h : Hart) : VInfo := ctlInfo (lowVX true 0x25 6 false false d imm g) 8 (decide (d.toNat < 8)) [g] none
/-- lcadv kD, gG, imm with IMM32 added (R88). -/
def execLcadvLong (g : GReg) (imm : BitVec 6) (d : Fld6) (imm32 : W32) (s : State) : Host.Outcome State Fault Refusal :=
  runLc false (lowVX true 0x25 6 false false d imm g) 8 [g] d (lcOperand s.hart g imm imm32) s

/-- ADVANCE (R76): a waiting advance is tried again, and is performed once its windows hold fewer than four incomplete ones. (DEDUCED, log 43.) -/
def execAdvance (s : State) : Host.Outcome State Fault Refusal :=
  match s.hart.wait with
  | .advance isSet low len d x => runLc isSet low len [] d x s
  | .none => .next s
  | .wfm _ _ _ => .next s
  | .gbar => .next s
  | .mxon _ => .next s
  | .line => .next s
  | .order => .next s

/-- lcrd: what issue needs to know. -/
def lcrdInfo (a : Fld6) (d : GReg) (_h : Hart) : VInfo := ctlInfo (lowVX false 0x25 7 false false (d.setWidth 6) a 0) 4 (decide (a.toNat < 8)) [] (some d)
/-- lcrd gD, kA (R89). -/
def execLcrd (a : Fld6) (d : GReg) (s : State) : Host.Outcome State Fault Refusal :=
  runVector (lcrdInfo a d s.hart) false (do
    writeG d (BitVec.ofInt 64 (ctrAt (← getH).ctrs a.toNat))
    return .seq) s

/-- The status word of a window (R89). Whether a prefetch is active is the engine's own choice where R73 allows one: the next free choice. -/
def winStatus (h : Hart) (w : Window) (c : Nat) : W64 :=
  BitVec.ofNat 64 (w.adv * 2 ^ 32 + Nat.min w.openAdvances.length 4 * 2 ^ 24 + (w.faults.any (fun f => !f.isFill)).toNat * 2 ^ 23
    + (w.faults.any (fun f => !f.raised)).toNat * 2 ^ 22 + (if (h.prefetchDelta w).isSome then c % 2 else 0) * 2 ^ 21
    + w.d.mode.code * 2 ^ 19 + w.d.pd * 2 ^ 17 + w.d.strict.toNat * 2 ^ 16 + 1)

/-- winq: what issue needs to know. -/
def winqInfo (a : Fld6) (d : GReg) (_h : Hart) : VInfo := ctlInfo (lowVX false 0x25 8 false false (d.setWidth 6) a 0) 4 (decide (a.toNat < 16)) [] (some d)
/-- winq gD, wA (R89). -/
def execWinq (a : Fld6) (d : GReg) (s : State) : Host.Outcome State Fault Refusal :=
  runVector (winqInfo a d s.hart) false (do
    match (← getH).win a.toNat with
    | none => writeG d 0
    | some w =>
      if ((← getH).prefetchDelta w).isSome then
        let (c, s) := (← getS).choose
        set s
        writeG d (winStatus s.hart w c)
      else writeG d (winStatus (← getH) w 0)
    return .seq) s

/-! vldw and vstw (R91, R92). -/

/-- The mark of an element that must wait for its line: no trap, the instruction stays where it is (R75). -/
def stallMark : Trap := trap 0 0 qVq

/-- Runs an instruction that may stall: a stall leaves the machine as it was before it. -/
def mayStall (m : M Ctl) : M Ctl := fun s =>
  match m s with
  | .ok c s' => .ok c s'
  | .error t s' => if t.cause = 0 then .ok (.wait .line) s else .error t s'

/-- Where element i of a vldw or vstw lies: none outside the tensor, BOUNDS outside the box (R91). -/
def windowCoord (n : Nat) (w : Window) (off : List Nat) : M (Option (List Int)) := do
  check ((off.zip w.d.e).all (fun x => decide (x.1 < x.2))) (residencyTrap 1 n 0)
  let c := List.zipWith (fun (l : Int) (o : Nat) => l + o) w.lo off
  return if (c.zip w.t.dims).all (fun x => decide (0 ≤ x.1) && decide (x.1 < x.2)) then some c else none

/-- The offsets of element i (R84, R91). -/
def windowOffsets (v : W64) (dim i : Nat) : List Nat :=
  (List.range 4).map (fun d => bits v.toNat (16 * d) 16 + if d = dim then i else 0)

/-- The checks of a slot before it is used (R80, R91): a recorded fault of the slot, or a fill fault on its line, then the line's arrival. -/
def needSlot (n slot : Nat) : M Unit := do
  let h ← getH
  let w ← needBound n
  let hit := match w.recorded (fun f => f.slot == slot) with
    | some f => some f
    | none => w.recorded (fun f => f.isFill && w.lineOf f.slot == w.lineOf slot)
  match hit with
  | some f => do
    modify (fun s => s.setWin n (some (w.clearRecord f)))
    raise f.trap
  | none =>
    if w.arrived (w.lineOf slot) then pure ()
    else if h.csr.strict || w.d.strict then raise (trap causeSchedule (BitVec.ofNat 64 (2 + 256 * n)) qVq)
    else raise stallMark

/-- A code converted between the element formats of a window and a register (R92). -/
def convertCode (st dt : Tag) (code : Nat) : M Rounded := do
  let r := EOut.ofCode code
  let d ← drawIf (r.rounds st dt)
  return r.convert (← getH).csr st dt d

/-- BX8, BX4 and BXS move code for code between equal tags only (R92). -/
def windowTagsOk (t v : Tag) : Bool := t == v || !(t.isBx || t == .bxs || v.isBx || v == .bxs)

/-- One active element of vldw. -/
def vldwElem (n : Nat) (D : VOp) (dt : Tag) (off : W64) (dim i : Nat) : M Unit := do
  let w ← needBound n
  match ← windowCoord n w (windowOffsets off dim i) with
  | none => writeRounded D dt i (← convertCode w.t.tag dt w.d.fill.toNat)
  | some c => do
    needSlot n (w.slot c)
    let ks := (← getH).slotKeys w (w.slot c)
    needOwnClean ks qVq
    writeRounded D dt i (← convertCode w.t.tag dt (leNat (ks.map (← getS).slotByte)))

/-- One active element of vstw. -/
def vstwElem (n : Nat) (D : VOp) (st : Tag) (off : W64) (dim i : Nat) : M Unit := do
  let w ← needBound n
  match ← windowCoord n w (windowOffsets off dim i) with
  | none => pure ()
  | some c => do
    needSlot n (w.slot c)
    let x ← readCode D st i
    let r ← convertCode st w.t.tag x
    let ks := (← getH).slotKeys w (w.slot c)
    modify (fun s => s.putKeys false ks (leBytes w.esize r.code))
    orFlags r.flags
    if r.sat then saturate i else pure ()
    modify (fun s => match s.hart.win n with
      | some w => s.setWin n (some { w with dirty := if w.dirty.contains c then w.dirty else w.dirty ++ [c] })
      | none => s)

/-- vldw (R91). UNBOUND comes before OPERAND: R91 and R92 do not rank the two. (DESIGN CHOICE, log 78.) -/
def vldwBody (mk : Bool) (d a : Fld6) (g : GReg) (dim : Nat) : M Ctl := mayStall do
  let h ← getH
  let D := h.vop d
  let dt := h.opTag D
  if h.csr.vl = 0 then
    if h.groupOk D dt then whenFull (do tailFrom D dt 0; if h.bxOk D dt then scaleTail D dt else pure ()) else pure ()
  else do
    let w ← needBound a.toNat
    check (windowTagsOk w.t.tag dt && h.groupOk D dt && h.bxOk D dt) (operandTrap qVq)
    withSources mk [] do
      let free := (← getH).csr.mode != 5
      elementLoop (free := free) (fun i => do
        if ← activeM mk i then vldwElem a.toNat D dt (h.gr g) dim i else inactiveElem D dt i)
      whenFull (codeTail D dt)
  return .seq

/-- vstw (R91). UNBOUND and MODE come before OPERAND: R91 and R92 do not rank them. (DESIGN CHOICE, log 78.) -/
def vstwBody (mk : Bool) (d a : Fld6) (g : GReg) (dim : Nat) : M Ctl := mayStall do
  let h ← getH
  let D := h.vop d
  let st := h.opTag D
  if h.csr.vl = 0 then pure ()
  else do
    let w ← needBound a.toNat
    check (w.d.mode.writable) (residencyTrap 6 a.toNat 0)
    check (windowTagsOk w.t.tag st && h.groupOk D st && h.bxOk D st) (operandTrap qVq)
    withSources mk [.vec D st] do
      let free := (← getH).csr.mode != 5
      elementLoop (free := free) (fun i => do
        if ← activeM mk i then vstwElem a.toNat D st (h.gr g) dim i else pure ())
  return .seq

/-- vldw: what issue needs to know. -/
def vldwInfo (cv mk : Bool) (dim : BitVec 2) (g : GReg) (a d : Fld6) (h : Hart) : VInfo :=
  ({ cls := some .load, cv := cv, low := lowVX false 0x26 dim.toNat cv mk d a g, len := 4, ill := fieldIll (h.vfld d) (decide (a.toNat < 16)), dest := some d
     reads := if mk then [maskCode 0] else [], writes := (h.vop d).regs ++ scaleRegs h (h.vop d), gReads := [g], gWrite := none, bx := false, queue := qVq } : VInfo).canSat h
/-- vldw vD, wA, gG (R91). -/
def execVldw (cv mk : Bool) (dim : BitVec 2) (g : GReg) (a d : Fld6) (s : State) : Host.Outcome State Fault Refusal :=
  runVector (vldwInfo cv mk dim g a d s.hart) false (vldwBody mk d a g dim.toNat) s

/-- vstw: what issue needs to know. -/
def vstwInfo (cv mk : Bool) (dim : BitVec 2) (g : GReg) (a d : Fld6) (h : Hart) : VInfo :=
  ({ cls := some .store, cv := cv, low := lowVX false 0x26 (16 + dim.toNat) cv mk d a g, len := 4, ill := fieldIll (h.vfld d) (decide (a.toNat < 16)), dest := some d
     reads := (h.vop d).regs ++ scaleRegs h (h.vop d) ++ if mk then [maskCode 0] else [], writes := [], gReads := [g], gWrite := none, bx := false, queue := qVq
     quiet := h.csr.vl == 0 } : VInfo).canSat h
/-- vstw vD, wA, gG (R91). -/
def execVstw (cv mk : Bool) (dim : BitVec 2) (g : GReg) (a d : Fld6) (s : State) : Host.Outcome State Fault Refusal :=
  runVector (vstwInfo cv mk dim g a d s.hart) false (vstwBody mk d a g dim.toNat) s

/-! The engine's own steps. -/

/-- A step of the residency engine for the focus hart. A hart that has been pre-empted has none: its accepted advances are complete, and no prefetch starts (R82). -/
def State.ifPlaced (s : State) (f : State → State) : State := if s.hart.status.placed then f s else s

/-- LINE_ARRIVAL (R74): the outstanding fills of a line of a window of the focus hart are performed and its tag is set. (DESIGN CHOICE, log 42.) -/
def execLineArrival (w : BitVec 4) (line : Nat) (s : State) : Host.Outcome State Fault Refusal := .next (s.ifPlaced (fun s => s.arrive w.toNat line)).endWrites

/-- RESIDENCY_PREFETCH (R73). (DESIGN CHOICE, log 42.) -/
def execResidencyPrefetch (w : BitVec 4) (ahead : Nat) (s : State) : Host.Outcome State Fault Refusal :=
  .next (s.ifPlaced (fun s => s.prefetch w.toNat ahead)).endWrites

/-- EARLY_WRITEBACK (R72). (DESIGN CHOICE, log 42.) -/
def execEarlyWriteback (w : BitVec 4) (slot : Nat) (s : State) : Host.Outcome State Fault Refusal :=
  .next (s.ifPlaced (fun s => s.earlyWb w.toNat slot)).endWrites

end Sys2Proof.Machine
end

