-- ==== Sys2Proof/Machine/VecArith.lean ====
section
/-! DEFINITION. Untyped vector arithmetic (R272-R278), compares to masks (R279, R280) and the fixed-point forms (R281-R283), with the compact forms (R18, R297). -/
namespace Sys2Proof.Machine

/-! Operations on two codes of a source tag. -/

/-- An operation given on integers and on values. -/
def arith (fi : Int → Int → Int) (ff : Bool → Val → Val → Val × W64) (t : Tag) (c : Csr) (a b : Nat) : EOut :=
  if t.isInt then .ofInt (fi (t.intOf a) (t.intOf b))
  else
    let (v, f) := ff (c.mode == 2) (t.decode c.ftz a) (t.decode c.ftz b)
    .ofVal v f

/-- XRound (R281): v / 2^s under XRM; a value of XRM with no rounding named gives a free value. (DEDUCED, log 23.) -/
def xround (xrm : W64) (v : Int) (s : Nat) : Int :=
  if s = 0 then v
  else
    let q := v / (2 ^ s : Int)
    let f := v % (2 ^ s : Int)
    let half : Int := 2 ^ (s - 1)
    if xrm = 0 then (if half ≤ f then q + 1 else q)
    else if xrm = 1 then (if half < f ∨ (f = half ∧ q % 2 = 1) then q + 1 else q)
    else if xrm = 2 then q
    else if xrm = 3 then (if f ≠ 0 ∧ q % 2 = 0 then q + 1 else q)
    else Config.xrmFree xrm v s

def opAdd := arith (· + ·) (fun r a b => a.add r b)
def opSub := arith (· - ·) (fun r a b => a.add r b.neg)
def opMul := arith (· * ·) (fun _ a b => a.mul b)
def opMin := arith (fun a b => if b < a then b else a) (fun _ a b => valMin a b)
def opMax := arith (fun a b => if a < b then b else a) (fun _ a b => valMax a b)

/-- Logic on codes: a float result is the float whose code it is (R272). -/
def opAnd (_ : Tag) (_ : Csr) (a b : Nat) : EOut := .ofCode (a &&& b)
def opOr (_ : Tag) (_ : Csr) (a b : Nat) : EOut := .ofCode (a ||| b)
def opXor (_ : Tag) (_ : Csr) (a b : Nat) : EOut := .ofCode (a ^^^ b)

/-- Shifts by b mod SEW (R272); the exact left shift is not wrapped before a conversion (R220). -/
def opSll (t : Tag) (_ : Csr) (a b : Nat) : EOut := .ofInt (t.intOf a * (2 ^ (b % t.bits) : Int))
def opSrl (t : Tag) (_ : Csr) (a b : Nat) : EOut := .ofCode (a / 2 ^ (b % t.bits))
def opSra (t : Tag) (_ : Csr) (a b : Nat) : EOut :=
  let s : Int := if 2 ^ (t.bits - 1) ≤ a then (a : Int) - 2 ^ t.bits else a
  .ofCode (wrapCode t.bits (s / (2 ^ (b % t.bits) : Int)))
def opMulh (t : Tag) (_ : Csr) (a b : Nat) : EOut := .ofInt (t.intOf a * t.intOf b / (2 ^ t.bits : Int))

/-- A sum clamped to the source range; a clamp that changes it saturates (R273). -/
def clamped (t : Tag) (i : Int) : EOut :=
  let r := t.clampInt i 0
  { v := .exact (.ofInt (t.intOf r.code)), flags := 0, sat := r.sat }
def opSadd (t : Tag) (_ : Csr) (a b : Nat) : EOut := clamped t (t.intOf a + t.intOf b)
def opSsub (t : Tag) (_ : Csr) (a b : Nat) : EOut := clamped t (t.intOf a - t.intOf b)
def opAvg (t : Tag) (c : Csr) (a b : Nat) : EOut := .ofInt (xround c.xrm (t.intOf a + t.intOf b) 1)

/-- Division (R275). -/
def opDiv (t : Tag) (c : Csr) (a b : Nat) : EOut :=
  if t.isInt then
    let x := t.intOf a
    let y := t.intOf b
    if y = 0 then { v := .code (2 ^ t.bits - 1), flags := flDZ, sat := false }
    else if t.signed && x == t.minInt && y == -1 then .ofInt t.minInt
    else .ofInt (x.tdiv y)
  else
    let (v, f) := (t.decode c.ftz a).div (t.decode c.ftz b)
    .ofVal v f

/-! The instructions' frames. -/

/-- What issue needs to know of an arithmetic instruction (R193): its destination group (of `dm`·LMUL registers, read as well when `acc`), its source groups
and scalar registers. -/
def Hart.arithInfo (h : Hart) (cls : PClass) (low : W32) (len : Nat) (cv mk : Bool) (d : Fld6) (dm : Nat) (acc : Bool) (srcs : List (Fld6 × Nat)) (gs : List GReg) : VInfo :=
  let dst := h.vop d dm
  { cls := some cls, cv := cv, low := low, len := len
    ill := fieldIll (h.vfld d && srcs.all (fun s => h.vfld s.1)) true
    dest := some d
    reads := srcs.flatMap (fun s => let o := h.vop s.1 s.2; o.regs ++ scaleRegs h o) ++ (if mk then [maskCode 0] else []) ++ (if acc then dst.regs else [])
    writes := dst.regs ++ scaleRegs h dst
    gReads := gs, gWrite := none, bx := (h.opTag dst).isBx, queue := qVq }

/-- A destination tag an untyped instruction may write: any but BXS; a bypass name must carry the source tag (R195, R272). -/
def dstOk (dst : VOp) (dt st : Tag) : Bool :=
  dt != .bxs && (match dst with | .reg _ _ => true | .byp _ => dt == st)

/-- A source tag an untyped instruction accepts. -/
def srcOk (ints floats : Bool) (t : Tag) : Bool := (ints && t.isInt) || (floats && t.isFloat)

/-- Two vector sources (R272). -/
def binaryVV (ints floats : Bool) (op : Tag → Csr → Nat → Nat → EOut) (mk : Bool) (d a b : Fld6) : M Ctl := do
  let h ← getH
  let A := h.vop a
  let B := h.vop b
  let D := h.vop d
  let st := h.opTag A
  let dt := h.opTag D
  check (h.opTag B == st && srcOk ints floats st && dstOk D dt st && h.operandsOk D dt [(A, st), (B, st)] false) (operandTrap qVq)
  elementwise D dt st mk [(A, st), (B, st)] (fun i => do
    let x ← readCode A st i
    let y ← readCode B st i
    return op st (← getH).csr x y)
  return .seq

/-- A scalar operand as one element of a tag (R210). -/
def scalarCode (t : Tag) (v : W64) : Nat := v.toNat % 2 ^ t.bits

/-- A vector source and a scalar one (R210, R272). -/
def binaryVX (ints floats : Bool) (op : Tag → Csr → Nat → Nat → EOut) (mk : Bool) (d a : Fld6) (g : GReg) : M Ctl := do
  let h ← getH
  let A := h.vop a
  let D := h.vop d
  let st := h.opTag A
  let dt := h.opTag D
  check (srcOk ints floats st && dstOk D dt st && h.operandsOk D dt [(A, st)] false) (operandTrap qVq)
  elementwise D dt st mk [(A, st)] (fun i => do
    let x ← readCode A st i
    return op st (← getH).csr x (scalarCode st (h.gr g)))
  return .seq

/-- One vector source (R276). -/
def unaryV (ints : Bool) (op : Tag → Csr → Nat → EOut) (mk : Bool) (d b : Fld6) : M Ctl := do
  let h ← getH
  let B := h.vop b
  let D := h.vop d
  let st := h.opTag B
  let dt := h.opTag D
  check (srcOk ints true st && dstOk D dt st && h.operandsOk D dt [(B, st)] false) (operandTrap qVq)
  elementwise D dt st mk [(B, st)] (fun i => do
    let x ← readCode B st i
    return op st (← getH).csr x)
  return .seq

/-- The FMA family: product and addend exact, one rounding (R276, R235). -/
def fmaV (fi : Int → Int → Int → Int) (ff : Bool → Val → Val → Val → Val × W64) (mk : Bool) (d a b : Fld6) : M Ctl := do
  let h ← getH
  let A := h.vop a
  let B := h.vop b
  let D := h.vop d
  let t := h.opTag A
  check (h.opTag B == t && h.opTag D == t && srcOk true true t && h.operandsOk D t [(A, t), (B, t)] false) (operandTrap qVq)
  elementwise D t t mk [(A, t), (B, t), (D, t)] (fun i => do
    let x ← readCode A t i
    let y ← readCode B t i
    let z ← readCode D t i
    let c := (← getH).csr
    if t.isInt then return .ofInt (fi (t.intOf x) (t.intOf y) (t.intOf z))
    else
      let (v, f) := ff (c.mode == 2) (t.decode c.ftz x) (t.decode c.ftz y) (t.decode c.ftz z)
      return .ofVal v f)
  return .seq

/-- A function of a float value. -/
def onFloat (f : Val → Val × W64) (t : Tag) (c : Csr) (b : Nat) : EOut :=
  let (v, fl) := f (t.decode c.ftz b)
  .ofVal v fl

/-- 1/b (R277). -/
def valRcp (b : Val) : Val × W64 := Val.div (.num false 1 0 false) b

/-- |b|, −b and NOT b (R277): under float tags only the sign bit changes, and the code moves. -/
def opAbs (t : Tag) (_ : Csr) (b : Nat) : EOut :=
  if t.isInt then .ofInt (t.intOf b).natAbs else .ofCode (b % 2 ^ (t.bits - 1))
def opNeg (t : Tag) (_ : Csr) (b : Nat) : EOut :=
  if t.isInt then .ofInt (-t.intOf b) else .ofCode (b ^^^ 2 ^ (t.bits - 1))
def opNot (t : Tag) (_ : Csr) (b : Nat) : EOut := .ofCode (2 ^ t.bits - 1 - b)

/-- vmov (R277): equal tags copy the code; others convert, a BX source with its scale words. -/
def moveV (mk : Bool) (d b : Fld6) : M Ctl := do
  let h ← getH
  let B := h.vop b
  let D := h.vop d
  let st := h.opTag B
  let dt := h.opTag D
  check (st != .bxs && dstOk D dt st && h.operandsOk D dt [(B, st)] false) (operandTrap qVq)
  if st = dt then codewise D dt mk [(B, st)] (readCode B st)
  else if st.isBx then
    elementwise D dt .f64 mk [(B, st)] (fun i => do return .ofVal (← readVal B st i) 0)
  else
    elementwise D dt st mk [(B, st)] (fun i => do return .ofCode (← readCode B st i))
  return .seq

/-- vsplat (R278): the low bits of g[G] as a code of vD's tag. -/
def splatV (mk : Bool) (d : Fld6) (g : GReg) : M Ctl := do
  let h ← getH
  let D := h.vop d
  let dt := h.opTag D
  check (dt != .bx4 && dt != .bxs && h.groupOk D dt && h.bxOk D dt) (operandTrap qVq)
  codewise D dt mk [] (fun _ => pure (scalarCode dt (h.gr g)))
  return .seq

/-! Compares (R279, R280). -/

/-- A relation of two codes: by value, with a NaN operand failing every relation but ne and setting NV. -/
def compareCodes (rel : Int → Bool) (ne : Bool) (t : Tag) (c : Csr) (a b : Nat) : Bool × W64 :=
  if t.isInt then (rel (t.intOf a - t.intOf b), 0)
  else
    let x := t.decode c.ftz a
    let y := t.decode c.ftz b
    if x.isNan || y.isNan then (ne, flNV) else (rel (Val.cmp x y), 0)

/-- What issue needs to know of a compare: its destination is a mask register. -/
def Hart.maskInfo (h : Hart) (cls : PClass) (low : W32) (cv mk : Bool) (m : Fld6) (srcs : List Fld6) (msrcs : List Fld6) (gs : List GReg) (sat : Bool) : VInfo :=
  { cls := some cls, cv := cv, low := low, len := 4
    ill := fieldIll (srcs.all h.vfld) ((m :: msrcs).all (fun f => decide (f.toNat < h.nm)))
    dest := none
    reads := srcs.flatMap (fun s => let o := h.vop s; o.regs ++ scaleRegs h o) ++ msrcs.map (fun f => maskCode f.toNat) ++ (if mk then [maskCode 0] else [])
    writes := [maskCode m.toNat] ++ (if sat then ovfRegs h else [])
    gReads := gs, gWrite := none, bx := false, queue := qVq }

/-- A mask element's group rule: VL within EM (R207). -/
def Hart.maskOk (h : Hart) : Bool := decide (h.csr.vlN ≤ h.em)

def compareVV (rel : Int → Bool) (ne : Bool) (mk : Bool) (d a b : Fld6) : M Ctl := do
  let h ← getH
  let A := h.vop a
  let B := h.vop b
  let t := h.opTag A
  check (h.opTag B == t && srcOk true true t && h.groupOk A t && h.groupOk B t && h.maskOk) (operandTrap qVq)
  maskwise d.toNat mk (vecSrcs [(A, t), (B, t)]) (fun i => do
    let x ← readCode A t i
    let y ← readCode B t i
    let (r, f) := compareCodes rel ne t (← getH).csr x y
    orFlags f
    return if r then 0x8000 else 0)
  return .seq

def compareVX (rel : Int → Bool) (ne : Bool) (mk : Bool) (d a : Fld6) (g : GReg) : M Ctl := do
  let h ← getH
  let A := h.vop a
  let t := h.opTag A
  check (srcOk true true t && h.groupOk A t && h.maskOk) (operandTrap qVq)
  maskwise d.toNat mk (vecSrcs [(A, t)]) (fun i => do
    let x ← readCode A t i
    let (r, f) := compareCodes rel ne t (← getH).csr x (scalarCode t (h.gr g))
    orFlags f
    return if r then 0x8000 else 0)
  return .seq

/-! Fixed point (R282, R283). -/

/-- The integer tag of twice the width and the same signedness. -/
def Tag.wide : Tag → Option Tag
  | .u8 => some .u16 | .i8 => some .i16 | .u16 => some .u32 | .i16 => some .i32
  | .u32 => none | .i32 => none | .u64 => none | .i64 => none | .f16 => none | .bf16 => none | .f32 => none | .f64 => none
  | .e4m3 => none | .e5m2 => none | .bx8 => none | .bx4 => none | .p16 => none | .bxs => none

/-- A wide operand is a group of registers, never a bypass name; the group rule checks its multiple (R283, R409). (DEDUCED, log 34.) -/
def wideOk : VOp → Bool
  | .reg _ _ => true
  | .byp _ => false

/-- vwmac and vsad: d := Sat(d + f(a, b)) in the wide tag. `y` gives the second operand at element i. -/
def widen (f : Int → Int → Int) (mk : Bool) (D A : VOp) (dt st : Tag) (srcs : List (VOp × Tag)) (y : Nat → M Nat) : M Ctl := do
  let h ← getH
  check (st.wide == some dt && decide (h.csr.lmul < 8) && wideOk D && h.operandsOk D dt srcs true) (operandTrap qVq)
  elementwise D dt dt mk (srcs ++ [(D, dt)]) (fun i => do
    let x ← readCode A st i
    let b ← y i
    let z ← readCode D dt i
    return clamped dt (dt.intOf z + f (st.intOf x) (st.intOf b)))
  return .seq

def widenVV (f : Int → Int → Int) (mk : Bool) (d a b : Fld6) : M Ctl := do
  let h ← getH
  let A := h.vop a
  let B := h.vop b
  let D := h.vop d 2
  let st := h.opTag A
  check (h.opTag B == st) (operandTrap qVq)
  widen f mk D A (h.opTag D) st [(A, st), (B, st)] (readCode B st)

def widenVX (f : Int → Int → Int) (mk : Bool) (d a : Fld6) (g : GReg) : M Ctl := do
  let h ← getH
  let A := h.vop a
  let D := h.vop d 2
  let st := h.opTag A
  widen f mk D A (h.opTag D) st [(A, st)] (fun _ => pure (scalarCode st (h.gr g)))

/-- vnshr: a wide source divided by 2^g under XRM, saturating in the narrow tag (R283). -/
def narrowV (mk : Bool) (d a : Fld6) (g : GReg) : M Ctl := do
  let h ← getH
  let A := h.vop a 2
  let D := h.vop d
  let st := h.opTag A
  let dt := h.opTag D
  let sh := (h.gr g).toNat % 64
  check (st.isInt && decide (16 ≤ st.bits) && dt.isInt && dt.bits * 2 == st.bits && decide (sh < st.bits) && wideOk A
    && h.operandsOk D dt [(A, st)] true) (operandTrap qVq)
  elementwise D dt dt mk [(A, st)] (fun i => do
    let x ← readCode A st i
    return clamped dt (xround (← getH).csr.xrm (st.intOf x) sh))
  return .seq

/-- vclip: min(max(a, lo), hi), lo and hi from the halves of g[G] under vA's signedness (R283). -/
def clipV (mk : Bool) (d a : Fld6) (g : GReg) : M Ctl := do
  let h ← getH
  let A := h.vop a
  let D := h.vop d
  let st := h.opTag A
  let dt := h.opTag D
  let half := fun (n : Nat) => if st.signed then Tag.i32.intOf n else (n : Int)
  let lo := half (bits (h.gr g).toNat 0 32)
  let hi := half (bits (h.gr g).toNat 32 32)
  check (st.isInt && decide (st.bits ≤ 32) && decide (lo ≤ hi) && dstOk D dt st && h.operandsOk D dt [(A, st)] false) (operandTrap qVq)
  elementwise D dt st mk [(A, st)] (fun i => do
    let x ← readCode A st i
    let v := st.intOf x
    let v := if v < lo then lo else v
    return if hi < v then clipOut st dt hi else clipOut st dt v)
  return .seq
where
  /-- A clip result is clamped, not wrapped, when it does not fit the destination (R283). -/
  clipOut (st dt : Tag) (v : Int) : EOut := if dt = st then clamped dt v else .ofInt v

/-! MAJ 0x14 and 0x15 (R272). -/

/-- vadd vD, vA, vB (R272): what issue needs to know. -/
def vaddVvInfo (cv : Bool) (mk : Bool) (b : Fld6) (a : Fld6) (d : Fld6) (h : Hart) : VInfo :=
  (h.arithInfo .arithA (lowVV 0x14 0 cv mk d a b) 4 cv mk d 1 false [(a, 1), (b, 1)] []).canSat h

/-- vadd vD, vA, vB (R272). -/
def execVaddVv (cv : Bool) (mk : Bool) (b : Fld6) (a : Fld6) (d : Fld6) (s : State) : Host.Outcome State Fault Refusal :=
  runVector (vaddVvInfo cv mk b a d s.hart) false (binaryVV true true opAdd mk d a b) s

/-- vadd vD, vA, gG (R272): what issue needs to know. -/
def vaddVxInfo (cv : Bool) (mk : Bool) (g : GReg) (a : Fld6) (d : Fld6) (h : Hart) : VInfo :=
  (h.arithInfo .arithA (lowVX false 0x15 0 cv mk d a g) 4 cv mk d 1 false [(a, 1)] [g]).canSat h

/-- vadd vD, vA, gG (R272). -/
def execVaddVx (cv : Bool) (mk : Bool) (g : GReg) (a : Fld6) (d : Fld6) (s : State) : Host.Outcome State Fault Refusal :=
  runVector (vaddVxInfo cv mk g a d s.hart) false (binaryVX true true opAdd mk d a g) s

/-- vsub vD, vA, vB (R272): what issue needs to know. -/
def vsubVvInfo (cv : Bool) (mk : Bool) (b : Fld6) (a : Fld6) (d : Fld6) (h : Hart) : VInfo :=
  (h.arithInfo .arithA (lowVV 0x14 1 cv mk d a b) 4 cv mk d 1 false [(a, 1), (b, 1)] []).canSat h

/-- vsub vD, vA, vB (R272). -/
def execVsubVv (cv : Bool) (mk : Bool) (b : Fld6) (a : Fld6) (d : Fld6) (s : State) : Host.Outcome State Fault Refusal :=
  runVector (vsubVvInfo cv mk b a d s.hart) false (binaryVV true true opSub mk d a b) s

/-- vsub vD, vA, gG (R272): what issue needs to know. -/
def vsubVxInfo (cv : Bool) (mk : Bool) (g : GReg) (a : Fld6) (d : Fld6) (h : Hart) : VInfo :=
  (h.arithInfo .arithA (lowVX false 0x15 1 cv mk d a g) 4 cv mk d 1 false [(a, 1)] [g]).canSat h

/-- vsub vD, vA, gG (R272). -/
def execVsubVx (cv : Bool) (mk : Bool) (g : GReg) (a : Fld6) (d : Fld6) (s : State) : Host.Outcome State Fault Refusal :=
  runVector (vsubVxInfo cv mk g a d s.hart) false (binaryVX true true opSub mk d a g) s

/-- vmul vD, vA, vB (R272): what issue needs to know. -/
def vmulVvInfo (cv : Bool) (mk : Bool) (b : Fld6) (a : Fld6) (d : Fld6) (h : Hart) : VInfo :=
  (h.arithInfo .arithA (lowVV 0x14 2 cv mk d a b) 4 cv mk d 1 false [(a, 1), (b, 1)] []).canSat h

/-- vmul vD, vA, vB (R272). -/
def execVmulVv (cv : Bool) (mk : Bool) (b : Fld6) (a : Fld6) (d : Fld6) (s : State) : Host.Outcome State Fault Refusal :=
  runVector (vmulVvInfo cv mk b a d s.hart) false (binaryVV true true opMul mk d a b) s

/-- vmul vD, vA, gG (R272): what issue needs to know. -/
def vmulVxInfo (cv : Bool) (mk : Bool) (g : GReg) (a : Fld6) (d : Fld6) (h : Hart) : VInfo :=
  (h.arithInfo .arithA (lowVX false 0x15 2 cv mk d a g) 4 cv mk d 1 false [(a, 1)] [g]).canSat h

/-- vmul vD, vA, gG (R272). -/
def execVmulVx (cv : Bool) (mk : Bool) (g : GReg) (a : Fld6) (d : Fld6) (s : State) : Host.Outcome State Fault Refusal :=
  runVector (vmulVxInfo cv mk g a d s.hart) false (binaryVX true true opMul mk d a g) s

/-- vmin vD, vA, vB (R272): what issue needs to know. -/
def vminVvInfo (cv : Bool) (mk : Bool) (b : Fld6) (a : Fld6) (d : Fld6) (h : Hart) : VInfo :=
  (h.arithInfo .arithA (lowVV 0x14 3 cv mk d a b) 4 cv mk d 1 false [(a, 1), (b, 1)] []).canSat h

/-- vmin vD, vA, vB (R272). -/
def execVminVv (cv : Bool) (mk : Bool) (b : Fld6) (a : Fld6) (d : Fld6) (s : State) : Host.Outcome State Fault Refusal :=
  runVector (vminVvInfo cv mk b a d s.hart) false (binaryVV true true opMin mk d a b) s

/-- vmin vD, vA, gG (R272): what issue needs to know. -/
def vminVxInfo (cv : Bool) (mk : Bool) (g : GReg) (a : Fld6) (d : Fld6) (h : Hart) : VInfo :=
  (h.arithInfo .arithA (lowVX false 0x15 3 cv mk d a g) 4 cv mk d 1 false [(a, 1)] [g]).canSat h

/-- vmin vD, vA, gG (R272). -/
def execVminVx (cv : Bool) (mk : Bool) (g : GReg) (a : Fld6) (d : Fld6) (s : State) : Host.Outcome State Fault Refusal :=
  runVector (vminVxInfo cv mk g a d s.hart) false (binaryVX true true opMin mk d a g) s

/-- vmax vD, vA, vB (R272): what issue needs to know. -/
def vmaxVvInfo (cv : Bool) (mk : Bool) (b : Fld6) (a : Fld6) (d : Fld6) (h : Hart) : VInfo :=
  (h.arithInfo .arithA (lowVV 0x14 4 cv mk d a b) 4 cv mk d 1 false [(a, 1), (b, 1)] []).canSat h

/-- vmax vD, vA, vB (R272). -/
def execVmaxVv (cv : Bool) (mk : Bool) (b : Fld6) (a : Fld6) (d : Fld6) (s : State) : Host.Outcome State Fault Refusal :=
  runVector (vmaxVvInfo cv mk b a d s.hart) false (binaryVV true true opMax mk d a b) s

/-- vmax vD, vA, gG (R272): what issue needs to know. -/
def vmaxVxInfo (cv : Bool) (mk : Bool) (g : GReg) (a : Fld6) (d : Fld6) (h : Hart) : VInfo :=
  (h.arithInfo .arithA (lowVX false 0x15 4 cv mk d a g) 4 cv mk d 1 false [(a, 1)] [g]).canSat h

/-- vmax vD, vA, gG (R272). -/
def execVmaxVx (cv : Bool) (mk : Bool) (g : GReg) (a : Fld6) (d : Fld6) (s : State) : Host.Outcome State Fault Refusal :=
  runVector (vmaxVxInfo cv mk g a d s.hart) false (binaryVX true true opMax mk d a g) s

/-- vand vD, vA, vB (R272): what issue needs to know. -/
def vandVvInfo (cv : Bool) (mk : Bool) (b : Fld6) (a : Fld6) (d : Fld6) (h : Hart) : VInfo :=
  (h.arithInfo .arithA (lowVV 0x14 5 cv mk d a b) 4 cv mk d 1 false [(a, 1), (b, 1)] []).canSat h

/-- vand vD, vA, vB (R272). -/
def execVandVv (cv : Bool) (mk : Bool) (b : Fld6) (a : Fld6) (d : Fld6) (s : State) : Host.Outcome State Fault Refusal :=
  runVector (vandVvInfo cv mk b a d s.hart) false (binaryVV true true opAnd mk d a b) s

/-- vand vD, vA, gG (R272): what issue needs to know. -/
def vandVxInfo (cv : Bool) (mk : Bool) (g : GReg) (a : Fld6) (d : Fld6) (h : Hart) : VInfo :=
  (h.arithInfo .arithA (lowVX false 0x15 5 cv mk d a g) 4 cv mk d 1 false [(a, 1)] [g]).canSat h

/-- vand vD, vA, gG (R272). -/
def execVandVx (cv : Bool) (mk : Bool) (g : GReg) (a : Fld6) (d : Fld6) (s : State) : Host.Outcome State Fault Refusal :=
  runVector (vandVxInfo cv mk g a d s.hart) false (binaryVX true true opAnd mk d a g) s

/-- vor vD, vA, vB (R272): what issue needs to know. -/
def vorVvInfo (cv : Bool) (mk : Bool) (b : Fld6) (a : Fld6) (d : Fld6) (h : Hart) : VInfo :=
  (h.arithInfo .arithA (lowVV 0x14 6 cv mk d a b) 4 cv mk d 1 false [(a, 1), (b, 1)] []).canSat h

/-- vor vD, vA, vB (R272). -/
def execVorVv (cv : Bool) (mk : Bool) (b : Fld6) (a : Fld6) (d : Fld6) (s : State) : Host.Outcome State Fault Refusal :=
  runVector (vorVvInfo cv mk b a d s.hart) false (binaryVV true true opOr mk d a b) s

/-- vor vD, vA, gG (R272): what issue needs to know. -/
def vorVxInfo (cv : Bool) (mk : Bool) (g : GReg) (a : Fld6) (d : Fld6) (h : Hart) : VInfo :=
  (h.arithInfo .arithA (lowVX false 0x15 6 cv mk d a g) 4 cv mk d 1 false [(a, 1)] [g]).canSat h

/-- vor vD, vA, gG (R272). -/
def execVorVx (cv : Bool) (mk : Bool) (g : GReg) (a : Fld6) (d : Fld6) (s : State) : Host.Outcome State Fault Refusal :=
  runVector (vorVxInfo cv mk g a d s.hart) false (binaryVX true true opOr mk d a g) s

/-- vxor vD, vA, vB (R272): what issue needs to know. -/
def vxorVvInfo (cv : Bool) (mk : Bool) (b : Fld6) (a : Fld6) (d : Fld6) (h : Hart) : VInfo :=
  (h.arithInfo .arithA (lowVV 0x14 7 cv mk d a b) 4 cv mk d 1 false [(a, 1), (b, 1)] []).canSat h

/-- vxor vD, vA, vB (R272). -/
def execVxorVv (cv : Bool) (mk : Bool) (b : Fld6) (a : Fld6) (d : Fld6) (s : State) : Host.Outcome State Fault Refusal :=
  runVector (vxorVvInfo cv mk b a d s.hart) false (binaryVV true true opXor mk d a b) s

/-- vxor vD, vA, gG (R272): what issue needs to know. -/
def vxorVxInfo (cv : Bool) (mk : Bool) (g : GReg) (a : Fld6) (d : Fld6) (h : Hart) : VInfo :=
  (h.arithInfo .arithA (lowVX false 0x15 7 cv mk d a g) 4 cv mk d 1 false [(a, 1)] [g]).canSat h

/-- vxor vD, vA, gG (R272). -/
def execVxorVx (cv : Bool) (mk : Bool) (g : GReg) (a : Fld6) (d : Fld6) (s : State) : Host.Outcome State Fault Refusal :=
  runVector (vxorVxInfo cv mk g a d s.hart) false (binaryVX true true opXor mk d a g) s

/-- vsll vD, vA, vB (R272): what issue needs to know. -/
def vsllVvInfo (cv : Bool) (mk : Bool) (b : Fld6) (a : Fld6) (d : Fld6) (h : Hart) : VInfo :=
  (h.arithInfo .arithA (lowVV 0x14 8 cv mk d a b) 4 cv mk d 1 false [(a, 1), (b, 1)] []).canSat h

/-- vsll vD, vA, vB (R272). -/
def execVsllVv (cv : Bool) (mk : Bool) (b : Fld6) (a : Fld6) (d : Fld6) (s : State) : Host.Outcome State Fault Refusal :=
  runVector (vsllVvInfo cv mk b a d s.hart) false (binaryVV true false opSll mk d a b) s

/-- vsll vD, vA, gG (R272): what issue needs to know. -/
def vsllVxInfo (cv : Bool) (mk : Bool) (g : GReg) (a : Fld6) (d : Fld6) (h : Hart) : VInfo :=
  (h.arithInfo .arithA (lowVX false 0x15 8 cv mk d a g) 4 cv mk d 1 false [(a, 1)] [g]).canSat h

/-- vsll vD, vA, gG (R272). -/
def execVsllVx (cv : Bool) (mk : Bool) (g : GReg) (a : Fld6) (d : Fld6) (s : State) : Host.Outcome State Fault Refusal :=
  runVector (vsllVxInfo cv mk g a d s.hart) false (binaryVX true false opSll mk d a g) s

/-- vsrl vD, vA, vB (R272): what issue needs to know. -/
def vsrlVvInfo (cv : Bool) (mk : Bool) (b : Fld6) (a : Fld6) (d : Fld6) (h : Hart) : VInfo :=
  (h.arithInfo .arithA (lowVV 0x14 9 cv mk d a b) 4 cv mk d 1 false [(a, 1), (b, 1)] []).canSat h

/-- vsrl vD, vA, vB (R272). -/
def execVsrlVv (cv : Bool) (mk : Bool) (b : Fld6) (a : Fld6) (d : Fld6) (s : State) : Host.Outcome State Fault Refusal :=
  runVector (vsrlVvInfo cv mk b a d s.hart) false (binaryVV true false opSrl mk d a b) s

/-- vsrl vD, vA, gG (R272): what issue needs to know. -/
def vsrlVxInfo (cv : Bool) (mk : Bool) (g : GReg) (a : Fld6) (d : Fld6) (h : Hart) : VInfo :=
  (h.arithInfo .arithA (lowVX false 0x15 9 cv mk d a g) 4 cv mk d 1 false [(a, 1)] [g]).canSat h

/-- vsrl vD, vA, gG (R272). -/
def execVsrlVx (cv : Bool) (mk : Bool) (g : GReg) (a : Fld6) (d : Fld6) (s : State) : Host.Outcome State Fault Refusal :=
  runVector (vsrlVxInfo cv mk g a d s.hart) false (binaryVX true false opSrl mk d a g) s

/-- vsra vD, vA, vB (R272): what issue needs to know. -/
def vsraVvInfo (cv : Bool) (mk : Bool) (b : Fld6) (a : Fld6) (d : Fld6) (h : Hart) : VInfo :=
  (h.arithInfo .arithA (lowVV 0x14 10 cv mk d a b) 4 cv mk d 1 false [(a, 1), (b, 1)] []).canSat h

/-- vsra vD, vA, vB (R272). -/
def execVsraVv (cv : Bool) (mk : Bool) (b : Fld6) (a : Fld6) (d : Fld6) (s : State) : Host.Outcome State Fault Refusal :=
  runVector (vsraVvInfo cv mk b a d s.hart) false (binaryVV true false opSra mk d a b) s

/-- vsra vD, vA, gG (R272): what issue needs to know. -/
def vsraVxInfo (cv : Bool) (mk : Bool) (g : GReg) (a : Fld6) (d : Fld6) (h : Hart) : VInfo :=
  (h.arithInfo .arithA (lowVX false 0x15 10 cv mk d a g) 4 cv mk d 1 false [(a, 1)] [g]).canSat h

/-- vsra vD, vA, gG (R272). -/
def execVsraVx (cv : Bool) (mk : Bool) (g : GReg) (a : Fld6) (d : Fld6) (s : State) : Host.Outcome State Fault Refusal :=
  runVector (vsraVxInfo cv mk g a d s.hart) false (binaryVX true false opSra mk d a g) s

/-- vmulh vD, vA, vB (R272): what issue needs to know. -/
def vmulhVvInfo (cv : Bool) (mk : Bool) (b : Fld6) (a : Fld6) (d : Fld6) (h : Hart) : VInfo :=
  (h.arithInfo .arithA (lowVV 0x14 11 cv mk d a b) 4 cv mk d 1 false [(a, 1), (b, 1)] []).canSat h

/-- vmulh vD, vA, vB (R272). -/
def execVmulhVv (cv : Bool) (mk : Bool) (b : Fld6) (a : Fld6) (d : Fld6) (s : State) : Host.Outcome State Fault Refusal :=
  runVector (vmulhVvInfo cv mk b a d s.hart) false (binaryVV true false opMulh mk d a b) s

/-- vmulh vD, vA, gG (R272): what issue needs to know. -/
def vmulhVxInfo (cv : Bool) (mk : Bool) (g : GReg) (a : Fld6) (d : Fld6) (h : Hart) : VInfo :=
  (h.arithInfo .arithA (lowVX false 0x15 11 cv mk d a g) 4 cv mk d 1 false [(a, 1)] [g]).canSat h

/-- vmulh vD, vA, gG (R272). -/
def execVmulhVx (cv : Bool) (mk : Bool) (g : GReg) (a : Fld6) (d : Fld6) (s : State) : Host.Outcome State Fault Refusal :=
  runVector (vmulhVxInfo cv mk g a d s.hart) false (binaryVX true false opMulh mk d a g) s

/-- vsadd vD, vA, vB (R272): what issue needs to know. -/
def vsaddVvInfo (cv : Bool) (mk : Bool) (b : Fld6) (a : Fld6) (d : Fld6) (h : Hart) : VInfo :=
  (h.arithInfo .arithA (lowVV 0x14 12 cv mk d a b) 4 cv mk d 1 false [(a, 1), (b, 1)] []).canSat h

/-- vsadd vD, vA, vB (R272). -/
def execVsaddVv (cv : Bool) (mk : Bool) (b : Fld6) (a : Fld6) (d : Fld6) (s : State) : Host.Outcome State Fault Refusal :=
  runVector (vsaddVvInfo cv mk b a d s.hart) false (binaryVV true false opSadd mk d a b) s

/-- vsadd vD, vA, gG (R272): what issue needs to know. -/
def vsaddVxInfo (cv : Bool) (mk : Bool) (g : GReg) (a : Fld6) (d : Fld6) (h : Hart) : VInfo :=
  (h.arithInfo .arithA (lowVX false 0x15 12 cv mk d a g) 4 cv mk d 1 false [(a, 1)] [g]).canSat h

/-- vsadd vD, vA, gG (R272). -/
def execVsaddVx (cv : Bool) (mk : Bool) (g : GReg) (a : Fld6) (d : Fld6) (s : State) : Host.Outcome State Fault Refusal :=
  runVector (vsaddVxInfo cv mk g a d s.hart) false (binaryVX true false opSadd mk d a g) s

/-- vssub vD, vA, vB (R272): what issue needs to know. -/
def vssubVvInfo (cv : Bool) (mk : Bool) (b : Fld6) (a : Fld6) (d : Fld6) (h : Hart) : VInfo :=
  (h.arithInfo .arithA (lowVV 0x14 13 cv mk d a b) 4 cv mk d 1 false [(a, 1), (b, 1)] []).canSat h

/-- vssub vD, vA, vB (R272). -/
def execVssubVv (cv : Bool) (mk : Bool) (b : Fld6) (a : Fld6) (d : Fld6) (s : State) : Host.Outcome State Fault Refusal :=
  runVector (vssubVvInfo cv mk b a d s.hart) false (binaryVV true false opSsub mk d a b) s

/-- vssub vD, vA, gG (R272): what issue needs to know. -/
def vssubVxInfo (cv : Bool) (mk : Bool) (g : GReg) (a : Fld6) (d : Fld6) (h : Hart) : VInfo :=
  (h.arithInfo .arithA (lowVX false 0x15 13 cv mk d a g) 4 cv mk d 1 false [(a, 1)] [g]).canSat h

/-- vssub vD, vA, gG (R272). -/
def execVssubVx (cv : Bool) (mk : Bool) (g : GReg) (a : Fld6) (d : Fld6) (s : State) : Host.Outcome State Fault Refusal :=
  runVector (vssubVxInfo cv mk g a d s.hart) false (binaryVX true false opSsub mk d a g) s

/-- vavg vD, vA, vB (R272): what issue needs to know. -/
def vavgVvInfo (cv : Bool) (mk : Bool) (b : Fld6) (a : Fld6) (d : Fld6) (h : Hart) : VInfo :=
  (h.arithInfo .arithA (lowVV 0x14 14 cv mk d a b) 4 cv mk d 1 false [(a, 1), (b, 1)] []).canSat h

/-- vavg vD, vA, vB (R272). -/
def execVavgVv (cv : Bool) (mk : Bool) (b : Fld6) (a : Fld6) (d : Fld6) (s : State) : Host.Outcome State Fault Refusal :=
  runVector (vavgVvInfo cv mk b a d s.hart) false (binaryVV true false opAvg mk d a b) s

/-- vavg vD, vA, gG (R272): what issue needs to know. -/
def vavgVxInfo (cv : Bool) (mk : Bool) (g : GReg) (a : Fld6) (d : Fld6) (h : Hart) : VInfo :=
  (h.arithInfo .arithA (lowVX false 0x15 14 cv mk d a g) 4 cv mk d 1 false [(a, 1)] [g]).canSat h

/-- vavg vD, vA, gG (R272). -/
def execVavgVx (cv : Bool) (mk : Bool) (g : GReg) (a : Fld6) (d : Fld6) (s : State) : Host.Outcome State Fault Refusal :=
  runVector (vavgVxInfo cv mk g a d s.hart) false (binaryVX true false opAvg mk d a g) s

/-- vdiv vD, vA, vB (R272): what issue needs to know. -/
def vdivVvInfo (cv : Bool) (mk : Bool) (b : Fld6) (a : Fld6) (d : Fld6) (h : Hart) : VInfo :=
  (h.arithInfo .arithB (lowVV 0x14 15 cv mk d a b) 4 cv mk d 1 false [(a, 1), (b, 1)] []).canSat h

/-- vdiv vD, vA, vB (R272). -/
def execVdivVv (cv : Bool) (mk : Bool) (b : Fld6) (a : Fld6) (d : Fld6) (s : State) : Host.Outcome State Fault Refusal :=
  runVector (vdivVvInfo cv mk b a d s.hart) false (binaryVV true true opDiv mk d a b) s

/-- vdiv vD, vA, gG (R272): what issue needs to know. -/
def vdivVxInfo (cv : Bool) (mk : Bool) (g : GReg) (a : Fld6) (d : Fld6) (h : Hart) : VInfo :=
  (h.arithInfo .arithB (lowVX false 0x15 15 cv mk d a g) 4 cv mk d 1 false [(a, 1)] [g]).canSat h

/-- vdiv vD, vA, gG (R272). -/
def execVdivVx (cv : Bool) (mk : Bool) (g : GReg) (a : Fld6) (d : Fld6) (s : State) : Host.Outcome State Fault Refusal :=
  runVector (vdivVxInfo cv mk g a d s.hart) false (binaryVX true true opDiv mk d a g) s

/-- vsplat vD, gG (R278): what issue needs to know. -/
def vsplatInfo (cv : Bool) (mk : Bool) (g : GReg) (d : Fld6) (h : Hart) : VInfo :=
  h.arithInfo .arithA (lowVX false 0x15 16 cv mk d 0 g) 4 cv mk d 1 false [] [g]

/-- vsplat vD, gG (R278). -/
def execVsplat (cv : Bool) (mk : Bool) (g : GReg) (d : Fld6) (s : State) : Host.Outcome State Fault Refusal :=
  runVector (vsplatInfo cv mk g d s.hart) false (splatV mk d g) s

/-! MAJ 0x16 (R276, R277). -/

/-- The exact results of vfma (R276). -/
def vfmaInt (a b d : Int) : Int := (fun a b d => a * b + d) a b d
def vfmaVal (r : Bool) (a b d : Val) : Val × W64 := (fun r a b d => Val.fma r a b d) r a b d

/-- vfma vD, vA, vB (R276): what issue needs to know. -/
def vfmaInfo (cv : Bool) (mk : Bool) (b : Fld6) (a : Fld6) (d : Fld6) (h : Hart) : VInfo :=
  (h.arithInfo .arithA (lowVV 0x16 0 cv mk d a b) 4 cv mk d 1 true [(a, 1), (b, 1)] []).canSat h

/-- vfma vD, vA, vB (R276). -/
def execVfma (cv : Bool) (mk : Bool) (b : Fld6) (a : Fld6) (d : Fld6) (s : State) : Host.Outcome State Fault Refusal :=
  runVector (vfmaInfo cv mk b a d s.hart) false (fmaV vfmaInt vfmaVal mk d a b) s

/-- The exact results of vfms (R276). -/
def vfmsInt (a b d : Int) : Int := (fun a b d => a * b - d) a b d
def vfmsVal (r : Bool) (a b d : Val) : Val × W64 := (fun r a b d => Val.fma r a b d.neg) r a b d

/-- vfms vD, vA, vB (R276): what issue needs to know. -/
def vfmsInfo (cv : Bool) (mk : Bool) (b : Fld6) (a : Fld6) (d : Fld6) (h : Hart) : VInfo :=
  (h.arithInfo .arithA (lowVV 0x16 1 cv mk d a b) 4 cv mk d 1 true [(a, 1), (b, 1)] []).canSat h

/-- vfms vD, vA, vB (R276). -/
def execVfms (cv : Bool) (mk : Bool) (b : Fld6) (a : Fld6) (d : Fld6) (s : State) : Host.Outcome State Fault Refusal :=
  runVector (vfmsInfo cv mk b a d s.hart) false (fmaV vfmsInt vfmsVal mk d a b) s

/-- The exact results of vfnma (R276). -/
def vfnmaInt (a b d : Int) : Int := (fun a b d => d - a * b) a b d
def vfnmaVal (r : Bool) (a b d : Val) : Val × W64 := (fun r a b d => Val.fma r a.neg b d) r a b d

/-- vfnma vD, vA, vB (R276): what issue needs to know. -/
def vfnmaInfo (cv : Bool) (mk : Bool) (b : Fld6) (a : Fld6) (d : Fld6) (h : Hart) : VInfo :=
  (h.arithInfo .arithA (lowVV 0x16 2 cv mk d a b) 4 cv mk d 1 true [(a, 1), (b, 1)] []).canSat h

/-- vfnma vD, vA, vB (R276). -/
def execVfnma (cv : Bool) (mk : Bool) (b : Fld6) (a : Fld6) (d : Fld6) (s : State) : Host.Outcome State Fault Refusal :=
  runVector (vfnmaInfo cv mk b a d s.hart) false (fmaV vfnmaInt vfnmaVal mk d a b) s

/-- vsqrt vD, vB; the A field is ignored (R276): what issue needs to know. -/
def vsqrtInfo (cv : Bool) (mk : Bool) (b : Fld6) (x : Fld6) (d : Fld6) (h : Hart) : VInfo :=
  (h.arithInfo .arithB (lowVV 0x16 3 cv mk d x b) 4 cv mk d 1 false [(b, 1)] []).canSat h

/-- vsqrt vD, vB; the A field is ignored (R276). (DEDUCED, log 29.) -/
def execVsqrt (cv : Bool) (mk : Bool) (b : Fld6) (x : Fld6) (d : Fld6) (s : State) : Host.Outcome State Fault Refusal :=
  runVector (vsqrtInfo cv mk b x d s.hart) false (unaryV false (onFloat Val.sqrt) mk d b) s

/-- vrcp vD, vB; the A field is ignored (R276): what issue needs to know. -/
def vrcpInfo (cv : Bool) (mk : Bool) (b : Fld6) (x : Fld6) (d : Fld6) (h : Hart) : VInfo :=
  (h.arithInfo .arithB (lowVV 0x16 4 cv mk d x b) 4 cv mk d 1 false [(b, 1)] []).canSat h

/-- vrcp vD, vB; the A field is ignored (R276). (DEDUCED, log 29.) -/
def execVrcp (cv : Bool) (mk : Bool) (b : Fld6) (x : Fld6) (d : Fld6) (s : State) : Host.Outcome State Fault Refusal :=
  runVector (vrcpInfo cv mk b x d s.hart) false (unaryV false (onFloat valRcp) mk d b) s

/-- vrsq vD, vB; the A field is ignored (R276): what issue needs to know. -/
def vrsqInfo (cv : Bool) (mk : Bool) (b : Fld6) (x : Fld6) (d : Fld6) (h : Hart) : VInfo :=
  (h.arithInfo .arithB (lowVV 0x16 5 cv mk d x b) 4 cv mk d 1 false [(b, 1)] []).canSat h

/-- vrsq vD, vB; the A field is ignored (R276). (DEDUCED, log 29.) -/
def execVrsq (cv : Bool) (mk : Bool) (b : Fld6) (x : Fld6) (d : Fld6) (s : State) : Host.Outcome State Fault Refusal :=
  runVector (vrsqInfo cv mk b x d s.hart) false (unaryV false (onFloat Val.rsqrt) mk d b) s

/-- vexp vD, vB; the A field is ignored (R276): what issue needs to know. -/
def vexpInfo (cv : Bool) (mk : Bool) (b : Fld6) (x : Fld6) (d : Fld6) (h : Hart) : VInfo :=
  (h.arithInfo .arithB (lowVV 0x16 6 cv mk d x b) 4 cv mk d 1 false [(b, 1)] []).canSat h

/-- vexp vD, vB; the A field is ignored (R276). (DEDUCED, log 30.) -/
def execVexp (cv : Bool) (mk : Bool) (b : Fld6) (x : Fld6) (d : Fld6) (s : State) : Host.Outcome State Fault Refusal :=
  runVector (vexpInfo cv mk b x d s.hart) false (unaryV false (onFloat Val.exp2) mk d b) s

/-- vlog2 vD, vB; the A field is ignored (R276): what issue needs to know. -/
def vlog2Info (cv : Bool) (mk : Bool) (b : Fld6) (x : Fld6) (d : Fld6) (h : Hart) : VInfo :=
  (h.arithInfo .arithB (lowVV 0x16 7 cv mk d x b) 4 cv mk d 1 false [(b, 1)] []).canSat h

/-- vlog2 vD, vB; the A field is ignored (R276). (DEDUCED, log 30.) -/
def execVlog2 (cv : Bool) (mk : Bool) (b : Fld6) (x : Fld6) (d : Fld6) (s : State) : Host.Outcome State Fault Refusal :=
  runVector (vlog2Info cv mk b x d s.hart) false (unaryV false (onFloat Val.log2) mk d b) s

/-- vabs vD, vB; the A field is ignored (R276): what issue needs to know. -/
def vabsInfo (cv : Bool) (mk : Bool) (b : Fld6) (x : Fld6) (d : Fld6) (h : Hart) : VInfo :=
  (h.arithInfo .arithA (lowVV 0x16 8 cv mk d x b) 4 cv mk d 1 false [(b, 1)] []).canSat h

/-- vabs vD, vB; the A field is ignored (R276). -/
def execVabs (cv : Bool) (mk : Bool) (b : Fld6) (x : Fld6) (d : Fld6) (s : State) : Host.Outcome State Fault Refusal :=
  runVector (vabsInfo cv mk b x d s.hart) false (unaryV true opAbs mk d b) s

/-- vneg vD, vB; the A field is ignored (R276): what issue needs to know. -/
def vnegInfo (cv : Bool) (mk : Bool) (b : Fld6) (x : Fld6) (d : Fld6) (h : Hart) : VInfo :=
  (h.arithInfo .arithA (lowVV 0x16 9 cv mk d x b) 4 cv mk d 1 false [(b, 1)] []).canSat h

/-- vneg vD, vB; the A field is ignored (R276). -/
def execVneg (cv : Bool) (mk : Bool) (b : Fld6) (x : Fld6) (d : Fld6) (s : State) : Host.Outcome State Fault Refusal :=
  runVector (vnegInfo cv mk b x d s.hart) false (unaryV true opNeg mk d b) s

/-- vnot vD, vB; the A field is ignored (R276): what issue needs to know. -/
def vnotInfo (cv : Bool) (mk : Bool) (b : Fld6) (x : Fld6) (d : Fld6) (h : Hart) : VInfo :=
  (h.arithInfo .arithA (lowVV 0x16 10 cv mk d x b) 4 cv mk d 1 false [(b, 1)] []).canSat h

/-- vnot vD, vB; the A field is ignored (R276). -/
def execVnot (cv : Bool) (mk : Bool) (b : Fld6) (x : Fld6) (d : Fld6) (s : State) : Host.Outcome State Fault Refusal :=
  runVector (vnotInfo cv mk b x d s.hart) false (unaryV true opNot mk d b) s

/-- vmov vD, vB; the A field is ignored (R276): what issue needs to know. -/
def vmovInfo (cv : Bool) (mk : Bool) (b : Fld6) (x : Fld6) (d : Fld6) (h : Hart) : VInfo :=
  (h.arithInfo .arithA (lowVV 0x16 11 cv mk d x b) 4 cv mk d 1 false [(b, 1)] []).canSat h

/-- vmov vD, vB; the A field is ignored (R276). (DEDUCED, log 33.) -/
def execVmov (cv : Bool) (mk : Bool) (b : Fld6) (x : Fld6) (d : Fld6) (s : State) : Host.Outcome State Fault Refusal :=
  runVector (vmovInfo cv mk b x d s.hart) false (moveV mk d b) s

/-! MAJ 0x17 and 0x18 (R279). -/

/-- The relation eq of a three-way comparison (R279). -/
def relEq (c : Int) : Bool := (fun c => c == 0) c

/-- vcmp.eq mD, vA, vB (R279, R280): what issue needs to know. -/
def vcmpEqVvInfo (cv : Bool) (mk : Bool) (b : Fld6) (a : Fld6) (d : Fld6) (h : Hart) : VInfo :=
  h.maskInfo .arithA (lowVV 0x17 0 cv mk d a b) cv mk d [a, b] [] [] false

/-- vcmp.eq mD, vA, vB (R279, R280). -/
def execVcmpEqVv (cv : Bool) (mk : Bool) (b : Fld6) (a : Fld6) (d : Fld6) (s : State) : Host.Outcome State Fault Refusal :=
  runVector (vcmpEqVvInfo cv mk b a d s.hart) false (compareVV relEq false mk d a b) s

/-- vcmp.eq mD, vA, gG (R279, R280): what issue needs to know. -/
def vcmpEqVxInfo (cv : Bool) (mk : Bool) (g : GReg) (a : Fld6) (d : Fld6) (h : Hart) : VInfo :=
  h.maskInfo .arithA (lowVX false 0x18 0 cv mk d a g) cv mk d [a] [] [g] false

/-- vcmp.eq mD, vA, gG (R279, R280). -/
def execVcmpEqVx (cv : Bool) (mk : Bool) (g : GReg) (a : Fld6) (d : Fld6) (s : State) : Host.Outcome State Fault Refusal :=
  runVector (vcmpEqVxInfo cv mk g a d s.hart) false (compareVX relEq false mk d a g) s

/-- The relation ne of a three-way comparison (R279). -/
def relNe (c : Int) : Bool := (fun c => c != 0) c

/-- vcmp.ne mD, vA, vB (R279, R280): what issue needs to know. -/
def vcmpNeVvInfo (cv : Bool) (mk : Bool) (b : Fld6) (a : Fld6) (d : Fld6) (h : Hart) : VInfo :=
  h.maskInfo .arithA (lowVV 0x17 1 cv mk d a b) cv mk d [a, b] [] [] false

/-- vcmp.ne mD, vA, vB (R279, R280). -/
def execVcmpNeVv (cv : Bool) (mk : Bool) (b : Fld6) (a : Fld6) (d : Fld6) (s : State) : Host.Outcome State Fault Refusal :=
  runVector (vcmpNeVvInfo cv mk b a d s.hart) false (compareVV relNe true mk d a b) s

/-- vcmp.ne mD, vA, gG (R279, R280): what issue needs to know. -/
def vcmpNeVxInfo (cv : Bool) (mk : Bool) (g : GReg) (a : Fld6) (d : Fld6) (h : Hart) : VInfo :=
  h.maskInfo .arithA (lowVX false 0x18 1 cv mk d a g) cv mk d [a] [] [g] false

/-- vcmp.ne mD, vA, gG (R279, R280). -/
def execVcmpNeVx (cv : Bool) (mk : Bool) (g : GReg) (a : Fld6) (d : Fld6) (s : State) : Host.Outcome State Fault Refusal :=
  runVector (vcmpNeVxInfo cv mk g a d s.hart) false (compareVX relNe true mk d a g) s

/-- The relation lt of a three-way comparison (R279). -/
def relLt (c : Int) : Bool := (fun c => decide (c < 0)) c

/-- vcmp.lt mD, vA, vB (R279, R280): what issue needs to know. -/
def vcmpLtVvInfo (cv : Bool) (mk : Bool) (b : Fld6) (a : Fld6) (d : Fld6) (h : Hart) : VInfo :=
  h.maskInfo .arithA (lowVV 0x17 2 cv mk d a b) cv mk d [a, b] [] [] false

/-- vcmp.lt mD, vA, vB (R279, R280). -/
def execVcmpLtVv (cv : Bool) (mk : Bool) (b : Fld6) (a : Fld6) (d : Fld6) (s : State) : Host.Outcome State Fault Refusal :=
  runVector (vcmpLtVvInfo cv mk b a d s.hart) false (compareVV relLt false mk d a b) s

/-- vcmp.lt mD, vA, gG (R279, R280): what issue needs to know. -/
def vcmpLtVxInfo (cv : Bool) (mk : Bool) (g : GReg) (a : Fld6) (d : Fld6) (h : Hart) : VInfo :=
  h.maskInfo .arithA (lowVX false 0x18 2 cv mk d a g) cv mk d [a] [] [g] false

/-- vcmp.lt mD, vA, gG (R279, R280). -/
def execVcmpLtVx (cv : Bool) (mk : Bool) (g : GReg) (a : Fld6) (d : Fld6) (s : State) : Host.Outcome State Fault Refusal :=
  runVector (vcmpLtVxInfo cv mk g a d s.hart) false (compareVX relLt false mk d a g) s

/-- The relation le of a three-way comparison (R279). -/
def relLe (c : Int) : Bool := (fun c => decide (c ≤ 0)) c

/-- vcmp.le mD, vA, vB (R279, R280): what issue needs to know. -/
def vcmpLeVvInfo (cv : Bool) (mk : Bool) (b : Fld6) (a : Fld6) (d : Fld6) (h : Hart) : VInfo :=
  h.maskInfo .arithA (lowVV 0x17 3 cv mk d a b) cv mk d [a, b] [] [] false

/-- vcmp.le mD, vA, vB (R279, R280). -/
def execVcmpLeVv (cv : Bool) (mk : Bool) (b : Fld6) (a : Fld6) (d : Fld6) (s : State) : Host.Outcome State Fault Refusal :=
  runVector (vcmpLeVvInfo cv mk b a d s.hart) false (compareVV relLe false mk d a b) s

/-- vcmp.le mD, vA, gG (R279, R280): what issue needs to know. -/
def vcmpLeVxInfo (cv : Bool) (mk : Bool) (g : GReg) (a : Fld6) (d : Fld6) (h : Hart) : VInfo :=
  h.maskInfo .arithA (lowVX false 0x18 3 cv mk d a g) cv mk d [a] [] [g] false

/-- vcmp.le mD, vA, gG (R279, R280). -/
def execVcmpLeVx (cv : Bool) (mk : Bool) (g : GReg) (a : Fld6) (d : Fld6) (s : State) : Host.Outcome State Fault Refusal :=
  runVector (vcmpLeVxInfo cv mk g a d s.hart) false (compareVX relLe false mk d a g) s

/-- The relation gt of a three-way comparison (R279). -/
def relGt (c : Int) : Bool := (fun c => decide (0 < c)) c

/-- vcmp.gt mD, vA, vB (R279, R280): what issue needs to know. -/
def vcmpGtVvInfo (cv : Bool) (mk : Bool) (b : Fld6) (a : Fld6) (d : Fld6) (h : Hart) : VInfo :=
  h.maskInfo .arithA (lowVV 0x17 4 cv mk d a b) cv mk d [a, b] [] [] false

/-- vcmp.gt mD, vA, vB (R279, R280). -/
def execVcmpGtVv (cv : Bool) (mk : Bool) (b : Fld6) (a : Fld6) (d : Fld6) (s : State) : Host.Outcome State Fault Refusal :=
  runVector (vcmpGtVvInfo cv mk b a d s.hart) false (compareVV relGt false mk d a b) s

/-- vcmp.gt mD, vA, gG (R279, R280): what issue needs to know. -/
def vcmpGtVxInfo (cv : Bool) (mk : Bool) (g : GReg) (a : Fld6) (d : Fld6) (h : Hart) : VInfo :=
  h.maskInfo .arithA (lowVX false 0x18 4 cv mk d a g) cv mk d [a] [] [g] false

/-- vcmp.gt mD, vA, gG (R279, R280). -/
def execVcmpGtVx (cv : Bool) (mk : Bool) (g : GReg) (a : Fld6) (d : Fld6) (s : State) : Host.Outcome State Fault Refusal :=
  runVector (vcmpGtVxInfo cv mk g a d s.hart) false (compareVX relGt false mk d a g) s

/-- The relation ge of a three-way comparison (R279). -/
def relGe (c : Int) : Bool := (fun c => decide (0 ≤ c)) c

/-- vcmp.ge mD, vA, vB (R279, R280): what issue needs to know. -/
def vcmpGeVvInfo (cv : Bool) (mk : Bool) (b : Fld6) (a : Fld6) (d : Fld6) (h : Hart) : VInfo :=
  h.maskInfo .arithA (lowVV 0x17 5 cv mk d a b) cv mk d [a, b] [] [] false

/-- vcmp.ge mD, vA, vB (R279, R280). -/
def execVcmpGeVv (cv : Bool) (mk : Bool) (b : Fld6) (a : Fld6) (d : Fld6) (s : State) : Host.Outcome State Fault Refusal :=
  runVector (vcmpGeVvInfo cv mk b a d s.hart) false (compareVV relGe false mk d a b) s

/-- vcmp.ge mD, vA, gG (R279, R280): what issue needs to know. -/
def vcmpGeVxInfo (cv : Bool) (mk : Bool) (g : GReg) (a : Fld6) (d : Fld6) (h : Hart) : VInfo :=
  h.maskInfo .arithA (lowVX false 0x18 5 cv mk d a g) cv mk d [a] [] [g] false

/-- vcmp.ge mD, vA, gG (R279, R280). -/
def execVcmpGeVx (cv : Bool) (mk : Bool) (g : GReg) (a : Fld6) (d : Fld6) (s : State) : Host.Outcome State Fault Refusal :=
  runVector (vcmpGeVxInfo cv mk g a d s.hart) false (compareVX relGe false mk d a g) s

/-! MAJ 0x1C and 0x1D (R282). -/

/-- The terms that vwmac and vsad add (R282). -/
def termMac (a b : Int) : Int := a * b
def termSad (a b : Int) : Int := ((a - b).natAbs : Int)

/-- vwmac vD, vA, vB (R282): what issue needs to know. -/
def vwmacVvInfo (cv : Bool) (mk : Bool) (b : Fld6) (a : Fld6) (d : Fld6) (h : Hart) : VInfo :=
  (h.arithInfo .arithA (lowVV 0x1C 0 cv mk d a b) 4 cv mk d 2 true [(a, 1), (b, 1)] []).canSat h

/-- vwmac vD, vA, vB (R282). -/
def execVwmacVv (cv : Bool) (mk : Bool) (b : Fld6) (a : Fld6) (d : Fld6) (s : State) : Host.Outcome State Fault Refusal :=
  runVector (vwmacVvInfo cv mk b a d s.hart) false (widenVV termMac mk d a b) s

/-- vsad vD, vA, vB (R282): what issue needs to know. -/
def vsadInfo (cv : Bool) (mk : Bool) (b : Fld6) (a : Fld6) (d : Fld6) (h : Hart) : VInfo :=
  (h.arithInfo .arithA (lowVV 0x1C 1 cv mk d a b) 4 cv mk d 2 true [(a, 1), (b, 1)] []).canSat h

/-- vsad vD, vA, vB (R282). -/
def execVsad (cv : Bool) (mk : Bool) (b : Fld6) (a : Fld6) (d : Fld6) (s : State) : Host.Outcome State Fault Refusal :=
  runVector (vsadInfo cv mk b a d s.hart) false (widenVV termSad mk d a b) s

/-- vwmac vD, vA, gG (R282): what issue needs to know. -/
def vwmacVxInfo (cv : Bool) (mk : Bool) (g : GReg) (a : Fld6) (d : Fld6) (h : Hart) : VInfo :=
  (h.arithInfo .arithA (lowVX false 0x1D 0 cv mk d a g) 4 cv mk d 2 true [(a, 1)] [g]).canSat h

/-- vwmac vD, vA, gG (R282). -/
def execVwmacVx (cv : Bool) (mk : Bool) (g : GReg) (a : Fld6) (d : Fld6) (s : State) : Host.Outcome State Fault Refusal :=
  runVector (vwmacVxInfo cv mk g a d s.hart) false (widenVX termMac mk d a g) s

/-- vnshr vD, vA, gG (R282): what issue needs to know. -/
def vnshrInfo (cv : Bool) (mk : Bool) (g : GReg) (a : Fld6) (d : Fld6) (h : Hart) : VInfo :=
  (h.arithInfo .arithA (lowVX false 0x1D 1 cv mk d a g) 4 cv mk d 1 false [(a, 2)] [g]).canSat h

/-- vnshr vD, vA, gG (R282). -/
def execVnshr (cv : Bool) (mk : Bool) (g : GReg) (a : Fld6) (d : Fld6) (s : State) : Host.Outcome State Fault Refusal :=
  runVector (vnshrInfo cv mk g a d s.hart) false (narrowV mk d a g) s

/-- vclip vD, vA, gG (R282): what issue needs to know. -/
def vclipInfo (cv : Bool) (mk : Bool) (g : GReg) (a : Fld6) (d : Fld6) (h : Hart) : VInfo :=
  (h.arithInfo .arithA (lowVX false 0x1D 2 cv mk d a g) 4 cv mk d 1 false [(a, 1)] [g]).canSat h

/-- vclip vD, vA, gG (R282). -/
def execVclip (cv : Bool) (mk : Bool) (g : GReg) (a : Fld6) (d : Fld6) (s : State) : Host.Outcome State Fault Refusal :=
  runVector (vclipInfo cv mk g a d s.hart) false (clipV mk d a g) s

/-! Compact forms (R17, R18, R297): the first source is the last vector destination L. -/

/-- The last vector destination as a register field (R17). -/
def Hart.last (h : Hart) : Fld6 := BitVec.ofNat 6 h.lastDest

/-- The B field of a compact form as a register field: v0 to v31 (R17). -/
def compactB (b : GReg) : Fld6 := b.setWidth 6

/-- c.vadd vD, vB (R18): what issue needs to know. -/
def cVaddInfo (b : GReg) (d : Fld6) (h : Hart) : VInfo :=
  (h.arithInfo .arithA (lowC16 0 d b) 2 false false d 1 false [(h.last, 1), (compactB b, 1)] []).canSat h

/-- c.vadd vD, vB (R18). -/
def execCVadd (b : GReg) (d : Fld6) (s : State) : Host.Outcome State Fault Refusal :=
  runVector (cVaddInfo b d s.hart) false (binaryVV true true opAdd false d s.hart.last (compactB b)) s

/-- c.vsub vD, vB (R18): what issue needs to know. -/
def cVsubInfo (b : GReg) (d : Fld6) (h : Hart) : VInfo :=
  (h.arithInfo .arithA (lowC16 1 d b) 2 false false d 1 false [(h.last, 1), (compactB b, 1)] []).canSat h

/-- c.vsub vD, vB (R18). -/
def execCVsub (b : GReg) (d : Fld6) (s : State) : Host.Outcome State Fault Refusal :=
  runVector (cVsubInfo b d s.hart) false (binaryVV true true opSub false d s.hart.last (compactB b)) s

/-- c.vmul vD, vB (R18): what issue needs to know. -/
def cVmulInfo (b : GReg) (d : Fld6) (h : Hart) : VInfo :=
  (h.arithInfo .arithA (lowC16 2 d b) 2 false false d 1 false [(h.last, 1), (compactB b, 1)] []).canSat h

/-- c.vmul vD, vB (R18). -/
def execCVmul (b : GReg) (d : Fld6) (s : State) : Host.Outcome State Fault Refusal :=
  runVector (cVmulInfo b d s.hart) false (binaryVV true true opMul false d s.hart.last (compactB b)) s

/-- c.vfma vD, vB (R18): what issue needs to know. -/
def cVfmaInfo (b : GReg) (d : Fld6) (h : Hart) : VInfo :=
  (h.arithInfo .arithA (lowC16 3 d b) 2 false false d 1 true [(h.last, 1), (compactB b, 1)] []).canSat h

/-- c.vfma vD, vB (R18). -/
def execCVfma (b : GReg) (d : Fld6) (s : State) : Host.Outcome State Fault Refusal :=
  runVector (cVfmaInfo b d s.hart) false (fmaV vfmaInt vfmaVal false d s.hart.last (compactB b)) s

/-- c.vmin vD, vB (R18): what issue needs to know. -/
def cVminInfo (b : GReg) (d : Fld6) (h : Hart) : VInfo :=
  (h.arithInfo .arithA (lowC16 4 d b) 2 false false d 1 false [(h.last, 1), (compactB b, 1)] []).canSat h

/-- c.vmin vD, vB (R18). -/
def execCVmin (b : GReg) (d : Fld6) (s : State) : Host.Outcome State Fault Refusal :=
  runVector (cVminInfo b d s.hart) false (binaryVV true true opMin false d s.hart.last (compactB b)) s

/-- c.vmax vD, vB (R18): what issue needs to know. -/
def cVmaxInfo (b : GReg) (d : Fld6) (h : Hart) : VInfo :=
  (h.arithInfo .arithA (lowC16 5 d b) 2 false false d 1 false [(h.last, 1), (compactB b, 1)] []).canSat h

/-- c.vmax vD, vB (R18). -/
def execCVmax (b : GReg) (d : Fld6) (s : State) : Host.Outcome State Fault Refusal :=
  runVector (cVmaxInfo b d s.hart) false (binaryVV true true opMax false d s.hart.last (compactB b)) s

/-- c.vand vD, vB (R18): what issue needs to know. -/
def cVandInfo (b : GReg) (d : Fld6) (h : Hart) : VInfo :=
  (h.arithInfo .arithA (lowC16 6 d b) 2 false false d 1 false [(h.last, 1), (compactB b, 1)] []).canSat h

/-- c.vand vD, vB (R18). -/
def execCVand (b : GReg) (d : Fld6) (s : State) : Host.Outcome State Fault Refusal :=
  runVector (cVandInfo b d s.hart) false (binaryVV true true opAnd false d s.hart.last (compactB b)) s

/-- c.vor vD, vB (R18): what issue needs to know. -/
def cVorInfo (b : GReg) (d : Fld6) (h : Hart) : VInfo :=
  (h.arithInfo .arithA (lowC16 7 d b) 2 false false d 1 false [(h.last, 1), (compactB b, 1)] []).canSat h

/-- c.vor vD, vB (R18). -/
def execCVor (b : GReg) (d : Fld6) (s : State) : Host.Outcome State Fault Refusal :=
  runVector (cVorInfo b d s.hart) false (binaryVV true true opOr false d s.hart.last (compactB b)) s

/-- c.vxor vD, vB (R18): what issue needs to know. -/
def cVxorInfo (b : GReg) (d : Fld6) (h : Hart) : VInfo :=
  (h.arithInfo .arithA (lowC16 8 d b) 2 false false d 1 false [(h.last, 1), (compactB b, 1)] []).canSat h

/-- c.vxor vD, vB (R18). -/
def execCVxor (b : GReg) (d : Fld6) (s : State) : Host.Outcome State Fault Refusal :=
  runVector (cVxorInfo b d s.hart) false (binaryVV true true opXor false d s.hart.last (compactB b)) s

/-- c.vmov vD, vB (R18): what issue needs to know. -/
def cVmovInfo (b : GReg) (d : Fld6) (h : Hart) : VInfo :=
  (h.arithInfo .arithA (lowC16 9 d b) 2 false false d 1 false [(compactB b, 1)] []).canSat h

/-- c.vmov vD, vB (R18). -/
def execCVmov (b : GReg) (d : Fld6) (s : State) : Host.Outcome State Fault Refusal :=
  runVector (cVmovInfo b d s.hart) false (moveV false d (compactB b)) s

/-- c.vabs vD, vB (R18): what issue needs to know. -/
def cVabsInfo (b : GReg) (d : Fld6) (h : Hart) : VInfo :=
  (h.arithInfo .arithA (lowC16 10 d b) 2 false false d 1 false [(compactB b, 1)] []).canSat h

/-- c.vabs vD, vB (R18). -/
def execCVabs (b : GReg) (d : Fld6) (s : State) : Host.Outcome State Fault Refusal :=
  runVector (cVabsInfo b d s.hart) false (unaryV true opAbs false d (compactB b)) s

/-- c.vneg vD, vB (R18): what issue needs to know. -/
def cVnegInfo (b : GReg) (d : Fld6) (h : Hart) : VInfo :=
  (h.arithInfo .arithA (lowC16 11 d b) 2 false false d 1 false [(compactB b, 1)] []).canSat h

/-- c.vneg vD, vB (R18). -/
def execCVneg (b : GReg) (d : Fld6) (s : State) : Host.Outcome State Fault Refusal :=
  runVector (cVnegInfo b d s.hart) false (unaryV true opNeg false d (compactB b)) s

/-- c.vsadd vD, vB (R18): what issue needs to know. -/
def cVsaddInfo (b : GReg) (d : Fld6) (h : Hart) : VInfo :=
  (h.arithInfo .arithA (lowC16 12 d b) 2 false false d 1 false [(h.last, 1), (compactB b, 1)] []).canSat h

/-- c.vsadd vD, vB (R18). -/
def execCVsadd (b : GReg) (d : Fld6) (s : State) : Host.Outcome State Fault Refusal :=
  runVector (cVsaddInfo b d s.hart) false (binaryVV true false opSadd false d s.hart.last (compactB b)) s

/-- c.vssub vD, vB (R18): what issue needs to know. -/
def cVssubInfo (b : GReg) (d : Fld6) (h : Hart) : VInfo :=
  (h.arithInfo .arithA (lowC16 13 d b) 2 false false d 1 false [(h.last, 1), (compactB b, 1)] []).canSat h

/-- c.vssub vD, vB (R18). -/
def execCVssub (b : GReg) (d : Fld6) (s : State) : Host.Outcome State Fault Refusal :=
  runVector (cVssubInfo b d s.hart) false (binaryVV true false opSsub false d s.hart.last (compactB b)) s

/-- c.vavg vD, vB (R18): what issue needs to know. -/
def cVavgInfo (b : GReg) (d : Fld6) (h : Hart) : VInfo :=
  (h.arithInfo .arithA (lowC16 14 d b) 2 false false d 1 false [(h.last, 1), (compactB b, 1)] []).canSat h

/-- c.vavg vD, vB (R18). -/
def execCVavg (b : GReg) (d : Fld6) (s : State) : Host.Outcome State Fault Refusal :=
  runVector (cVavgInfo b d s.hart) false (binaryVV true false opAvg false d s.hart.last (compactB b)) s

end Sys2Proof.Machine
end

