-- ==== Sys2Proof/Machine/VecReduce.lean ====
section
/-! DEFINITION. Reductions and scans, MAJ 0x1E FN 0x0 to 0x8 (R284-R287, R235). -/
namespace Sys2Proof.Machine

/-- The codes of the active elements of an operand below `n`, read in ascending order before anything is written (R287). -/
def readActive (A : VOp) (st : Tag) (mk : Bool) (n : Nat) : M (List (Option Nat)) :=
  collect (fun i => atElem i (do
    if ← activeM mk i then return some (← readCode A st i) else return none)) n 0

/-- A value, the flags its computation set and whether a rounding on the way saturated. -/
abbrev Acc3 := Val × W64 × Bool

/-- Two nodes of the tree combined: rounded to nearest even, or left exact at the root (R235). -/
def treeNode (c : Csr) (st : Tag) (root : Bool) (a b : Val) : Acc3 :=
  let (v, f) := Val.add (root && c.mode == 2) a b
  if root then (v, f, false) else (EOut.ofVal v f).asVal c st

/-- One level of the tree: nodes 2j and 2j+1 combined into node j; a lone present child passes up unchanged (R235). -/
def treeLevel (c : Csr) (st : Tag) (root : Bool) : List (Option Val) → List (Option Val) × W64 × Bool
  | a :: b :: r =>
    let (l, f, s) := treeLevel c st root r
    match a, b with
    | some x, some y => let (v, g, t) := treeNode c st root x y; (some v :: l, f ||| g, s || t)
    | some x, none => (some x :: l, f, s)
    | none, y => (y :: l, f, s)
  | l => (l, 0, false)

/-- The tree sum of R235, with fuel for its levels: the exact root, or none where no element is present. -/
def treeSum (c : Csr) (st : Tag) : Nat → List (Option Val) → Option Val × W64 × Bool
  | 0, _ => (none, 0, false)
  | _, [] => (none, 0, false)
  | _, [a] => (a, 0, false)
  | n + 1, l =>
    let (l', f, s) := treeLevel c st (decide (l.length = 2)) l
    let (v, g, t) := treeSum c st n l'
    (v, f ||| g, s || t)

/-- The sequential sum of vredo.sum (R235): each addition but the last rounded under FRM.MODE, with RNE in place of SR. -/
def seqSum (c : Csr) (st : Tag) : Val → List Val → Acc3
  | v, [] => (v, 0, false)
  | v, [a] => let (x, f) := Val.add (c.mode == 2) v a; (x, f, false)
  | v, a :: r =>
    let (x, f) := Val.add (c.mode == 2) v a
    let (y, s) :=
      if st.isInt then (x, ({ code := 0, flags := 0, sat := false } : Rounded))
      else
        let k := st.round (if c.mode = 5 then (c.rnd 0).rne else c.rnd 0) x
        (st.decode c.ftz k.code, k)
    let (z, g, t) := seqSum c st y r
    (z, f ||| s.flags ||| g, s.sat || t)

/-- The sum of a list of values under an operation without rounding: minimum, maximum. -/
def foldVals (f : Val → Val → Val × W64) : Val → List Val → Val × W64
  | v, [] => (v, 0)
  | v, a :: r =>
    let (x, g) := f v a
    let (y, k) := foldVals f x r
    (y, g ||| k)

/-- The lowest and the highest value of a tag, where a maximum and a minimum start (R285). -/
def Tag.lowest (t : Tag) : Val := if t.isInt then .ofInt t.minInt else .inf true
def Tag.highest (t : Tag) : Val := if t.isInt then .ofInt t.maxInt else .inf false

/-- Writes element 0 of a reduction's destination whatever the mask policy, and its tail from element 1 (R285). -/
def writeElem0 (D : VOp) (dt st : Tag) (r : EOut) : M Unit := do
  if dt.isBx then
    bxWrite D dt 0 0 1 (fun _ => pure true) (fun _ => do return r.asVal (← getH).csr st)
    tailFrom D dt 32
    tailFrom D.scale .bxs 1
  else
    atElem 0 (writeOut D st dt 0 r)
    tailFrom D dt 1

/-- A reduction of vA (R284, R285): everything it needs is read first; `f` gives the result from the active codes in order. -/
def reduceV (floats : Bool) (f : Csr → Tag → List (Option Nat) → EOut) (mk : Bool) (d a : Fld6) : M Ctl := do
  let h ← getH
  let A := h.vop a
  let D := h.vop d
  let st := h.opTag A
  let dt := h.opTag D
  check (srcOk true floats st && dstOk D dt st && h.operandsOk D dt [(A, st)] true) (operandTrap qVq)
  withSources mk (vecSrcs [(A, st)]) do
    let xs ← readActive A st mk h.bounds.hi
    whenFull (do writeElem0 D dt st (f (← getH).csr st xs))
  return .seq

/-- The values of active codes. -/
def valsOf (c : Csr) (st : Tag) (xs : List (Option Nat)) : List (Option Val) := xs.map (fun x => x.map (st.decode c.ftz))

/-- NV where a value among the inputs is a NaN (R218, R229). -/
def nanFlag (vs : List Val) : W64 := if vs.any Val.isNan then flNV else 0

/-- vred.sum: the tree of R235; +0 or 0 where nothing is active (R285). (DEDUCED, log 23.) -/
def redSum (c : Csr) (st : Tag) (xs : List (Option Nat)) : EOut :=
  let vs := valsOf c st xs
  let (v, f, s) := treeSum c st 20 vs
  { v := .exact (v.getD (.zero false)), flags := f ||| nanFlag (vs.filterMap id), sat := s }

/-- vred.max and vred.min compare as vmax and vmin do (R285); the root is rounded under FRM, and takes its draw under SR (R230, R235). -/
def redMax (c : Csr) (st : Tag) (xs : List (Option Nat)) : EOut :=
  let (v, f) := foldVals valMax st.lowest ((valsOf c st xs).filterMap id)
  .ofVal v f
def redMin (c : Csr) (st : Tag) (xs : List (Option Nat)) : EOut :=
  let (v, f) := foldVals valMin st.highest ((valsOf c st xs).filterMap id)
  .ofVal v f

/-- vred.and and vred.or act on codes (R285). -/
def redAnd (_ : Csr) (st : Tag) (xs : List (Option Nat)) : EOut := .ofCode ((xs.filterMap id).foldl (· &&& ·) (2 ^ st.bits - 1))
def redOr (_ : Csr) (_ : Tag) (xs : List (Option Nat)) : EOut := .ofCode ((xs.filterMap id).foldl (· ||| ·) 0)

/-- vredo.sum: from element 0 of vB, in ascending order (R285, R235). -/
def reduceOrdered (mk : Bool) (d a b : Fld6) : M Ctl := do
  let h ← getH
  let A := h.vop a
  let B := h.vop b
  let D := h.vop d
  let st := h.opTag A
  let dt := h.opTag D
  check (h.opTag B == st && srcOk true true st && dstOk D dt st && h.operandsOk D dt [(A, st), (B, st)] true) (operandTrap qVq)
  withSources mk (vecSrcs [(A, st)]) do
    let xs ← readActive A st mk h.bounds.hi
    let x0 ← atElem 0 (readCode B st 0)
    whenFull (do
      let c := (← getH).csr
      let v0 := st.decode c.ftz x0
      let vs := (valsOf c st xs).filterMap id
      let (v, f, s) := seqSum c st v0 vs
      writeElem0 D dt st { v := .exact v, flags := f ||| nanFlag (v0 :: vs), sat := s })
  return .seq

/-! Scans. -/

/-- A scan's operation on its running value and an active element: the running value after it, and what the element receives (R286). -/
abbrev ScanOp := Csr → Tag → Val → Val → Val × EOut

/-- What each element of a scan receives, by the active codes in order (R286). -/
def scanOuts (c : Csr) (st : Tag) (op : ScanOp) : Val → List (Option Nat) → List EOut
  | _, [] => []
  | v, none :: r => EOut.ofVal v 0 :: scanOuts c st op v r
  | v, some x :: r =>
    let (v', o) := op c st v (st.decode c.ftz x)
    o :: scanOuts c st op v' r

/-- A scan (R286): every active source element is read before anything is written. A resumed scan carries the elements below ESTART again without writing
or drawing (R287). Where its convoy stops below VL, an element from the stop on has been written only where every source up to it could be read. -/
def scanV (start : Tag → Val) (op : ScanOp) (mk : Bool) (d a : Fld6) : M Ctl := do
  let h ← getH
  let A := h.vop a
  let D := h.vop d
  let st := h.opTag A
  let dt := h.opTag D
  check (srcOk true true st && dstOk D dt st && h.operandsOk D dt [(A, st)] true) (operandTrap qVq)
  let xs ← readActive A st mk h.bounds.hi
  let outs := (scanOuts h.csr st op (start st) xs).toArray
  elementwiseOn D dt st mk (vecSrcs [(A, st)]) (reads := fun i => List.range (i + 1)) (fun i => do
    if i < h.bounds.hi then return outs.getD i (.ofVal (start st) 0)
    else
      let xs ← readActive A st mk (i + 1)
      return (scanOuts h.csr st op (start st) xs).getD i (.ofVal (start st) 0))
  return .seq

/-- vscan.add: the carry is rounded to nearest even at each step, as the instruction's own rule says; what is written is the exact sum of the value before and the
element, rounded under FRM (R286). R235 gives every step FRM.MODE. (DEDUCED, log 23.) -/
def scanAdd : ScanOp := fun c st v a =>
  let (x, f) := Val.add (c.mode == 2) v a
  if st.isInt then (x, .ofVal x f)
  else
    let k := st.round (c.rnd 0).rne x
    (st.decode c.ftz k.code, { v := .exact x, flags := f ||| k.flags, sat := k.sat })
def scanMax : ScanOp := fun _ _ v a => let (x, f) := valMax v a; (x, .ofVal x f)
def scanMin : ScanOp := fun _ _ v a => let (x, f) := valMin v a; (x, .ofVal x f)

/-- The start value of a sum: 0, or +0 (R285). -/
def zeroStart (_ : Tag) : Val := .zero false

/-- vred.sum vD, vA (R284): what issue needs to know. -/
def vredSumInfo (cv : Bool) (mk : Bool) (a : Fld6) (d : Fld6) (h : Hart) : VInfo :=
  (h.arithInfo .arithB (lowVV 0x1E 0 cv mk d a 0) 4 cv mk d 1 false [(a, 1)] []).canSat h

/-- vred.sum vD, vA (R284). -/
def execVredSum (cv : Bool) (mk : Bool) (a : Fld6) (d : Fld6) (s : State) : Host.Outcome State Fault Refusal :=
  runVector (vredSumInfo cv mk a d s.hart) false (reduceV true redSum mk d a) s

/-- vred.max vD, vA (R284): what issue needs to know. -/
def vredMaxInfo (cv : Bool) (mk : Bool) (a : Fld6) (d : Fld6) (h : Hart) : VInfo :=
  (h.arithInfo .arithB (lowVV 0x1E 1 cv mk d a 0) 4 cv mk d 1 false [(a, 1)] []).canSat h

/-- vred.max vD, vA (R284). -/
def execVredMax (cv : Bool) (mk : Bool) (a : Fld6) (d : Fld6) (s : State) : Host.Outcome State Fault Refusal :=
  runVector (vredMaxInfo cv mk a d s.hart) false (reduceV true redMax mk d a) s

/-- vred.min vD, vA (R284): what issue needs to know. -/
def vredMinInfo (cv : Bool) (mk : Bool) (a : Fld6) (d : Fld6) (h : Hart) : VInfo :=
  (h.arithInfo .arithB (lowVV 0x1E 2 cv mk d a 0) 4 cv mk d 1 false [(a, 1)] []).canSat h

/-- vred.min vD, vA (R284). -/
def execVredMin (cv : Bool) (mk : Bool) (a : Fld6) (d : Fld6) (s : State) : Host.Outcome State Fault Refusal :=
  runVector (vredMinInfo cv mk a d s.hart) false (reduceV true redMin mk d a) s

/-- vred.and vD, vA (R284): what issue needs to know. -/
def vredAndInfo (cv : Bool) (mk : Bool) (a : Fld6) (d : Fld6) (h : Hart) : VInfo :=
  (h.arithInfo .arithB (lowVV 0x1E 3 cv mk d a 0) 4 cv mk d 1 false [(a, 1)] []).canSat h

/-- vred.and vD, vA (R284). -/
def execVredAnd (cv : Bool) (mk : Bool) (a : Fld6) (d : Fld6) (s : State) : Host.Outcome State Fault Refusal :=
  runVector (vredAndInfo cv mk a d s.hart) false (reduceV false redAnd mk d a) s

/-- vred.or vD, vA (R284): what issue needs to know. -/
def vredOrInfo (cv : Bool) (mk : Bool) (a : Fld6) (d : Fld6) (h : Hart) : VInfo :=
  (h.arithInfo .arithB (lowVV 0x1E 4 cv mk d a 0) 4 cv mk d 1 false [(a, 1)] []).canSat h

/-- vred.or vD, vA (R284). -/
def execVredOr (cv : Bool) (mk : Bool) (a : Fld6) (d : Fld6) (s : State) : Host.Outcome State Fault Refusal :=
  runVector (vredOrInfo cv mk a d s.hart) false (reduceV false redOr mk d a) s

/-- vredo.sum vD, vA, vB (R284): what issue needs to know. -/
def vredoSumInfo (cv : Bool) (mk : Bool) (b : Fld6) (a : Fld6) (d : Fld6) (h : Hart) : VInfo :=
  (h.arithInfo .arithB (lowVV 0x1E 5 cv mk d a b) 4 cv mk d 1 false [(a, 1), (b, 1)] []).canSat h

/-- vredo.sum vD, vA, vB (R284). -/
def execVredoSum (cv : Bool) (mk : Bool) (b : Fld6) (a : Fld6) (d : Fld6) (s : State) : Host.Outcome State Fault Refusal :=
  runVector (vredoSumInfo cv mk b a d s.hart) false (reduceOrdered mk d a b) s

/-- vscan.add vD, vA (R284): what issue needs to know. -/
def vscanAddInfo (cv : Bool) (mk : Bool) (a : Fld6) (d : Fld6) (h : Hart) : VInfo :=
  (h.arithInfo .arithB (lowVV 0x1E 6 cv mk d a 0) 4 cv mk d 1 false [(a, 1)] []).canSat h

/-- vscan.add vD, vA (R284). (DEDUCED, log 23.) -/
def execVscanAdd (cv : Bool) (mk : Bool) (a : Fld6) (d : Fld6) (s : State) : Host.Outcome State Fault Refusal :=
  runVector (vscanAddInfo cv mk a d s.hart) false (scanV zeroStart scanAdd mk d a) s

/-- vscan.max vD, vA (R284): what issue needs to know. -/
def vscanMaxInfo (cv : Bool) (mk : Bool) (a : Fld6) (d : Fld6) (h : Hart) : VInfo :=
  (h.arithInfo .arithB (lowVV 0x1E 7 cv mk d a 0) 4 cv mk d 1 false [(a, 1)] []).canSat h

/-- vscan.max vD, vA (R284). -/
def execVscanMax (cv : Bool) (mk : Bool) (a : Fld6) (d : Fld6) (s : State) : Host.Outcome State Fault Refusal :=
  runVector (vscanMaxInfo cv mk a d s.hart) false (scanV Tag.lowest scanMax mk d a) s

/-- vscan.min vD, vA (R284): what issue needs to know. -/
def vscanMinInfo (cv : Bool) (mk : Bool) (a : Fld6) (d : Fld6) (h : Hart) : VInfo :=
  (h.arithInfo .arithB (lowVV 0x1E 8 cv mk d a 0) 4 cv mk d 1 false [(a, 1)] []).canSat h

/-- vscan.min vD, vA (R284). -/
def execVscanMin (cv : Bool) (mk : Bool) (a : Fld6) (d : Fld6) (s : State) : Host.Outcome State Fault Refusal :=
  runVector (vscanMinInfo cv mk a d s.hart) false (scanV Tag.highest scanMin mk d a) s

end Sys2Proof.Machine
end

