-- ==== Sys2Proof/Machine/VecPermute.lean ====
section
/-! DEFINITION. Permutes and mask counts, MAJ 0x1E FN 0x9 to 0xD and MAJ 0x1F (R288-R296). -/
namespace Sys2Proof.Machine

/-- The tags whose codes the permutes move: integer and float tags, and BXS, which R226 names (R209). -/
def Tag.permutes (t : Tag) : Bool := t.isInt || t.isFloat || t == .bxs

/-- The operand checks of a permute that copies codes (R288): the destination carries the data's tag. (DEDUCED, log 31; DEDUCED, log 33.) -/
def permOk (h : Hart) (D A : VOp) (t : Tag) (srcs : List (VOp × Tag)) : Bool :=
  t.permutes && h.opTag A == t && h.groupOk D t && srcs.all (fun x => h.groupOk x.1 x.2) && srcs.all (fun x => !D.meets x.1)

/-- The tail of a permute's destination from VL. -/
def permTail (D : VOp) (t : Tag) : M Unit := whenFull (do tailFrom D t (← getH).csr.vlN)

/-- vrgather (R290). -/
def gatherV (mk : Bool) (d a b : Fld6) : M Ctl := do
  let h ← getH
  let A := h.vop a
  let B := h.vop b
  let D := h.vop d
  let t := h.opTag D
  let it := h.opTag B
  check (it.isInt && permOk h D A t [(A, t), (B, it)]) (operandTrap qVq)
  let s ← getS
  let at' := (List.range h.csr.vlN).map (fun i => let x := s.codeOf B it i; if x < h.csr.vlN then some x else none)
  withSources mk [.vec B it, .picked A t at'] do
    elementLoop (free := true) (reads := fun i => i :: ((at'.getD i none).toList)) (fun i => do
      if ← activeM mk i then
        let x ← readCode B it i
        if x < h.csr.vlN then
          let v ← readCode A t x
          writeCode D t i v
        else writeCode D t i 0
      else inactiveElem D t i)
    permTail D t
  return .seq

/-- A slide (R289). Going up, elements below s stay; going down, elements past VL read as zero. -/
def slideV (up : Bool) (mk : Bool) (d a : Fld6) (g : GReg) : M Ctl := do
  let h ← getH
  let A := h.vop a
  let D := h.vop d
  let t := h.opTag D
  let s := (h.gr g).toNat
  check (permOk h D A t [(A, t)]) (operandTrap qVq)
  let stays := fun (i : Nat) => up && decide (i < s)
  let at' := fun (i : Nat) => if up then i - s else i + s
  let read := fun (i : Nat) => if stays i || decide (h.csr.vlN ≤ at' i) then none else some (at' i)
  withSources mk [.picked A t ((List.range h.csr.vlN).map read)] do
    elementLoop (free := true) (reads := fun i => i :: (read i).toList) (fun i => do
      if stays i then pure ()
      else if ← activeM mk i then
        match read i with
        | some x =>
          let v ← readCode A t x
          writeCode D t i v
        | none => writeCode D t i 0
      else inactiveElem D t i)
    permTail D t
  return .seq

/-- The number of active elements below n of a mask whose codes are listed. -/
def countBelow (ms : List Nat) (n : Nat) : Nat := ((ms.take n).filter activeCode).length

/-- The element of a mask that a permute reads: a poisoned word of it ends the instruction (R263). -/
def cleanMask (j i : Nat) : M Unit := do needOwnClean ((← getH).maskKeys j i) qVq

/-- vcompress (R291). -/
def compressV (d a b : Fld6) : M Ctl := do
  let h ← getH
  let A := h.vop a
  let D := h.vop d
  let t := h.opTag D
  check (permOk h D A t [(A, t)] && h.maskOk) (operandTrap qVq)
  let ms ← collect (peekMask b.toNat) h.csr.vlN 0
  let at' := (ms.zip (List.range h.csr.vlN)).map (fun x => if activeCode x.1 then some x.2 else none)
  withSources false [.picked A t at', .mask b.toNat] do
    elementLoop (free := true) (reads := fun j => List.range (j + 1)) (fun j => do
      cleanMask b.toNat j
      if activeCode (ms.getD j 0) then
        let v ← readCode A t j
        writeCode D t (countBelow ms j) v
      else pure ())
    whenFull (tailFrom D t (countBelow ms h.csr.vlN))
  return .seq

/-- vexpand (R291). -/
def expandV (d a b : Fld6) : M Ctl := do
  let h ← getH
  let A := h.vop a
  let D := h.vop d
  let t := h.opTag D
  check (permOk h D A t [(A, t)] && h.maskOk) (operandTrap qVq)
  let ms ← collect (peekMask b.toNat) h.csr.vlN 0
  let at' := (ms.zip (List.range h.csr.vlN)).map (fun x => if activeCode x.1 then some (countBelow ms x.2) else none)
  withSources false [.picked A t at', .mask b.toNat] do
    elementLoop (free := true) (reads := fun i => List.range (i + 1)) (fun i => do
      cleanMask b.toNat i
      if activeCode (ms.getD i 0) then
        let v ← readCode A t (countBelow ms i)
        writeCode D t i v
      else inactiveElem D t i)
    permTail D t
  return .seq

/-- An element moved with vmov's conversion (R277): the code under a tag, or the value of a BX element, which a destination rounds from FP64. -/
def moveOut (o : VOp) (t : Tag) (i : Nat) (q : Nat := qVq) : M EOut := do
  if t.isBx then return .ofVal (← readVal o t i q) 0 else return .ofCode (← readCode o t i q)

/-- The tag a moved element is computed in. -/
def Tag.moveTag (t : Tag) : Tag := if t.isBx then .f64 else t

/-- vmerge.m (R292): every element below VL is written, and under SR takes one draw. -/
def mergeV (d a b : Fld6) : M Ctl := do
  let h ← getH
  let A := h.vop a
  let B := h.vop b
  let D := h.vop d
  let t := h.opTag A
  let dt := h.opTag D
  check (h.opTag B == t && t != .bxs && dstOk D dt t && h.operandsOk D dt [(A, t), (B, t)] false) (operandTrap qVq)
  let pick := fun (i : Nat) => do return if activeCode (← readMask 0 i) then A else B
  let s ← getS
  let from' := fun (act : Bool) => (List.range h.csr.vlN).map (fun i => if s.active true i == act then some i else none)
  let scales := fun (o : VOp) (act : Bool) => if t.isBx then [Src.picked o.scale .bxs ((from' act).map (Option.map (fun i => i / 32)))] else []
  let srcs := [.picked A t (from' true), .picked B t (from' false), .mask 0] ++ scales A true ++ scales B false
  withSources false srcs do
    if dt.isBx then
      bxLoop D dt (fun _ => pure true) (fun i => do
        let r ← moveOut (← pick i) t i
        return r.asVal (← getH).csr t.moveTag) (mayRunBlock h.csr (.vec D dt) false srcs)
    else
      elementLoop (free := mayRunAhead h.csr (.vec D dt) srcs) (fun i => do
        let o ← pick i
        if t = dt then
          let x ← readCode o t i
          let _ ← drawIf true
          writeCode D dt i x
        else
          let r ← moveOut o t i
          let k ← drawIf true
          writeRounded D dt i (r.convert (← getH).csr t.moveTag dt k))
      permTail D dt
  return .seq

/-- The registers of vtrans8 as operands of one register each. -/
def trans8Reg (d j : Nat) : VOp := .reg (d + j) 1

/-- Writes a square of codes, row by row. -/
def putSquare (d : Nat) (t : Tag) (b : Nat) : List (List Nat) → Nat → M Unit
  | [], _ => pure ()
  | row :: rest, j => do
    overRange (fun k => writeCode (trans8Reg d j) t (8 * b + k) (row.getD k 0)) row.length 0
    putSquare d t b rest (j + 1)

/-- Block b of vtrans8: read whole, then written transposed (R293). -/
def trans8Block (d : Nat) (t : Tag) (vl b : Nat) : M Unit := do
  let r := Nat.min 8 (vl - 8 * b)
  let new ← atElem (8 * b) (collect (fun j => collect (fun k => readCode (trans8Reg d k) t (8 * b + j)) r 0) r 0)
  putSquare d t b new 0

/-- vtrans8 (R293). -/
def trans8V (d : Fld6) : M Ctl := do
  let h ← getH
  let n := d.toNat
  let t := (h.vreg n).tag
  check (n % 8 == 0 && h.csr.lmul == 1 && decide (n + 7 < h.nv)) (operandTrap qVq)
  check (t.permutes && (List.range 8).all (fun j => (h.vreg (n + j)).tag == t && h.groupOk (trans8Reg n j) t)) (operandTrap qVq)
  let bd := h.bounds
  let last := if bd.full then (bd.hi + 7) / 8 else bd.hi / 8
  let rows := fun (k : Nat) => (List.range h.csr.vlN).map (fun i => if k < h.csr.vlN - 8 * (i / 8) then some i else none)
  withSources false ((List.range 8).map (fun k => .picked (trans8Reg n k) t (rows k))) do
    if bd.lo < bd.hi then overRange (trans8Block n t h.csr.vlN) (last - bd.lo / 8) (bd.lo / 8) else pure ()
    whenFull (overRange (fun j => tailFrom (trans8Reg n j) t h.csr.vlN) 8 0)
  return .seq

/-- An integer written to element i as by vmov (R294). -/
def countOut (n : Nat) : EOut := .ofInt n

/-- vid (R294). -/
def idV (mk : Bool) (d : Fld6) : M Ctl := do
  let h ← getH
  let D := h.vop d
  let dt := h.opTag D
  check (srcOk true true dt && h.groupOk D dt) (operandTrap qVq)
  elementwise D dt .u64 mk [] (fun i => return countOut i)
  return .seq

/-- Reads the first n mask elements before anything is written, and gives those that count for viota, mpopc and mfirst: active under MK and active themselves.
A poisoned one names no element (R263). -/
def needMask (j : Nat) (mk : Bool) (n : Nat) : M (List Nat) := do
  let cs ← collect (fun i => do
    if ← activeM mk i then return activeCode (← readMask j i) else return false) n 0
  return (List.range n).filter (fun i => cs.getD i false)

/-- viota (R294). The mask register OVFM names is a destination too, and may not be mA (R211, R261). -/
def iotaV (mk : Bool) (d a : Fld6) : M Ctl := do
  let h ← getH
  let D := h.vop d
  let dt := h.opTag D
  check (srcOk true true dt && h.groupOk D dt && h.maskOk && h.csr.ovfMask != some a.toNat) (operandTrap qVq)
  let on ← needMask a.toNat mk h.bounds.hi
  elementwiseOn D dt .u64 mk [.mask a.toNat] (reads := List.range) (fun i => do
    let on ← if i < h.bounds.hi then pure on else needMask a.toNat mk i
    return countOut (on.filter (fun x => decide (x < i))).length)
  return .seq

/-- vext (R295). -/
def extV (d : GReg) (a : Fld6) (g : GReg) : M Ctl := do
  let h ← getH
  let A := h.vop a
  let t := h.opTag A
  let i := (h.gr g).toNat
  check (t.permutes && h.groupRegs A) (operandTrap qVq)
  if i < h.opCount A t then
    let x ← readCode A t i
    whenFull (writeG d (if t.isInt then BitVec.ofInt 64 (t.intOf x) else BitVec.ofNat 64 x))
  else whenFull (writeG d 0)
  return .seq

/-- vins (R295). -/
def insV (d : Fld6) (a g : GReg) : M Ctl := do
  let h ← getH
  let D := h.vop d
  let t := h.opTag D
  let i := (h.gr a).toNat
  check (t.permutes && h.groupRegs D) (operandTrap qVq)
  if i < h.opCount D t then whenFull (writeCode D t i (scalarCode t (h.gr g))) else pure ()
  return .seq

/-- mpopc (R296). -/
def popcM (mk : Bool) (d : GReg) (a : Fld6) : M Ctl := do
  let h ← getH
  check h.maskOk (operandTrap qVq)
  let on ← needMask a.toNat mk h.bounds.hi
  withSources mk [.mask a.toNat] do
    whenFull (writeG d (BitVec.ofNat 64 on.length))
  return .seq

/-- mfirst (R296). -/
def firstM (mk : Bool) (d : GReg) (a : Fld6) : M Ctl := do
  let h ← getH
  check h.maskOk (operandTrap qVq)
  let on ← needMask a.toNat mk h.bounds.hi
  withSources mk [.mask a.toNat] do
    whenFull (writeG d (match on.head? with | some i => BitVec.ofNat 64 i | none => 0xFFFFFFFFFFFFFFFF))
  return .seq

/-- What issue needs to know of an instruction that writes a scalar register from a mask or a vector register. -/
def Hart.scalarOutInfo (cls : PClass) (low : W32) (cv : Bool) (vecOk maskOk : Bool) (reads : List Nat) (gs : List GReg) (d : GReg) : VInfo :=
  { cls := some cls, cv := cv, low := low, len := 4, ill := fieldIll vecOk maskOk, dest := none, reads := reads, writes := [], gReads := gs,
    gWrite := some d, bx := false, queue := qVq }

/-- Adds a mask operand to what issue needs to know. -/
def VInfo.withMask (v : VInfo) (h : Hart) (m : Fld6) : VInfo :=
  { v with ill := (match v.ill with | some n => some n | none => fieldIll true (decide (m.toNat < h.nm))), reads := v.reads ++ [maskCode m.toNat] }

/-- vrgather vD, vA, vB (R288): what issue needs to know. -/
def vrgatherInfo (cv : Bool) (mk : Bool) (b : Fld6) (a : Fld6) (d : Fld6) (h : Hart) : VInfo :=
  h.arithInfo .permute (lowVV 0x1E 9 cv mk d a b) 4 cv mk d 1 false [(a, 1), (b, 1)] []

/-- vrgather vD, vA, vB (R288). (DEDUCED, log 31.) -/
def execVrgather (cv : Bool) (mk : Bool) (b : Fld6) (a : Fld6) (d : Fld6) (s : State) : Host.Outcome State Fault Refusal :=
  runVector (vrgatherInfo cv mk b a d s.hart) false (gatherV mk d a b) s

/-- vcompress vD, vA, mB (R288): what issue needs to know. -/
def vcompressInfo (cv : Bool) (b : Fld6) (a : Fld6) (d : Fld6) (h : Hart) : VInfo :=
  (h.arithInfo .permute (lowVV 0x1E 10 cv false d a b) 4 cv false d 1 false [(a, 1)] []).withMask h b

/-- vcompress vD, vA, mB (R288). -/
def execVcompress (cv : Bool) (b : Fld6) (a : Fld6) (d : Fld6) (s : State) : Host.Outcome State Fault Refusal :=
  runVector (vcompressInfo cv b a d s.hart) false (compressV d a b) s

/-- vexpand vD, vA, mB (R288): what issue needs to know. -/
def vexpandInfo (cv : Bool) (b : Fld6) (a : Fld6) (d : Fld6) (h : Hart) : VInfo :=
  (h.arithInfo .permute (lowVV 0x1E 11 cv false d a b) 4 cv false d 1 false [(a, 1)] []).withMask h b

/-- vexpand vD, vA, mB (R288). -/
def execVexpand (cv : Bool) (b : Fld6) (a : Fld6) (d : Fld6) (s : State) : Host.Outcome State Fault Refusal :=
  runVector (vexpandInfo cv b a d s.hart) false (expandV d a b) s

/-- vmerge.m vD, vA, vB (R288): what issue needs to know. -/
def vmergeMInfo (cv : Bool) (b : Fld6) (a : Fld6) (d : Fld6) (h : Hart) : VInfo :=
  (h.arithInfo .permute (lowVV 0x1E 12 cv true d a b) 4 cv true d 1 false [(a, 1), (b, 1)] []).canSat h

/-- vmerge.m vD, vA, vB (R288). -/
def execVmergeM (cv : Bool) (b : Fld6) (a : Fld6) (d : Fld6) (s : State) : Host.Outcome State Fault Refusal :=
  runVector (vmergeMInfo cv b a d s.hart) false (mergeV d a b) s

/-- vtrans8 vD (R288): what issue needs to know. -/
def vtrans8Info (cv : Bool) (d : Fld6) (h : Hart) : VInfo :=
  { cls := some .permute, cv := cv, low := lowVV 0x1E 13 cv false d 0 0, len := 4, ill := fieldIll (h.vfld d) true, dest := some d
    reads := if d.toNat < h.nv then (VOp.reg d.toNat 8).regs else (h.vop d).regs
    writes := if d.toNat < h.nv then (VOp.reg d.toNat 8).regs else (h.vop d).regs
    gReads := [], gWrite := none, bx := false, queue := qVq }

/-- vtrans8 vD (R288). -/
def execVtrans8 (cv : Bool) (d : Fld6) (s : State) : Host.Outcome State Fault Refusal :=
  runVector (vtrans8Info cv d s.hart) false (trans8V d) s

/-- vid vD (R288): what issue needs to know. -/
def vidInfo (cv : Bool) (mk : Bool) (d : Fld6) (h : Hart) : VInfo :=
  (h.arithInfo .permute (lowVX false 0x1F 0 cv mk d 0 0) 4 cv mk d 1 false [] []).canSat h

/-- vid vD (R288). (DEDUCED, log 32.) -/
def execVid (cv : Bool) (mk : Bool) (d : Fld6) (s : State) : Host.Outcome State Fault Refusal :=
  runVector (vidInfo cv mk d s.hart) false (idV mk d) s

/-- viota vD, mA (R288): what issue needs to know. -/
def viotaInfo (cv : Bool) (mk : Bool) (a : Fld6) (d : Fld6) (h : Hart) : VInfo :=
  ((h.arithInfo .permute (lowVX false 0x1F 1 cv mk d a 0) 4 cv mk d 1 false [] []).withMask h a).canSat h

/-- viota vD, mA (R288). (DEDUCED, log 32.) -/
def execViota (cv : Bool) (mk : Bool) (a : Fld6) (d : Fld6) (s : State) : Host.Outcome State Fault Refusal :=
  runVector (viotaInfo cv mk a d s.hart) false (iotaV mk d a) s

/-- vslideup vD, vA, gG (R288): what issue needs to know. -/
def vslideupInfo (cv : Bool) (mk : Bool) (g : GReg) (a : Fld6) (d : Fld6) (h : Hart) : VInfo :=
  h.arithInfo .permute (lowVX false 0x1F 2 cv mk d a g) 4 cv mk d 1 false [(a, 1)] [g]

/-- vslideup vD, vA, gG (R288). -/
def execVslideup (cv : Bool) (mk : Bool) (g : GReg) (a : Fld6) (d : Fld6) (s : State) : Host.Outcome State Fault Refusal :=
  runVector (vslideupInfo cv mk g a d s.hart) false (slideV true mk d a g) s

/-- vslidedn vD, vA, gG (R288): what issue needs to know. -/
def vslidednInfo (cv : Bool) (mk : Bool) (g : GReg) (a : Fld6) (d : Fld6) (h : Hart) : VInfo :=
  h.arithInfo .permute (lowVX false 0x1F 3 cv mk d a g) 4 cv mk d 1 false [(a, 1)] [g]

/-- vslidedn vD, vA, gG (R288). -/
def execVslidedn (cv : Bool) (mk : Bool) (g : GReg) (a : Fld6) (d : Fld6) (s : State) : Host.Outcome State Fault Refusal :=
  runVector (vslidednInfo cv mk g a d s.hart) false (slideV false mk d a g) s

/-- vext gD, vA, gG (R288): what issue needs to know. -/
def vextInfo (cv : Bool) (g : GReg) (a : Fld6) (d : GReg) (h : Hart) : VInfo :=
  Hart.scalarOutInfo .permute (lowVX false 0x1F 4 cv false (d.setWidth 6) a g) cv (h.vfld a) true (h.vop a).regs [g] d

/-- vext gD, vA, gG (R288). -/
def execVext (cv : Bool) (g : GReg) (a : Fld6) (d : GReg) (s : State) : Host.Outcome State Fault Refusal :=
  runVector (vextInfo cv g a d s.hart) false (extV d a g) s

/-- vins vD, gG, gA (R288): what issue needs to know. -/
def vinsInfo (cv : Bool) (g : GReg) (a : GReg) (d : Fld6) (h : Hart) : VInfo :=
  h.arithInfo .permute (lowVX false 0x1F 5 cv false d (a.setWidth 6) g) 4 cv false d 1 false [] [g, a]

/-- vins vD, gG, gA (R288). -/
def execVins (cv : Bool) (g : GReg) (a : GReg) (d : Fld6) (s : State) : Host.Outcome State Fault Refusal :=
  runVector (vinsInfo cv g a d s.hart) false (insV d a g) s

/-- mpopc gD, mA (R288): what issue needs to know. -/
def mpopcInfo (cv : Bool) (mk : Bool) (a : Fld6) (d : GReg) (h : Hart) : VInfo :=
  Hart.scalarOutInfo .arithA (lowVX false 0x1F 6 cv mk (d.setWidth 6) a 0) cv true (decide (a.toNat < h.nm)) ([maskCode a.toNat] ++ if mk then [maskCode 0] else []) [] d

/-- mpopc gD, mA (R288). -/
def execMpopc (cv : Bool) (mk : Bool) (a : Fld6) (d : GReg) (s : State) : Host.Outcome State Fault Refusal :=
  runVector (mpopcInfo cv mk a d s.hart) false (popcM mk d a) s

/-- mfirst gD, mA (R288): what issue needs to know. -/
def mfirstInfo (cv : Bool) (mk : Bool) (a : Fld6) (d : GReg) (h : Hart) : VInfo :=
  Hart.scalarOutInfo .arithA (lowVX false 0x1F 7 cv mk (d.setWidth 6) a 0) cv true (decide (a.toNat < h.nm)) ([maskCode a.toNat] ++ if mk then [maskCode 0] else []) [] d

/-- mfirst gD, mA (R288). -/
def execMfirst (cv : Bool) (mk : Bool) (a : Fld6) (d : GReg) (s : State) : Host.Outcome State Fault Refusal :=
  runVector (mfirstInfo cv mk a d s.hart) false (firstM mk d a) s

end Sys2Proof.Machine
end

