-- ==== Sys2Proof/Machine/VecCfg.lean ====
section
/-! DEFINITION. Configuration and loop control, MAJ 0x24 (R264-R271). -/
namespace Sys2Proof.Machine

/-- Whether an instruction stands in the span of a vrgn (R201). -/
def Hart.inSpan (h : Hart) : Bool := match h.span with | some sp => decide (0 < sp.left) | none => false

/-- A front-end instruction of MAJ 0x24: ILLEGAL SPAN inside a span (R201), else its body. -/
def runCfg (low : W32) (body : M Ctl) (s : State) : Host.Outcome State Fault Refusal :=
  runInstr 4 (do
    check (!(← getH).inSpan) (illegalTrap 0x16 low)
    body) s

/-- The registers placed at the default positions of a VCFG value, with the settings of R205. -/
def Hart.place (h : Hart) (v : W64) : Hart :=
  let b := h.csr.chbase.toNat + vcfgRbase v
  { h with
    vregs := (List.range 64).map (fun n => { base := if n < vcfgNv v then b + n * vcfgW v else 0, tag := .f32, len := 0 })
    mregs := (List.range 16).map (fun j => { base := if j < vcfgNm v then b + vcfgVsz v + j * (2 * vcfgEm v) else 0, len := 0 })
    byp := List.replicate 4 { tag := .f32, written := false, data := [] }
    lastDest := 0
    csr := { h.csr with vcfg := v, vl := 0, sc := 0, ovfm := ovfmStore (vcfgNm v) h.csr.ovfm } }

/-- The checks of vcfg (R265). -/
def Hart.vcfgOk (h : Hart) (v : W64) : Bool :=
  let r := (h.csr.chbase.toNat + vcfgRbase v, vcfgStorage v)
  vcfgFieldsOk v && h.inChamber r && !meetsAny r (h.winRanges 16)

/-- vcfg gG (R265). -/
def execVcfg (g : GReg) (s : State) : Host.Outcome State Fault Refusal :=
  runCfg (lowVX false 0x24 0 false false 0 0 g) (do
    let h ← getH
    check (h.vcfgOk (h.gr g)) (operandTrap qFront)
    modH (fun h => h.place (h.gr g))
    return .seq) s

/-- The ILLEGAL subcode of a vtag or vwin (R14, R20, R201). -/
def cfgIll (h : Hart) (vecOk maskOk : Bool) : Option Nat :=
  match fieldIll vecOk maskOk with
  | some n => some n
  | none => if h.inSpan then some 0x16 else none

/-- What issue needs to know of vtag and vwin: pipe class None. -/
def cfgInfo (h : Hart) (low : W32) (vecOk maskOk : Bool) (dest : Option Fld6) (gs : List GReg) : VInfo :=
  { cls := none, cv := false, low := low, len := 4, ill := cfgIll h vecOk maskOk, dest := dest, reads := [], writes := [], gReads := gs, gWrite := none, bx := false
    queue := qVq }

/-- The tag of a register or a bypass name set (R266). -/
def Hart.setTag (h : Hart) (f : Fld6) (t : Tag) : Hart :=
  if f.toNat < h.nv then { h with vregs := h.vregs.set f.toNat { h.vreg f.toNat with tag := t } }
  else { h with byp := h.byp.set (f.toNat - 60) { h.bypass (f.toNat - 60) with tag := t } }

/-- vtag: what issue needs to know. -/
def vtagInfo (t : BitVec 5) (d : Fld6) (h : Hart) : VInfo := cfgInfo h (lowVX false 0x24 1 false false d (t.setWidth 6) 0) (h.vfld d) true (some d) []
/-- vtag vD, code (R266). -/
def execVtag (t : BitVec 5) (d : Fld6) (s : State) : Host.Outcome State Fault Refusal :=
  runVector (vtagInfo t d s.hart) true (do
    match tagOf t.toNat with
    | none => raise (operandTrap qVq)
    | some x => do
      modH (fun h => h.setTag d x)
      return .seq) s

/-- A window of `len` bytes at the offset of vwin, apart from the ranges of `others` (R267). -/
def Hart.vwinOk (h : Hart) (v : W64) (len : Nat) (others : List (Nat × Nat)) : Bool :=
  let r := (v.toNat, len)
  decide (v.toNat < 0x800000) && v.toNat % 256 == 0 && h.inChamber r && !meetsAny r others && !meetsAny r (h.winRanges 16)

/-- vwin vD: what issue needs to know. -/
def vwinVInfo (g : GReg) (d : Fld6) (h : Hart) : VInfo := cfgInfo h (lowVX false 0x24 2 false false d 0 g) (h.vfld d) true (some d) [g]
/-- vwin vD, gG (R267). (DEDUCED, log 34.) -/
def execVwinV (g : GReg) (d : Fld6) (s : State) : Host.Outcome State Fault Refusal :=
  runVector (vwinVInfo g d s.hart) true (do
    let h ← getH
    check (decide (d.toNat < h.nv) && h.vwinOk (h.gr g) h.vw (h.vecRanges.eraseIdx d.toNat ++ h.maskRanges)) (operandTrap qVq)
    modH (fun h => { h with vregs := h.vregs.set d.toNat { h.vreg d.toNat with base := (h.gr g).toNat, len := 0 } })
    return .seq) s

/-- vwin mD: what issue needs to know. -/
def vwinMInfo (g : GReg) (d : Fld6) (h : Hart) : VInfo := cfgInfo h (lowVX false 0x24 3 false false d 0 g) true (decide (d.toNat < h.nm)) none [g]
/-- vwin mD, gG (R267). -/
def execVwinM (g : GReg) (d : Fld6) (s : State) : Host.Outcome State Fault Refusal :=
  runVector (vwinMInfo g d s.hart) true (do
    let h ← getH
    check (h.vwinOk (h.gr g) (2 * h.em) (h.vecRanges ++ h.maskRanges.eraseIdx d.toNat)) (operandTrap qVq)
    modH (fun h => { h with mregs := h.mregs.set d.toNat { base := (h.gr g).toNat, len := 0 } })
    return .seq) s

/-- The length granted for a request (R181). -/
def Csr.grant (c : Csr) (n : W64) : W64 := BitVec.ofNat 64 (Nat.min n.toNat c.mvl)

/-- vsetl gD, gG (R268). -/
def execVsetl (g d : GReg) (s : State) : Host.Outcome State Fault Refusal :=
  runCfg (lowVX false 0x24 4 false false (d.setWidth 6) 0 g) (do
    let h ← getH
    let v := h.csr.grant (h.gr g)
    modCsr (fun c => { c with vl := v })
    writeG d v
    return .seq) s

/-- vloop gG (R269, R181). -/
def execVloop (g : GReg) (s : State) : Host.Outcome State Fault Refusal :=
  runCfg (lowVX false 0x24 5 false false 0 0 g) (do
    let v := (← getH).gr g
    modCsr (fun c => { c with sc := v, vl := c.grant v })
    return .seq) s

/-- vnext label (R269). -/
def execVnext (off : BitVec 17) (s : State) : Host.Outcome State Fault Refusal :=
  runCfg (lowVN off) (do
    let h ← getH
    let c := h.csr
    let sc := if c.vl.toNat ≤ c.sc.toNat then c.sc - c.vl else 0
    if sc = 0 then do
      modCsr (fun c => { c with sc := sc, vl := 0 })
      return .seq
    else do
      modCsr (fun c => { c with sc := sc, vl := c.grant sc })
      return .jump (h.pc + (off.signExtend 64) * 2)) s

/-- How many leading dimensions merge (R270): dimension j + 1 continues dimension j. -/
def mergedDims (t : Tdesc) : Nat → Nat → Nat
  | 0, j => j
  | n + 1, j =>
    if j + 1 < t.rank ∧ t.strides.getD (j + 1) 0 = t.strides.getD j 0 * (t.dims.getD j 1 : Int) then mergedDims t n (j + 1) else j

/-- L and O of vflat (R270). -/
def flatten (t : Tdesc) : Nat × Nat :=
  let n := if t.strides.getD 0 0 = (t.tag.bytes : Int) then mergedDims t 3 0 + 1 else 0
  (prodNat (t.dims.take n), prodNat ((t.dims.take t.rank).drop n))

/-- vflat gD, gG (R270). (DEDUCED, log 44.) -/
def execVflat (g d : GReg) (s : State) : Host.Outcome State Fault Refusal :=
  runCfg (lowVX false 0x24 7 false false (d.setWidth 6) 0 g) (do
    let h ← getH
    let bs ← readDescriptor (h.acc .read false) pathLS (h.gr g) 64 qFront
    match parseTdesc bs with
    | none => raise { residencyTrap 4 0 0 with queue := qFront }
    | some t =>
      let (l, o) := flatten t
      check (decide (l < 2 ^ 64) && decide (o < 2 ^ 64)) (operandTrap qFront)
      modCsr (fun c => { c with sc := BitVec.ofNat 64 l, vl := c.grant (BitVec.ofNat 64 l) })
      writeG d (← getH).csr.vl
      writeG (pairHi d) (BitVec.ofNat 64 o)
      return .seq) s

/-- vrgn: what issue needs to know. -/
def vrgnInfo (a : Fld6) (n : BitVec 5) (h : Hart) : VInfo := cfgInfo h (lowVX false 0x24 8 false false (n.setWidth 6) a 0) true (decide (a.toNat < h.nm)) none []

/-- vrgn mA, n (R200, R271): the next n VQ instructions are skipped when no element of the mask below VL is active. (DEDUCED, log 22.) -/
def execVrgn (a : Fld6) (n : BitVec 5) (s : State) : Host.Outcome State Fault Refusal :=
  let v := vrgnInfo a n s.hart
  match v.ill with
  | some k => .next (s.endWrites.takeTrap (illegalTrap k v.low qVq))
  | none =>
    match (do
        let h ← getH
        check h.maskOk (operandTrap qVq)
        needMask a.toNat false h.csr.vlN : M (List Nat)) s with
    | .error t s => .next (s.endWrites.takeTrap t)
    | .ok on s =>
      let skip := on.isEmpty
      let (quiet, s) := s.quietOf false [.mask a.toNat]
      let s := quiet.foldl (fun s u => s.logPoison 4 u) s
      .next ((s.endWrites.setHart { s.hart.finishVector v with span := some { left := n.toNat + 1, skip := skip, members := [] } }).advance 4)

end Sys2Proof.Machine
end

