-- ==== Sys2Proof/Machine/Spill.lean ====
section
/-! DEFINITION. Spill frames: vsave and vrest (R169, R170). -/
namespace Sys2Proof.Machine

/-- Keys of a range that may span any number of pages, lowest page first. -/
def resolveBig (a : Acc) (q : Nat) : Nat → W64 → Nat → M (List Nat)
  | 0, _, _ => pure []
  | f + 1, va, n =>
    if n = 0 then pure []
    else do
      let k := Nat.min n (4096 - va.toNat % 4096)
      let ks ← resolveM a va k q
      let r ← resolveBig a q f (va + BitVec.ofNat 64 k) (n - k)
      return ks ++ r

/-- The bytes of a range, page by page, free of poison. -/
def cleanBig (log : Bool) (ref : State) (a : Acc) (q : Nat) : Nat → W64 → List Nat → M Unit
  | 0, _, _ => pure ()
  | f + 1, va, ks => do
    let k := 4096 - va.toNat % 4096
    cleanOr log ref a va (ks.take k) q
    cleanBig log ref a q f (va + BitVec.ofNat 64 k) (ks.drop k)

/-- Keys of a range of `n` bytes, whose reads are free of poison where `clean`. -/
def resolveRange (a : Acc) (q : Nat) (va : W64) (n : Nat) (clean : Bool) (log : Bool := true) : M (List Nat) :=
  translateClean (resolveBig a q (n / 4096 + 2) va n) (fun ref ks => if clean then cleanBig log ref a q (n / 4096 + 2) va ks else pure ())

/-- The bank's reads of the lines that a write of a range changes, page by page (R51, R59). -/
def State.beforeRange (s : State) (a : Acc) : Nat → W64 → List Nat → State
  | 0, _, _ => s
  | f + 1, va, ks =>
    let k := 4096 - va.toNat % 4096
    (s.beforeWrite a va (ks.take k)).beforeRange a f (va + BitVec.ofNat 64 k) (ks.drop k)

/-- A length rounded up to a multiple of 64, and bytes padded with zeros to one. -/
def up64 (n : Nat) : Nat := (n + 63) / 64 * 64
def pad64 (bs : List Byte) : List Byte := bs ++ List.replicate (up64 bs.length - bs.length) 0

/-- A directory entry (R169). -/
def frameEntry (base tag len : Nat) : Nat := base * 2 ^ 32 + tag * 2 ^ 23 + len

/-- Keys of `n` bytes from an offset of the hart's Chamber. -/
def Hart.ownKeys (h : Hart) (off n : Nat) : List Nat := (List.range n).map (fun j => chamberKey (chamberAddr h.core (off + j)))

/-- The registers of the current configuration as (BASE, TAG, LEN), v0 up, then m0 up. -/
def Hart.frameRegs (h : Hart) : List (Nat × Nat × Nat) :=
  (h.vregs.take h.nv).map (fun r => (r.base, r.tag.code, r.len)) ++ (h.mregs.take h.nm).map (fun r => (r.base, Tag.code .p16, r.len))

/-- The keys of the live bytes of the current configuration's registers. -/
def Hart.liveKeys (h : Hart) : List Nat := h.frameRegs.flatMap (fun r => h.ownKeys r.1 r.2.2)

/-- A manner of the accesses to a spill frame: element events of a vector instruction on path LS (R124, R170). -/
def State.frameManner (s : State) : Manner := { (s.manner pathLS) with grouped := true }

/-- The bytes of a spill frame (R169). -/
def State.frameBytes (s : State) : List Byte :=
  let h := s.hart
  let rs := h.frameRegs
  let dir := pad64 (rs.flatMap (fun r => leBytes 8 (frameEntry r.1 r.2.1 r.2.2)))
  let data := rs.flatMap (fun r => pad64 ((h.ownKeys r.1 r.2.2).map s.byteAt))
  leBytes 8 h.csr.vcfg.toNat ++ leBytes 8 h.csr.vtype.toNat ++ leBytes 8 (h.csr.vlN % 2 ^ 32) ++ leBytes 8 (64 + dir.length + data.length)
    ++ List.replicate 32 0 ++ dir ++ data

/-- What issue needs to know of vsave and vrest: pipe class None. -/
def spillInfo (fn : Nat) (g : GReg) : VInfo :=
  { cls := none, cv := false, low := lowVX false 0x22 fn false false 0 0 g, len := 4, ill := none, dest := none, reads := [], writes := [], gReads := [g]
    gWrite := none, bx := false, queue := qVq }

/-- vsave: what issue needs to know. -/
def vsaveInfo (g : GReg) (_h : Hart) : VInfo := spillInfo 9 g
/-- vsave [gG] (R170). A poisoned word of a saved register traps before the frame's bytes are translated: R170 does not rank POISON and PAGE or ACCESS.
(DEDUCED, log 38; DESIGN CHOICE, log 81.) -/
def execVsave (g : GReg) (s : State) : Host.Outcome State Fault Refusal :=
  runVector (vsaveInfo g s.hart) false (do
    let s ← getS
    let h := s.hart
    let va := h.gr g
    check (va.toNat % 64 == 0) (trap causeAlign va qVq)
    needOwnClean h.liveKeys qVq
    let (seen, s) := (← getS).look (s.manner pathLS) h.liveKeys
    set s
    let bs := seen.frameBytes
    let a := h.acc .write false
    let ks ← resolveRange a qVq va bs.length false
    modify (fun s => (s.beforeRange a (bs.length / 4096 + 2) va ks).storeOn (some s.frameManner) pathLS true ks bs)
    return .seq) s

/-- A directory entry with its zero fields zero, a tag and a length within its window of `w` bytes. R170 names of a frame's checks those of vcfg and vwin and the tags;
that a nonzero zero field, a reserved VTYPE or a length above the window fails one too is the model's. (DESIGN CHOICE, log 81.) -/
def entryOk (mask : Bool) (w e : Nat) : Bool :=
  bits e 55 9 == 0 && bits e 28 4 == 0 && (if mask then bits e 23 5 == Tag.code .p16 else (tagOf (bits e 23 5)).isSome) && decide (bits e 0 23 ≤ w)

/-- Ranges that do not meet one another. -/
def apart : List (Nat × Nat) → Bool
  | [] => true
  | r :: l => !meetsAny r l && apart l

/-- Window ranges of the vector and mask entries of a directory under a VCFG value. -/
def frameRanges (v : W64) (ves mes : List Nat) : List (Nat × Nat) :=
  ves.map (fun e => (bits e 32 23, vcfgW v)) ++ mes.map (fun e => (bits e 32 23, 2 * vcfgEm v))

/-- The checks of a frame's registers (R169, R170): the entries, and the placement checks of vwin (R267). -/
def Hart.frameOk (h : Hart) (v : W64) (ves mes : List Nat) : Bool :=
  ves.all (entryOk false (vcfgW v)) && mes.all (entryOk true (2 * vcfgEm v))
    && (frameRanges v ves mes).all (fun r => r.1 % 256 == 0 && h.inChamber r && !meetsAny r (h.winRanges 16)) && apart (frameRanges v ves mes)

/-- The registers of a frame placed. (DEDUCED, log 38.) -/
def Hart.placeFrame (h : Hart) (v vtype : W64) (vl : Nat) (ves mes : List Nat) : Hart :=
  let h := h.place v
  { h with
    vregs := ves.map (fun e => { base := bits e 32 23, tag := (tagOf (bits e 23 5)).getD .f32, len := bits e 0 23 }) ++ h.vregs.drop ves.length
    mregs := mes.map (fun e => { base := bits e 32 23, len := bits e 0 23 }) ++ h.mregs.drop mes.length
    csr := { h.csr with vtype := vtype, vl := BitVec.ofNat 64 vl } }

/-- One register's bytes restored: LEN bytes of the frame; the bytes at and above LEN are not defined. -/
def State.restoreOne (s : State) (base w : Nat) (bs : List Byte) : State :=
  let h := s.hart
  let (n, s) := s.fresh
  let s := { s with undef := (chamberKey (chamberAddr h.core base), w, n) :: s.undef }
  s.putOwn (fun s => s.putKeys false) (h.ownKeys base bs.length) bs

/-- Every register's bytes restored from the frame's data. -/
def State.restoreAll (s : State) : List (Nat × Nat × Nat) → List Byte → State
  | [], _ => s
  | (base, w, len) :: r, bs => State.restoreAll (s.restoreOne base w (bs.take len)) r (bs.drop (up64 len))

/-- A range of memory read by a vector access without `.o`, checked for poison. -/
def readRange (va : W64) (n : Nat) (log : Bool := true) : M (List Byte) := do
  let ks ← resolveRange ((← getH).acc .read false) qVq va n true log
  readAs (← getS).frameManner ks

/-- vrest: what issue needs to know. -/
def vrestInfo (g : GReg) (_h : Hart) : VInfo := spillInfo 10 g
/-- vrest [gG] (R170). (DEDUCED, log 38.) -/
def execVrest (g : GReg) (s : State) : Host.Outcome State Fault Refusal :=
  runVector (vrestInfo g s.hart) false (do
    let h ← getH
    let va := h.gr g
    check (va.toNat % 64 == 0) (trap causeAlign va qVq)
    let hd ← readRange va 64
    let v := BitVec.ofNat 64 (fieldAt hd 0 8)
    let vtype := BitVec.ofNat 64 (fieldAt hd 8 8)
    let vl := fieldAt hd 16 8
    check ((hd.drop 32).all (fun b => b == 0) && decide (vl < 2 ^ 32) && vtypeOk vtype && h.vcfgOk v) (operandTrap qVq)
    let nv := vcfgNv v
    let nm := vcfgNm v
    let dlen := up64 (8 * (nv + nm))
    let dir ← readRange (va + 64) dlen
    let es := (List.range (nv + nm)).map (fun j => fieldAt dir (8 * j) 8)
    let ves := es.take nv
    let mes := es.drop nv
    let lens := es.map (fun e => bits e 0 23)
    let data := (lens.map up64).foldl (· + ·) 0
    check ((dir.drop (8 * (nv + nm))).all (fun b => b == 0) && h.frameOk v ves mes && fieldAt hd 24 8 == 64 + dlen + data) (operandTrap qVq)
    let bs ← readRange (va + BitVec.ofNat 64 (64 + dlen)) data
    modH (fun h => h.placeFrame v vtype vl ves mes)
    modify (fun s => s.restoreAll (List.zipWith (fun (r : Nat × Nat) (l : Nat) => (r.1, r.2, l)) (frameRanges v ves mes) lens) bs)
    return .seq) s

end Sys2Proof.Machine
end

