-- ==== Sys2Proof/Machine/Codec.lean ====
section
/-! DEFINITION. SHA-256 (R419) and the chunk decoders: DEFLATE (R346) and PXD16 (R347), framed as R345 says. -/
namespace Sys2Proof.Machine

/-! SHA-256 (FIPS 180-4), its words as natural numbers below 2^32. -/

/-- A sum of words. -/
def shaSum (l : List Nat) : Nat := l.sum % 2 ^ 32

/-- A word turned right by n bits. -/
def shaTurn (x n : Nat) : Nat := x / 2 ^ n + x % 2 ^ n * 2 ^ (32 - n)

/-- The exclusive or of three values made of a word. -/
def shaMix (f g h : Nat → Nat) (x : Nat) : Nat := f x ^^^ g x ^^^ h x

/-- The largest number below 2^k, added to `acc`, whose n-th power is at most v. -/
def rootFloor (n v : Nat) : Nat → Nat → Nat
  | 0, acc => acc
  | k + 1, acc => rootFloor n v k (if (acc + 2 ^ k) ^ n ≤ v then acc + 2 ^ k else acc)

/-- The first 32 bits of the fraction of the n-th root of p. -/
def rootWord (n p : Nat) : Nat := rootFloor n (p * 2 ^ (32 * n)) 37 0 % 2 ^ 32

/-- The first `c` primes from p up, `fuel` numbers tried. -/
def primesFrom : Nat → Nat → Nat → List Nat
  | 0, _, _ => []
  | _, 0, _ => []
  | fuel + 1, c + 1, p =>
    if (List.range p).all (fun d => decide (d < 2) || p % d != 0) then p :: primesFrom fuel c (p + 1) else primesFrom fuel (c + 1) (p + 1)

/-- The round constants: of the cube roots of the first 64 primes. -/
def shaRoundWords : List Nat := (primesFrom 400 64 2).map (rootWord 3)

/-- The first hash value: of the square roots of the first 8 primes. -/
def shaStart : List Nat := (primesFrom 400 8 2).map (rootWord 2)

/-- A big-endian value of bytes, and a value's n low bytes in big-endian order. -/
def beNat (bs : List Byte) : Nat := leNat bs.reverse
def beBytes (n v : Nat) : List Byte := (leBytes n v).reverse

/-- The message schedule grown by n words, the newest first. -/
def shaSchedule : Nat → List Nat → List Nat
  | 0, w => w
  | n + 1, w =>
    let back := fun (j : Nat) => w.getD (j - 1) 0
    shaSchedule n (shaSum [shaMix (shaTurn · 17) (shaTurn · 19) (· / 2 ^ 10) (back 2), back 7, shaMix (shaTurn · 7) (shaTurn · 18) (· / 2 ^ 3) (back 15), back 16] :: w)

/-- The working variables a to h after a round with its constant and schedule word. -/
def shaStep (v : List Nat) (kw : Nat × Nat) : List Nat :=
  let x := fun (j : Nat) => v.getD j 0
  let choice := (List.range 32).map (fun j => if bitOf (x 4) j then bitOf (x 5) j else bitOf (x 6) j)
  let most := (List.range 32).map (fun j => decide (2 ≤ (bitOf (x 0) j).toNat + (bitOf (x 1) j).toNat + (bitOf (x 2) j).toNat))
  let new := shaSum [x 7, shaMix (shaTurn · 6) (shaTurn · 11) (shaTurn · 25) (x 4), word choice, kw.1, kw.2]
  shaSum [new, shaMix (shaTurn · 2) (shaTurn · 13) (shaTurn · 22) (x 0), word most] :: x 0 :: x 1 :: x 2 :: shaSum [x 3, new] :: x 4 :: x 5 :: [x 6]
where
  /-- Bit j of a word, and the word of a list of bits. -/
  bitOf (v j : Nat) : Bool := v / 2 ^ j % 2 == 1
  word : List Bool → Nat
    | [] => 0
    | b :: r => b.toNat + 2 * word r

/-- The hash value after the next n blocks of 64 bytes. -/
def shaBlocks : Nat → List Nat → List Byte → List Nat
  | 0, h, _ => h
  | n + 1, h, bs =>
    let first := (List.range 16).map (fun j => beNat ((bs.drop (4 * j)).take 4))
    let end_ := (shaRoundWords.zip (shaSchedule 48 first.reverse).reverse).foldl shaStep h
    shaBlocks n ((h.zip end_).map (fun x => shaSum [x.1, x.2])) (bs.drop 64)

/-- SHA-256 of a message: 32 bytes. -/
def sha256 (m : List Byte) : List Byte :=
  let padded := m ++ 0x80 :: (List.replicate ((119 - m.length % 64) % 64) 0 ++ beBytes 8 (8 * m.length))
  (shaBlocks (padded.length / 64) shaStart padded).flatMap (beBytes 4)

/-! The decoders. -/

/-- STREAM subcodes of R176 and R350. -/
def stBREF : Nat := 1
def stCODE : Nat := 2
def stCRC : Nat := 3
def stFRAME : Nat := 4
def stFMT : Nat := 5
def stDESC : Nat := 6
def stUNBOUND : Nat := 7
def stDIR : Nat := 8
def stEND : Nat := 9
def stFIT : Nat := 10
def stLENGTH : Nat := 11

/-- A decoder at work: the bits not yet read, how many have been read, the expanded bytes newest first, their number, XLEN, and the most bytes that
may be emitted before the watchdog cuts (R349). -/
structure Dec where
  inp : List Bool
  pos : Nat
  out : List Byte
  n : Nat
  xlen : Nat
  wd : Nat
deriving DecidableEq, Repr

/-- A step of a decoder; it ends in a STREAM subcode, keeping what was emitted. -/
abbrev Dc := EStateM Nat Dec

/-- Reads one bit; a payload that ends too early is FRAME (R345). -/
def getBit : Dc Bool := fun d =>
  match d.inp with
  | [] => .error stFRAME d
  | b :: r => .ok b { d with inp := r, pos := d.pos + 1 }

/-- Reads an n-bit number, low bit first. -/
def getBits : Nat → Dc Nat
  | 0 => pure 0
  | n + 1 => do
    let b ← getBit
    let v ← getBits n
    return b.toNat + 2 * v

/-- Emits one expanded byte. -/
def emit (b : Byte) : Dc Unit := fun d =>
  if d.xlen ≤ d.n then .error stFRAME d
  else if d.wd ≤ d.n then .error stLENGTH d
  else .ok () { d with out := b :: d.out, n := d.n + 1 }

/-- Skips to a byte boundary of the payload. -/
def toByte : Dc Unit := fun d =>
  let k := (8 - d.pos % 8) % 8
  .ok () { d with inp := d.inp.drop k, pos := d.pos + k }

/-- A canonical code (RFC 1951): how many codes each length from 1 to 15 has, and the symbols by length and value. -/
structure Huff where
  counts : List Nat
  syms : List Nat
deriving DecidableEq, Repr

/-- The code of a list of lengths, symbol by symbol. -/
def huffOf (lens : List Nat) : Huff :=
  let ix := lens.zip (List.range lens.length)
  { counts := (List.range 15).map (fun l => (lens.filter (fun x => x == l + 1)).length)
    syms := (List.range 15).flatMap (fun l => (ix.filter (fun x => x.1 == l + 1)).map Prod.snd) }

/-- Code space that a set of lengths leaves free, in units of 2^-15; negative when over-subscribed. -/
def Huff.left (h : Huff) : Int :=
  (List.zipWith (fun (c : Nat) (l : Nat) => (c : Int) * 2 ^ (14 - l)) h.counts (List.range 15)).foldl (fun a x => a - x) (2 ^ 15 : Int)

/-- A complete set. (DEDUCED, log 41.) -/
def Huff.complete (h : Huff) : Bool := h.left == 0

/-- A distance set that RFC 1951 allows: complete, a single code of length 1, or none. -/
def Huff.distOk (h : Huff) : Bool := h.complete || (decide (h.syms.length ≤ 1) && h.counts.getD 0 0 == h.syms.length)

/-- Reads one symbol from its code; an undefined code word is CODE (R346). -/
def getSym (syms : List Nat) : List Nat → Nat → Nat → Nat → Dc Nat
  | [], _, _, _ => throw stCODE
  | c :: r, code, first, index => do
    let b ← getBit
    let code := code + b.toNat
    if code < first + c then return syms.getD (index + (code - first)) 0
    else getSym syms r (2 * code) (2 * (first + c)) (index + c)

def Huff.sym (h : Huff) : Dc Nat := getSym h.syms h.counts 0 0 0

/-- Length and distance bases and extra bits (RFC 1951, 3.2.5). -/
def lenBase : List Nat :=
  [3, 4, 5, 6, 7, 8, 9, 10, 11, 13, 15, 17, 19, 23, 27, 31, 35, 43, 51, 59, 67, 83, 99, 115, 131, 163, 195, 227, 258]
def lenExtra : List Nat := [0, 0, 0, 0, 0, 0, 0, 0, 1, 1, 1, 1, 2, 2, 2, 2, 3, 3, 3, 3, 4, 4, 4, 4, 5, 5, 5, 5, 0]
def distBase : List Nat :=
  [1, 2, 3, 4, 5, 7, 9, 13, 17, 25, 33, 49, 65, 97, 129, 193, 257, 385, 513, 769, 1025, 1537, 2049, 3073, 4097, 6145, 8193, 12289, 16385, 24577]
def distExtra : List Nat := [0, 0, 0, 0, 1, 1, 2, 2, 3, 3, 4, 4, 5, 5, 6, 6, 7, 7, 8, 8, 9, 9, 10, 10, 11, 11, 12, 12, 13, 13]

/-- Copies n bytes from `dist` bytes back. -/
def copyBack (dist : Nat) : Nat → Dc Unit
  | 0 => pure ()
  | n + 1 => do
    let d ← get
    emit (d.out.getD (dist - 1) 0)
    copyBack dist n

/-- The symbols of a compressed block up to its end. -/
def inflateSyms (lit dist : Huff) : Nat → Dc Unit
  | 0 => throw stFRAME
  | f + 1 => do
    let s ← lit.sym
    if s < 256 then do
      emit (BitVec.ofNat 8 s)
      inflateSyms lit dist f
    else if s = 256 then pure ()
    else if s < 286 then do
      let x ← getBits (lenExtra.getD (s - 257) 0)
      let t ← dist.sym
      if 30 ≤ t then throw stCODE
      else do
        let y ← getBits (distExtra.getD t 0)
        let back := distBase.getD t 0 + y
        if (← get).n < back then throw stBREF
        else do
          copyBack back (lenBase.getD (s - 257) 0 + x)
          inflateSyms lit dist f
    else throw stCODE

/-- The fixed codes (RFC 1951, 3.2.6). -/
def fixedLit : Huff := huffOf (List.replicate 144 8 ++ List.replicate 112 9 ++ List.replicate 24 7 ++ List.replicate 8 8)
def fixedDist : Huff := huffOf (List.replicate 32 5)

/-- A stored block. -/
def inflateStored : Nat → Dc Unit
  | 0 => pure ()
  | n + 1 => do
    let b ← getBits 8
    emit (BitVec.ofNat 8 b)
    inflateStored n

/-- The order of the code length codes (RFC 1951, 3.2.7). -/
def clOrder : List Nat := [16, 17, 18, 0, 8, 7, 9, 6, 10, 5, 11, 4, 12, 3, 13, 2, 14, 1, 15]

/-- Reads n numbers of 3 bits. -/
def getThrees : Nat → Dc (List Nat)
  | 0 => pure []
  | n + 1 => do
    let x ← getBits 3
    let r ← getThrees n
    return x :: r

/-- The code lengths of a dynamic block, newest first, until `total` are read; a repeat past the end, or of nothing, is CODE. -/
def getLens (cl : Huff) (total : Nat) : Nat → List Nat → Dc (List Nat)
  | 0, _ => throw stFRAME
  | f + 1, acc =>
    if acc.length = total then pure acc
    else if total < acc.length then throw stCODE
    else do
      let s ← cl.sym
      if s < 16 then getLens cl total f (s :: acc)
      else if s = 16 then
        match acc with
        | [] => throw stCODE
        | p :: _ => do
          let n ← getBits 2
          getLens cl total f (List.replicate (n + 3) p ++ acc)
      else if s = 17 then do
        let n ← getBits 3
        getLens cl total f (List.replicate (n + 3) 0 ++ acc)
      else do
        let n ← getBits 7
        getLens cl total f (List.replicate (n + 11) 0 ++ acc)

/-- A dynamic block (R346): an over-subscribed or incomplete set of lengths is CODE. (DEDUCED, log 41.) -/
def inflateDynamic (fuel : Nat) : Dc Unit := do
  let hlit ← getBits 5
  let hdist ← getBits 5
  let hclen ← getBits 4
  let xs ← getThrees (hclen + 4)
  let pairs := clOrder.zip xs
  let cl := huffOf ((List.range 19).map (fun j => match pairs.find? (fun p => p.1 == j) with | some p => p.2 | none => 0))
  if !cl.complete then throw stCODE
  else do
    let lens ← getLens cl (hlit + 257 + hdist + 1) fuel []
    let lens := lens.reverse
    let lit := huffOf (lens.take (hlit + 257))
    let dist := huffOf (lens.drop (hlit + 257))
    if !lit.complete || !dist.distOk then throw stCODE else inflateSyms lit dist fuel

/-- The blocks of a DEFLATE payload. -/
def inflateBlocks (fuel : Nat) : Nat → Dc Unit
  | 0 => throw stFRAME
  | f + 1 => do
    let final ← getBit
    let ty ← getBits 2
    match ty with
    | 0 => do
      toByte
      let n ← getBits 16
      let m ← getBits 16
      if n + m ≠ 0xFFFF then throw stCODE else inflateStored n
    | 1 => inflateSyms fixedLit fixedDist fuel
    | 2 => inflateDynamic fuel
    | _ => throw stCODE
    if final then pure () else inflateBlocks fuel f

/-- The pixel `k` pixels back. -/
def Dec.pixelBack (d : Dec) (k : Nat) : Nat := (d.out.getD (2 * k - 1) 0).toNat + 256 * (d.out.getD (2 * k - 2) 0).toNat

/-- The pixels of one group of width b (R347): pixel i of rows of w. -/
def pxdGroup (w b : Nat) : Nat → Nat → Dc Unit
  | 0, _ => pure ()
  | n + 1, i => do
    let z ← getBits b
    let d ← get
    let p := if i % w ≠ 0 then d.pixelBack 1 else if i = 0 then 0 else d.pixelBack w
    let v := if z % 2 = 0 then (p + z / 2) % 0x10000 else (p + 0x10000 - (z + 1) / 2) % 0x10000
    emit (BitVec.ofNat 8 v)
    emit (BitVec.ofNat 8 (v / 256))
    pxdGroup w b n (i + 1)

/-- The groups of a PXD16 payload, with `left` pixels to go. -/
def pxdGroups (w : Nat) : Nat → Nat → Nat → Dc Unit
  | 0, _, _ => pure ()
  | f + 1, left, i =>
    if left = 0 then pure ()
    else do
      let b ← getBits 5
      if 16 < b then throw stCODE
      else do
        let k := Nat.min 16 left
        pxdGroup w b k i
        pxdGroups w f (left - k) (i + k)

/-- A PXD16 payload (R347). -/
def pxdDecode : Dc Unit := do
  let w ← getBits 16
  let d ← get
  if w = 0 then throw stFRAME else pxdGroups w (d.xlen / 2 + 1) (d.xlen / 2) 0

/-- Bits of bytes, bit 0 of each first. -/
def bitsOf (bs : List Byte) : List Bool := bs.flatMap (fun b => (List.range 8).map (fun j => b.getLsbD j))

/-- A chunk header (R345). -/
structure Chunk where
  clen : Nat
  xlen : Nat
  check : Nat
deriving DecidableEq, Repr

/-- A chunk header from its 16 bytes; none where it breaks the table. -/
def parseChunk (fmt : Nat) (bs : List Byte) : Option Chunk :=
  let c : Chunk := { clen := fieldAt bs 0 4, xlen := fieldAt bs 4 4, check := fieldAt bs 8 4 }
  if c.clen ≠ 0 ∧ 1 ≤ c.xlen ∧ c.xlen ≤ 65536 ∧ (fmt = 1 → c.xlen % 2 = 0) ∧ fieldAt bs 12 1 = fmt ∧ fieldAt bs 13 3 = 0 then some c else none

/-- The compressed length of a chunk. -/
def Chunk.length (c : Chunk) : Nat := (16 + c.clen + 15) / 16 * 16

/-- Elements a chunk expands to. -/
def Chunk.count (c : Chunk) (fmt : Nat) : Nat := if fmt = 1 then c.xlen / 2 else c.xlen

/-- A chunk decoded (R345-R347): the expanded bytes emitted, and the STREAM subcode it ends in, if any. -/
def decodeChunk (fmt : Nat) (c : Chunk) (payload : List Byte) (wd : Nat) : List Byte × Option Nat :=
  let inp := bitsOf payload
  let d0 : Dec := { inp := inp, pos := 0, out := [], n := 0, xlen := c.xlen, wd := wd }
  match (if fmt = 1 then pxdDecode else inflateBlocks (inp.length + 1) (inp.length + 1) : Dc Unit) d0 with
  | .error e d => (d.out.reverse, some e)
  | .ok _ d =>
    let bs := d.out.reverse
    (bs, if d.n ≠ c.xlen then some stFRAME else if crc32c bs ≠ c.check then some stCRC else none)

end Sys2Proof.Machine
end

