-- ==== Sys2Proof/Machine/ScalarMem.lean ====
section
/-! DEFINITION. Scalar loads and stores, acquires and releases, atomics, fences and waits, MAJ 0x0C to 0x0F and 0x13 (R144-R158). -/
namespace Sys2Proof.Machine

/-- The address of the 32-bit form: a displacement in units of the access size (R146). -/
def State.eaUnits (s : State) (a : GReg) (imm : BitVec 10) (size : Nat) : W64 := s.gr a + (imm.signExtend 64) * BitVec.ofNat 64 size

/-- The address of a 64-bit form: a byte displacement (R146, R149, R151). -/
def State.eaBytes (s : State) (a : GReg) (imm32 : W32) : W64 := s.gr a + imm32.signExtend 64

/-- ALIGN at an address (R99, R148, R391). -/
def alignTrap (va : W64) (q : Nat) : Trap := trap causeAlign va q

/-- Raises ALIGN unless an address is a multiple of the access size. -/
def needAligned (va : W64) (size q : Nat) : M Unit := check (va.toNat % size == 0) (alignTrap va q)

/-- A value of n bytes sign-extended to 64 bits, and zero-extended. -/
def signExtend64 (n v : Nat) : W64 := if 2 ^ (8 * n - 1) ≤ v then BitVec.ofNat 64 (v + (2 ^ 64 - 2 ^ (8 * n))) else BitVec.ofNat 64 v

/-- A scalar load of up to 8 bytes (R147): the flagged form must be aligned (R148), and is one event (R98). -/
def loadScalar (len size : Nat) (flagged acquire signed : Bool) (d : GReg) (ea : W64) (s : State) : Host.Outcome State Fault Refusal :=
  runInstr len (do
    let q := s.hart.scalarQueue ea
    if flagged then needAligned ea size q else pure ()
    let v := leNat (← loadAs ea size true flagged acquire q)
    writeG d (if signed then signExtend64 size v else BitVec.ofNat 64 v)
    return .seq) s

/-- A scalar load of a register pair as one event (R147). -/
def loadPair (len : Nat) (acquire : Bool) (d : GReg) (ea : W64) (s : State) : Host.Outcome State Fault Refusal :=
  runInstr len (do
    let q := s.hart.scalarQueue ea
    needAligned ea 16 q
    let v := leNat (← loadAs ea 16 true true acquire q)
    writeG d (BitVec.ofNat 64 v)
    writeG (pairHi d) (BitVec.ofNat 64 (v / 2 ^ 64))
    return .seq) s

/-- A scalar store of up to 8 bytes (R147): the flagged form must be aligned (R148), and is one event (R98). -/
def storeScalar (len size : Nat) (flagged release : Bool) (d : GReg) (ea : W64) (s : State) : Host.Outcome State Fault Refusal :=
  runInstr len (do
    let q := s.hart.scalarQueue ea
    if flagged then needAligned ea size q else pure ()
    storeAs ea (leBytes size (s.gr d).toNat) true false flagged release false q
    return .seq) s

/-- A scalar store of a register pair as one event (R147); `quad` marks st.q.a16, the only write SCMD takes (R378), and the other is a release. -/
def storePair (len : Nat) (quad : Bool) (d : GReg) (ea : W64) (s : State) : Host.Outcome State Fault Refusal :=
  runInstr len (do
    let q := s.hart.scalarQueue ea
    needAligned ea 16 q
    storeAs ea (leBytes 8 (s.gr d).toNat ++ leBytes 8 (s.gr (pairHi d)).toNat) true quad true (!quad) false q
    return .seq) s

/-- ld.a of SIZE `sz` (R149, R150): naturally aligned, zero-extended. -/
def loadAcquire (len : Nat) (sz : BitVec 3) (d : GReg) (ea : W64) (s : State) : Host.Outcome State Fault Refusal :=
  if sz = 4 then loadPair len true d ea s else loadScalar len (2 ^ sz.toNat) true true false d ea s

/-- st.r of SIZE `sz` (R149, R150). -/
def storeRelease (len : Nat) (sz : BitVec 3) (d : GReg) (ea : W64) (s : State) : Host.Outcome State Fault Refusal :=
  if sz = 4 then storePair len false d ea s else storeScalar len (2 ^ sz.toNat) true true d ea s

/-! Atomics (R151-R153). -/

/-- A signed reading of n bytes. -/
def signedOf (n v : Nat) : Int := if 2 ^ (8 * n - 1) ≤ v then (v : Int) - 2 ^ (8 * n) else v

/-- New values of R152 from the old value x, the operand y and the size in bytes. -/
def amoAddNew (n x y : Nat) : Nat := (x + y) % 2 ^ (8 * n)
def amoAndNew (_ x y : Nat) : Nat := x &&& y
def amoOrNew (_ x y : Nat) : Nat := x ||| y
def amoXorNew (_ x y : Nat) : Nat := x ^^^ y
def amoMinNew (n x y : Nat) : Nat := if signedOf n y < signedOf n x then y else x
def amoMaxNew (n x y : Nat) : Nat := if signedOf n x < signedOf n y then y else x
def amoMinuNew (_ x y : Nat) : Nat := if y < x then y else x
def amoMaxuNew (_ x y : Nat) : Nat := if x < y then y else x
def amoSwapNew (_ _ y : Nat) : Nat := y

/-- Whether an atomic is an acquire and whether it is a release, by its field ORD (R151). -/
def acquires (od : BitVec 2) : Bool := od.getLsbD 0
def releases (od : BitVec 2) : Bool := od.getLsbD 1

/-- An atomic of 4 or 8 bytes (R153): `f` gives the new value, where there is one. -/
def atomicScalar (len : Nat) (od : BitVec 2) (wide : Bool) (d : GReg) (ea : W64) (f : Nat → Option Nat) (s : State) : Host.Outcome State Fault Refusal :=
  runInstr len (do
    let q := s.hart.scalarQueue ea
    let n := if wide then 8 else 4
    needAligned ea n q
    let x ← atomicAt ea n true (acquires od) (releases od) q f
    writeG d (signExtend64 n x)
    return .seq) s

/-- An atomic of 16 bytes (R153). -/
def atomicPair (len : Nat) (od : BitVec 2) (d : GReg) (ea : W64) (f : Nat → Option Nat) (s : State) : Host.Outcome State Fault Refusal :=
  runInstr len (do
    let q := s.hart.scalarQueue ea
    needAligned ea 16 q
    let x ← atomicAt ea 16 true (acquires od) (releases od) q f
    writeG d (BitVec.ofNat 64 x)
    writeG (pairHi d) (BitVec.ofNat 64 (x / 2 ^ 64))
    return .seq) s

/-- The operand of an atomic: the low bytes of a register, or a register pair. -/
def State.amoOperand (s : State) (wide : Bool) (b : GReg) : Nat := (s.gr b).toNat % (if wide then 2 ^ 64 else 2 ^ 32)
def State.pairOperand (s : State) (b : GReg) : Nat := (s.gr b).toNat + 2 ^ 64 * (s.gr (pairHi b)).toNat

/-- An operation that always writes. -/
def State.amoOp (s : State) (len : Nat) (od : BitVec 2) (wide : Bool) (b d : GReg) (ea : W64) (f : Nat → Nat → Nat → Nat) : Host.Outcome State Fault Refusal :=
  atomicScalar len od wide d ea (fun x => some (f (if wide then 8 else 4) x (s.amoOperand wide b))) s

/-- amo.cas (R152): writes g[B] where the word equals g[D]. -/
def State.amoCasOp (s : State) (len : Nat) (od : BitVec 2) (wide : Bool) (b d : GReg) (ea : W64) : Host.Outcome State Fault Refusal :=
  atomicScalar len od wide d ea (fun x => if x = s.amoOperand wide d then some (s.amoOperand wide b) else none) s

/-- amo.swap.a16 and amo.cas.a16 (R152). -/
def State.amoSwapPair (s : State) (len : Nat) (od : BitVec 2) (b d : GReg) (ea : W64) : Host.Outcome State Fault Refusal :=
  atomicPair len od d ea (fun _ => some (s.pairOperand b)) s
def State.amoCasPair (s : State) (len : Nat) (od : BitVec 2) (b d : GReg) (ea : W64) : Host.Outcome State Fault Refusal :=
  atomicPair len od d ea (fun x => if x = s.pairOperand d then some (s.pairOperand b) else none) s

/-! Fences and waits (R154-R158). Loads, stores and atomics are performed when their instruction is, so a waitq completes at once; the accesses of accepted
engine commands and of fills may come later, and fences wait for them. -/

/-- fence scope (R108, R156): it completes once every earlier access of the hart has been performed. It orders each path by itself. (DESIGN CHOICE, log 20; DESIGN CHOICE, log 77.) -/
def execFence (_sc : BitVec 3) (s : State) : Host.Outcome State Fault Refusal :=
  runInstr 4 (do
    if (← getS).owes allPaths then return .wait .order
    else
      modify (fun s => s.orderEach s.hart.id s.outstanding)
      return .seq) s

/-- fence.x before, after, scope (R109, R156). With an empty set it orders nothing and completes at once. (DESIGN CHOICE, log 20; DESIGN CHOICE, log 77.) -/
def execFenceX (_sc : BitVec 3) (after before : BitVec 7) (s : State) : Host.Outcome State Fault Refusal :=
  runInstr 4 (if before = 0 ∨ after = 0 then pure .seq else afterFenceX (pathsOf before.toNat) (pathsOf after.toNat) (pure .seq)) s

/-- waitq (R158). (DESIGN CHOICE, log 20.) -/
def execWaitq (_qm : BitVec 4) (s : State) : Host.Outcome State Fault Refusal := .next (s.advance 4)

/-- One read of wfm (R157): it completes where the word differs from g[B], else the hart waits. -/
def State.watch (s : State) (b a d : GReg) : Host.Outcome State Fault Refusal :=
  runInstr 4 (do
    let ea := s.gr a
    let q := s.hart.scalarQueue ea
    needAligned ea 4 q
    let x := leNat (← loadAs ea 4 false true true q)
    if x = (s.gr b).toNat % 2 ^ 32 then return .wait (.wfm b a d)
    else
      writeG d (BitVec.ofNat 64 x)
      return .seq) s

/-- wfm gD, [gA], gB, scope (R157). -/
def execWfm (_sc : BitVec 3) (b a d : GReg) (s : State) : Host.Outcome State Fault Refusal := s.watch b a d

/-- WFM_WAKE (R157): a waiting wfm reads its word again. -/
def execWfmWake (s : State) : Host.Outcome State Fault Refusal :=
  match s.hart.wait with
  | .wfm b a d => s.watch b a d
  | .none => .next s
  | .gbar => .next s
  | .mxon _ => .next s
  | .advance _ _ _ _ _ => .next s
  | .line => .next s
  | .order => .next s

/-! MAJ 0x0C (R147). -/

/-- ld.b gD, [gA, disp] (R147). -/
def execLdB (imm : BitVec 10) (a d : GReg) (s : State) : Host.Outcome State Fault Refusal := loadScalar 4 1 false false true d (s.eaUnits a imm 1) s

/-- ld.b gD, [gA, disp] in the 64-bit form (R147). -/
def execLdBLong (a d : GReg) (imm32 : W32) (s : State) : Host.Outcome State Fault Refusal := loadScalar 8 1 false false true d (s.eaBytes a imm32) s

/-- ld.bu gD, [gA, disp] (R147). -/
def execLdBu (imm : BitVec 10) (a d : GReg) (s : State) : Host.Outcome State Fault Refusal := loadScalar 4 1 false false false d (s.eaUnits a imm 1) s

/-- ld.bu gD, [gA, disp] in the 64-bit form (R147). -/
def execLdBuLong (a d : GReg) (imm32 : W32) (s : State) : Host.Outcome State Fault Refusal := loadScalar 8 1 false false false d (s.eaBytes a imm32) s

/-- ld.h gD, [gA, disp] (R147). -/
def execLdH (imm : BitVec 10) (a d : GReg) (s : State) : Host.Outcome State Fault Refusal := loadScalar 4 2 false false true d (s.eaUnits a imm 2) s

/-- ld.h gD, [gA, disp] in the 64-bit form (R147). -/
def execLdHLong (a d : GReg) (imm32 : W32) (s : State) : Host.Outcome State Fault Refusal := loadScalar 8 2 false false true d (s.eaBytes a imm32) s

/-- ld.hu gD, [gA, disp] (R147). -/
def execLdHu (imm : BitVec 10) (a d : GReg) (s : State) : Host.Outcome State Fault Refusal := loadScalar 4 2 false false false d (s.eaUnits a imm 2) s

/-- ld.hu gD, [gA, disp] in the 64-bit form (R147). -/
def execLdHuLong (a d : GReg) (imm32 : W32) (s : State) : Host.Outcome State Fault Refusal := loadScalar 8 2 false false false d (s.eaBytes a imm32) s

/-- ld.w gD, [gA, disp] (R147). -/
def execLdW (imm : BitVec 10) (a d : GReg) (s : State) : Host.Outcome State Fault Refusal := loadScalar 4 4 false false true d (s.eaUnits a imm 4) s

/-- ld.w gD, [gA, disp] in the 64-bit form (R147). -/
def execLdWLong (a d : GReg) (imm32 : W32) (s : State) : Host.Outcome State Fault Refusal := loadScalar 8 4 false false true d (s.eaBytes a imm32) s

/-- ld.wu gD, [gA, disp] (R147). -/
def execLdWu (imm : BitVec 10) (a d : GReg) (s : State) : Host.Outcome State Fault Refusal := loadScalar 4 4 false false false d (s.eaUnits a imm 4) s

/-- ld.wu gD, [gA, disp] in the 64-bit form (R147). -/
def execLdWuLong (a d : GReg) (imm32 : W32) (s : State) : Host.Outcome State Fault Refusal := loadScalar 8 4 false false false d (s.eaBytes a imm32) s

/-- ld.d gD, [gA, disp] (R147). -/
def execLdD (imm : BitVec 10) (a d : GReg) (s : State) : Host.Outcome State Fault Refusal := loadScalar 4 8 false false false d (s.eaUnits a imm 8) s

/-- ld.d gD, [gA, disp] in the 64-bit form (R147). -/
def execLdDLong (a d : GReg) (imm32 : W32) (s : State) : Host.Outcome State Fault Refusal := loadScalar 8 8 false false false d (s.eaBytes a imm32) s

/-- ld.d.a8 gD, [gA, disp] (R147). -/
def execLdDA8 (imm : BitVec 10) (a d : GReg) (s : State) : Host.Outcome State Fault Refusal := loadScalar 4 8 true false false d (s.eaUnits a imm 8) s

/-- ld.d.a8 gD, [gA, disp] in the 64-bit form (R147). -/
def execLdDA8Long (a d : GReg) (imm32 : W32) (s : State) : Host.Outcome State Fault Refusal := loadScalar 8 8 true false false d (s.eaBytes a imm32) s

/-- st.b gD, [gA, disp] (R147). -/
def execStB (imm : BitVec 10) (a d : GReg) (s : State) : Host.Outcome State Fault Refusal := storeScalar 4 1 false false d (s.eaUnits a imm 1) s

/-- st.b gD, [gA, disp] in the 64-bit form (R147). -/
def execStBLong (a d : GReg) (imm32 : W32) (s : State) : Host.Outcome State Fault Refusal := storeScalar 8 1 false false d (s.eaBytes a imm32) s

/-- st.h gD, [gA, disp] (R147). -/
def execStH (imm : BitVec 10) (a d : GReg) (s : State) : Host.Outcome State Fault Refusal := storeScalar 4 2 false false d (s.eaUnits a imm 2) s

/-- st.h gD, [gA, disp] in the 64-bit form (R147). -/
def execStHLong (a d : GReg) (imm32 : W32) (s : State) : Host.Outcome State Fault Refusal := storeScalar 8 2 false false d (s.eaBytes a imm32) s

/-- st.w gD, [gA, disp] (R147). -/
def execStW (imm : BitVec 10) (a d : GReg) (s : State) : Host.Outcome State Fault Refusal := storeScalar 4 4 false false d (s.eaUnits a imm 4) s

/-- st.w gD, [gA, disp] in the 64-bit form (R147). -/
def execStWLong (a d : GReg) (imm32 : W32) (s : State) : Host.Outcome State Fault Refusal := storeScalar 8 4 false false d (s.eaBytes a imm32) s

/-- st.d gD, [gA, disp] (R147). -/
def execStD (imm : BitVec 10) (a d : GReg) (s : State) : Host.Outcome State Fault Refusal := storeScalar 4 8 false false d (s.eaUnits a imm 8) s

/-- st.d gD, [gA, disp] in the 64-bit form (R147). -/
def execStDLong (a d : GReg) (imm32 : W32) (s : State) : Host.Outcome State Fault Refusal := storeScalar 8 8 false false d (s.eaBytes a imm32) s

/-- st.d.a8 gD, [gA, disp] (R147). -/
def execStDA8 (imm : BitVec 10) (a d : GReg) (s : State) : Host.Outcome State Fault Refusal := storeScalar 4 8 true false d (s.eaUnits a imm 8) s

/-- st.d.a8 gD, [gA, disp] in the 64-bit form (R147). -/
def execStDA8Long (a d : GReg) (imm32 : W32) (s : State) : Host.Outcome State Fault Refusal := storeScalar 8 8 true false d (s.eaBytes a imm32) s

/-- ld.q.a16 gD, [gA, disp] (R147). -/
def execLdQA16 (imm : BitVec 10) (a d : GReg) (s : State) : Host.Outcome State Fault Refusal := loadPair 4 false d (s.eaUnits a imm 16) s

/-- ld.q.a16 gD, [gA, disp] in the 64-bit form (R147). -/
def execLdQA16Long (a d : GReg) (imm32 : W32) (s : State) : Host.Outcome State Fault Refusal := loadPair 8 false d (s.eaBytes a imm32) s

/-- st.q.a16 gD, [gA, disp] (R147). -/
def execStQA16 (imm : BitVec 10) (a d : GReg) (s : State) : Host.Outcome State Fault Refusal := storePair 4 true d (s.eaUnits a imm 16) s

/-- st.q.a16 gD, [gA, disp] in the 64-bit form (R147). -/
def execStQA16Long (a d : GReg) (imm32 : W32) (s : State) : Host.Outcome State Fault Refusal := storePair 8 true d (s.eaBytes a imm32) s

/-! MAJ 0x0D (R149). -/

/-- ld.a gD, [gA], scope (R149, R150). -/
def execLdA (sz : BitVec 3) (_sc : BitVec 3) (a d : GReg) (s : State) : Host.Outcome State Fault Refusal := loadAcquire 4 sz d (s.gr a) s

/-- ld.a gD, [gA, disp], scope in the 64-bit form (R149, R150). -/
def execLdALong (sz : BitVec 3) (_sc : BitVec 3) (a d : GReg) (imm32 : W32) (s : State) : Host.Outcome State Fault Refusal := loadAcquire 8 sz d (s.eaBytes a imm32) s

/-- st.r gD, [gA], scope (R149, R150). -/
def execStR (sz : BitVec 3) (_sc : BitVec 3) (a d : GReg) (s : State) : Host.Outcome State Fault Refusal := storeRelease 4 sz d (s.gr a) s

/-- st.r gD, [gA, disp], scope in the 64-bit form (R149, R150). -/
def execStRLong (sz : BitVec 3) (_sc : BitVec 3) (a d : GReg) (imm32 : W32) (s : State) : Host.Outcome State Fault Refusal := storeRelease 8 sz d (s.eaBytes a imm32) s

/-! MAJ 0x0E and 0x0F (R152). -/

/-- amo.add gD, gB, [gA] (R152, R153). -/
def execAmoAdd (od : BitVec 2) (_sc : BitVec 3) (b a d : GReg) (wide : Bool) (s : State) : Host.Outcome State Fault Refusal := s.amoOp 4 od wide b d (s.gr a) amoAddNew

/-- amo.add gD, gB, [gA, disp] (R152, R153). -/
def execAmoAddLong (od : BitVec 2) (_sc : BitVec 3) (b a d : GReg) (wide : Bool) (imm32 : W32) (s : State) : Host.Outcome State Fault Refusal := s.amoOp 8 od wide b d (s.eaBytes a imm32) amoAddNew

/-- amo.and gD, gB, [gA] (R152, R153). -/
def execAmoAnd (od : BitVec 2) (_sc : BitVec 3) (b a d : GReg) (wide : Bool) (s : State) : Host.Outcome State Fault Refusal := s.amoOp 4 od wide b d (s.gr a) amoAndNew

/-- amo.and gD, gB, [gA, disp] (R152, R153). -/
def execAmoAndLong (od : BitVec 2) (_sc : BitVec 3) (b a d : GReg) (wide : Bool) (imm32 : W32) (s : State) : Host.Outcome State Fault Refusal := s.amoOp 8 od wide b d (s.eaBytes a imm32) amoAndNew

/-- amo.or gD, gB, [gA] (R152, R153). -/
def execAmoOr (od : BitVec 2) (_sc : BitVec 3) (b a d : GReg) (wide : Bool) (s : State) : Host.Outcome State Fault Refusal := s.amoOp 4 od wide b d (s.gr a) amoOrNew

/-- amo.or gD, gB, [gA, disp] (R152, R153). -/
def execAmoOrLong (od : BitVec 2) (_sc : BitVec 3) (b a d : GReg) (wide : Bool) (imm32 : W32) (s : State) : Host.Outcome State Fault Refusal := s.amoOp 8 od wide b d (s.eaBytes a imm32) amoOrNew

/-- amo.xor gD, gB, [gA] (R152, R153). -/
def execAmoXor (od : BitVec 2) (_sc : BitVec 3) (b a d : GReg) (wide : Bool) (s : State) : Host.Outcome State Fault Refusal := s.amoOp 4 od wide b d (s.gr a) amoXorNew

/-- amo.xor gD, gB, [gA, disp] (R152, R153). -/
def execAmoXorLong (od : BitVec 2) (_sc : BitVec 3) (b a d : GReg) (wide : Bool) (imm32 : W32) (s : State) : Host.Outcome State Fault Refusal := s.amoOp 8 od wide b d (s.eaBytes a imm32) amoXorNew

/-- amo.min gD, gB, [gA] (R152, R153). -/
def execAmoMin (od : BitVec 2) (_sc : BitVec 3) (b a d : GReg) (wide : Bool) (s : State) : Host.Outcome State Fault Refusal := s.amoOp 4 od wide b d (s.gr a) amoMinNew

/-- amo.min gD, gB, [gA, disp] (R152, R153). -/
def execAmoMinLong (od : BitVec 2) (_sc : BitVec 3) (b a d : GReg) (wide : Bool) (imm32 : W32) (s : State) : Host.Outcome State Fault Refusal := s.amoOp 8 od wide b d (s.eaBytes a imm32) amoMinNew

/-- amo.max gD, gB, [gA] (R152, R153). -/
def execAmoMax (od : BitVec 2) (_sc : BitVec 3) (b a d : GReg) (wide : Bool) (s : State) : Host.Outcome State Fault Refusal := s.amoOp 4 od wide b d (s.gr a) amoMaxNew

/-- amo.max gD, gB, [gA, disp] (R152, R153). -/
def execAmoMaxLong (od : BitVec 2) (_sc : BitVec 3) (b a d : GReg) (wide : Bool) (imm32 : W32) (s : State) : Host.Outcome State Fault Refusal := s.amoOp 8 od wide b d (s.eaBytes a imm32) amoMaxNew

/-- amo.minu gD, gB, [gA] (R152, R153). -/
def execAmoMinu (od : BitVec 2) (_sc : BitVec 3) (b a d : GReg) (wide : Bool) (s : State) : Host.Outcome State Fault Refusal := s.amoOp 4 od wide b d (s.gr a) amoMinuNew

/-- amo.minu gD, gB, [gA, disp] (R152, R153). -/
def execAmoMinuLong (od : BitVec 2) (_sc : BitVec 3) (b a d : GReg) (wide : Bool) (imm32 : W32) (s : State) : Host.Outcome State Fault Refusal := s.amoOp 8 od wide b d (s.eaBytes a imm32) amoMinuNew

/-- amo.maxu gD, gB, [gA] (R152, R153). -/
def execAmoMaxu (od : BitVec 2) (_sc : BitVec 3) (b a d : GReg) (wide : Bool) (s : State) : Host.Outcome State Fault Refusal := s.amoOp 4 od wide b d (s.gr a) amoMaxuNew

/-- amo.maxu gD, gB, [gA, disp] (R152, R153). -/
def execAmoMaxuLong (od : BitVec 2) (_sc : BitVec 3) (b a d : GReg) (wide : Bool) (imm32 : W32) (s : State) : Host.Outcome State Fault Refusal := s.amoOp 8 od wide b d (s.eaBytes a imm32) amoMaxuNew

/-- amo.swap gD, gB, [gA] (R152, R153). -/
def execAmoSwap (od : BitVec 2) (_sc : BitVec 3) (b a d : GReg) (wide : Bool) (s : State) : Host.Outcome State Fault Refusal := s.amoOp 4 od wide b d (s.gr a) amoSwapNew

/-- amo.swap gD, gB, [gA, disp] (R152, R153). -/
def execAmoSwapLong (od : BitVec 2) (_sc : BitVec 3) (b a d : GReg) (wide : Bool) (imm32 : W32) (s : State) : Host.Outcome State Fault Refusal := s.amoOp 8 od wide b d (s.eaBytes a imm32) amoSwapNew

/-- amo.cas gD, gB, [gA] (R152, R153). -/
def execAmoCas (od : BitVec 2) (_sc : BitVec 3) (b a d : GReg) (wide : Bool) (s : State) : Host.Outcome State Fault Refusal := s.amoCasOp 4 od wide b d (s.gr a)

/-- amo.cas gD, gB, [gA, disp] (R152, R153). -/
def execAmoCasLong (od : BitVec 2) (_sc : BitVec 3) (b a d : GReg) (wide : Bool) (imm32 : W32) (s : State) : Host.Outcome State Fault Refusal := s.amoCasOp 8 od wide b d (s.eaBytes a imm32)

/-- amo.swap.a16 gD, gB, [gA] (R152, R153). -/
def execAmoSwapA16 (od : BitVec 2) (_sc : BitVec 3) (b a d : GReg) (s : State) : Host.Outcome State Fault Refusal := s.amoSwapPair 4 od b d (s.gr a)

/-- amo.swap.a16 gD, gB, [gA, disp] (R152, R153). -/
def execAmoSwapA16Long (od : BitVec 2) (_sc : BitVec 3) (b a d : GReg) (imm32 : W32) (s : State) : Host.Outcome State Fault Refusal := s.amoSwapPair 8 od b d (s.eaBytes a imm32)

/-- amo.cas.a16 gD, gB, [gA] (R152, R153). -/
def execAmoCasA16 (od : BitVec 2) (_sc : BitVec 3) (b a d : GReg) (s : State) : Host.Outcome State Fault Refusal := s.amoCasPair 4 od b d (s.gr a)

/-- amo.cas.a16 gD, gB, [gA, disp] (R152, R153). -/
def execAmoCasA16Long (od : BitVec 2) (_sc : BitVec 3) (b a d : GReg) (imm32 : W32) (s : State) : Host.Outcome State Fault Refusal := s.amoCasPair 8 od b d (s.eaBytes a imm32)

end Sys2Proof.Machine
end

