-- ==== Sys2Proof/Machine/VecMem.lean ====
section
/-! DEFINITION. Vector loads and stores, vector atomics and vmcast, MAJ 0x20 to 0x22 (R159-R168, R421). -/
namespace Sys2Proof.Machine

/-! Loads and stores. -/

/-- The address form of a vector memory access (R159): unit stride, strided by a register, indexed by a vector, or a segment of nf fields. -/
inductive VKind where
  | unit
  | strided (r : GReg)
  | indexed (a : Fld6)
  | segment (nf : Nat)
deriving DecidableEq, Repr

/-- A vector load or store: its form, its element ordering and mask suffixes, its data register, base register and displacement. -/
structure VMem where
  store : Bool
  kind : VKind
  masked : Bool
  ord : Bool
  fm : Bool
  a8 : Bool
  d : Fld6
  g : GReg
  disp : W64
deriving DecidableEq, Repr

/-- Fields of an element: 1 unless segment. -/
def VKind.nf : VKind → Nat
  | .unit => 1
  | .strided _ => 1
  | .indexed _ => 1
  | .segment n => n

/-- The register group of each field (R160). -/
def VMem.groups (m : VMem) (h : Hart) : List VOp :=
  match m.kind with
  | .segment n => (List.range n).map (fun f => .reg (m.d.toNat + f * h.csr.lmul) h.csr.lmul)
  | .unit => [h.vop m.d]
  | .strided _ => [h.vop m.d]
  | .indexed _ => [h.vop m.d]

/-- The index operand, if the form has one. -/
def VMem.index (m : VMem) (h : Hart) : Option VOp :=
  match m.kind with
  | .indexed a => some (h.vop a)
  | .unit => none
  | .strided _ => none
  | .segment _ => none

/-- Index tags of R160. -/
def Tag.isIndex (t : Tag) : Bool := t == .i32 || t == .u32 || t == .i64 || t == .u64

/-- The tag a load or store moves. -/
def VMem.tag (m : VMem) (h : Hart) : Tag := h.opTag (h.vop m.d)

/-- The operand rules of R160, R162 and R224. -/
def VMem.ok (m : VMem) (h : Hart) : Bool :=
  let t := m.tag h
  (m.groups h).all (fun o => h.groupOk o t && h.bxOk o t && h.opTag o == t)
    && (match m.kind with | .segment _ => decide (m.d.toNat < h.nv) | .unit => true | .strided _ => true | .indexed _ => true)
    && (match m.index h with
        | some x => (h.opTag x).isIndex && h.groupOk x (h.opTag x) && (m.store || (m.groups h).all (fun o => !o.partly x))
        | none => true)
    && (!m.a8 || t.bytes == 8)
    && (t != .bx4 || (m.kind == .unit && h.csr.vlN % 2 == 0))

/-- The offset of element i, field f (R160): an index is read as the element needs it. -/
def VMem.offset (m : VMem) (t : Tag) (i f : Nat) : M W64 := do
  let h ← getH
  match m.kind with
  | .unit => return BitVec.ofNat 64 (i * t.bits / 8)
  | .strided r => return BitVec.ofNat 64 i * h.gr r
  | .indexed a =>
    let x ← readCode (h.vop a) (h.opTag (h.vop a)) i
    return BitVec.ofInt 64 ((h.opTag (h.vop a)).intOf x)
  | .segment n => return BitVec.ofNat 64 ((i * n + f) * t.bytes)

/-- Runs an operation, giving back a PAGE or ACCESS trap it meets as a value. (DEDUCED, log 26.) -/
def caught {α : Type} (m : M α) : M (Except Trap α) := fun s =>
  match m s with
  | .ok a s => .ok (.ok a) s
  | .error t s => if t.cause = causePage ∨ t.cause = causeAccess then .ok (.error t) s else .error t s

/-- Translates one element's access (R40): a store to module register space is ACCESS REGION (R414). -/
def resolveElem (store ord : Bool) (va : W64) (n : Nat) : M (List Nat) := do
  if store then resolvePlain ((← getH).acc .write ord) va n qVq else resolveM ((← getH).acc .read ord) va n qVq

/-- A field of an element: its register group, its address, and the keys of its bytes. -/
abbrev VField := VOp × W64 × List Nat

/-- An access of one element of a vector instruction, `n` bytes at an address: one event under `.a8` (R98, R99), in a request group of the instruction (R124). -/
def State.elemManner (s : State) (va : W64) (n : Nat) (one : Bool) : Manner := { ((s.manner pathLS).sized va n one) with grouped := true }

/-- A plain access of an element of an instruction without `.o`: a load, and the bytes of a store. -/
def elemLoad (va : W64) (n q : Nat) : M Nat := do
  let ks ← resolveClean ((← getH).acc .read false) va n q
  return leNat (← readAs ((← getS).elemManner va n false) ks)
def State.elemPut (s : State) (va : W64) (ks : List Nat) (bs : List Byte) : State :=
  (s.beforeWrite (s.hart.acc .write false) va ks).storeOn (some (s.elemManner va bs.length false)) pathLS false ks bs

/-- Reads each field of an element, of `n` bytes, before any is written (R161). (DEDUCED, log 36.) -/
def loadFields (n : Nat) (one : Bool) : List VField → M (List (VOp × Nat))
  | [] => pure []
  | (o, va, ks) :: r => do
    let x := leNat (← readAs ((← getS).elemManner va n one) ks)
    let l ← loadFields n one r
    return (o, x) :: l

/-- Reads element i of each field group before any is stored. (DEDUCED, log 36.) -/
def storeFields (t : Tag) (i : Nat) : List VField → M (List (VField × Nat))
  | [] => pure []
  | x :: r => do
    let y ← readCode x.1 t i
    let l ← storeFields t i r
    return (x, y) :: l

/-- Ends with POISON where a field that is to be read is poisoned. -/
def cleanFields (ref : State) (a : Acc) : List VField → M Unit
  | [] => pure ()
  | (_, va, ks) :: r => do
    needClean ref a va ks qVq
    cleanFields ref a r

/-- A vector store's bytes for one field. -/
def State.storeField (s : State) (a : Acc) (one whole : Bool) (n : Nat) (x : VField × Nat) : State :=
  (s.beforeWrite a x.1.2.1 x.1.2.2).storeOn (some (s.elemManner x.1.2.1 n one)) pathLS whole x.1.2.2 (leBytes n x.2)

/-- One active element of a load or store (R161); `whole` where a store's bytes reach the bank in whole units. -/
def VMem.elem (m : VMem) (t : Tag) (whole : Bool) (i : Nat) : M Unit := do
  let h ← getH
  let gs := m.groups h
  let a := h.acc (if m.store then .write else .read) m.ord
  let offs ← collect (fun f => m.offset t i f) m.kind.nf 0
  let eas := offs.map (fun x => h.gr m.g + m.disp + x)
  match eas.find? (fun va => m.a8 && va.toNat % 8 != 0) with
  | some va => raise (alignTrap va qVq)
  | none => pure ()
  let items := fun (kss : List (List Nat)) => gs.zip (eas.zip kss)
  match ← caught (translateClean (collect (fun f => resolveElem m.store m.ord (eas.getD f 0) t.bytes) m.kind.nf 0) (fun ref kss =>
      if m.store then do
        let _ ← storeFields t i (items kss)
        pure ()
      else cleanFields ref a (items kss))) with
  | .error tr =>
    if m.fm then do
      writeMask 1 i 0x8000
      if m.store then pure () else overRange (fun f => writeCode (gs.getD f (.byp 0)) t i 0) m.kind.nf 0
    else raise tr
  | .ok kss => do
    if m.fm then writeMask 1 i 0 else pure ()
    if m.store then do
      let l ← storeFields t i (items kss)
      modify (fun s => l.foldl (fun s x => s.storeField a m.a8 whole t.bytes x) s)
    else do
      let l ← loadFields t.bytes m.a8 (items kss)
      modify (fun s => l.foldl (fun s x => s.putCode x.1 t i x.2) s)

/-- One active element of a unit-stride BX4 access (R421), `both` where the other element of its byte is active too: a store then writes the whole byte at
the lower element; where only one is active it reads, merges and writes the byte as one event. (DEDUCED, log 36.) -/
def VMem.nibble (m : VMem) (whole : Bool) (i : Nat) (both : Bool) : M Unit := do
  let h ← getH
  let o := h.vop m.d
  let a := h.acc (if m.store then .write else .read) m.ord
  let va := h.gr m.g + m.disp + BitVec.ofNat 64 (i / 2)
  let source : M Unit := do
    let _ ← readCode o .bx4 i
    pure ()
  match ← caught (translateClean (resolveElem m.store m.ord va 1) (fun ref ks => do
      if m.store then source else pure ()
      if m.store && both then pure () else needClean ref a va ks qVq)) with
  | .error tr =>
    if m.fm then do
      writeMask 1 i 0x8000
      if m.store then pure () else writeCode o .bx4 i 0
    else raise tr
  | .ok ks => do
    if m.fm then writeMask 1 i 0 else pure ()
    if m.store then
      if both then
        if i % 2 = 0 then do
          let x ← readCode o .bx4 i
          let y ← readCode o .bx4 (i + 1)
          modify (fun s => s.storeField a false whole 1 ((o, va, ks), x + 16 * y))
        else pure ()
      else do
        let x ← readCode o .bx4 i
        let _ ← rmwAs ((← getS).elemManner va 1 true) ks (fun bs => some (leBytes 1 (setNibble i (leNat bs) x)))
    else do
      let v := leNat (← readAs ((← getS).elemManner va 1 false) ks)
      writeCode o .bx4 i (nibbleOf i v)

/-- Whether the element that shares a byte with element i is active and between the bounds. -/
def State.pairActive (s : State) (mk : Bool) (b : Bounds) (i : Nat) : Bool :=
  let j := if i % 2 = 0 then i + 1 else i - 1
  decide (b.lo ≤ j) && decide (j < b.hi) && s.active mk j

/-- Tails of a load's groups from element `lo`: those of the fields that are groups, which all are but at VL = 0, where no operand rule has been checked. -/
def VMem.tails (m : VMem) (t : Tag) (lo : Nat) : M Unit := do
  let h ← getH
  if m.store then pure () else
    overRange (fun f => do
      let o := (m.groups h).getD f (.byp 0)
      if h.groupRegs o then do
        tailFrom o t lo
        if h.bxOk o t then scaleTail o t else pure ()
      else pure ()) m.kind.nf 0

/-- The tail of m1 under `.fm`. -/
def VMem.maskTail (m : VMem) (lo : Nat) : M Unit := if m.fm then maskTailFrom 1 lo else pure ()

/-- The registers an access reads, as sources. -/
def VMem.srcs (m : VMem) (h : Hart) (t : Tag) : List Src :=
  (if m.store then (m.groups h).map (fun o => .vec o t) else []) ++ (match m.index h with | some x => [.vec x (h.opTag x)] | none => [])

/-- Whether a store reaches the bank in whole units (R51): an aligned unit-stride one always does; of any other the spec does not say, and it is a free choice, which
only poison can show. (DESIGN CHOICE, log 8.) -/
def VMem.wholeUnits (m : VMem) (t : Tag) : M Bool := do
  let s ← getS
  if !m.store then return false
  else if m.kind == .unit && (s.hart.gr m.g + m.disp).toNat % t.bytes == 0 then return true
  else if s.poison.isEmpty && s.flaws.isEmpty then return false
  else
    let (c, s) := s.choose
    set s
    return c % 2 == 1

/-- A vector load or store (R161): at VL = 0 only tails. Without `.o` its elements are unordered (R116), and after a trap some above it may have been performed
(R101, R103), but not where a load's destination is its index (R262). -/
def VMem.run (m : VMem) : M Ctl := do
  let h ← getH
  let t := m.tag h
  if h.csr.vl = 0 then
    whenFull (do
      m.tails t 0
      m.maskTail 0)
  else do
    check (m.ok h) (operandTrap qVq)
    let b := h.bounds
    let whole ← m.wholeUnits t
    let free := m.store || (match m.index h with | some x => (m.groups h).all (fun o => !o.meets x) | none => true)
    let body := fun (i : Nat) => do
      if ← activeM m.masked i then do
        let s ← getS
        if t = .bx4 then m.nibble whole i (s.pairActive m.masked b i) else m.elem t whole i
      else do
        if m.store then pure () else overRange (fun f => inactiveElem ((m.groups h).getD f (.byp 0)) t i) m.kind.nf 0
        if m.fm then writeMask 1 i 0 else pure ()
    withSources m.masked (m.srcs h t) do
      if m.ord then elementLoop body else unorderedLoop body free
      whenFull (do
        m.tails t h.csr.vlN
        m.maskTail h.csr.vlN)
  return .seq

/-- The A field of a form as its word holds it (R159). -/
def VKind.aField : VKind → Fld6
  | .unit => 0
  | .strided r => r.setWidth 6
  | .indexed a => a
  | .segment n => BitVec.ofNat 6 (n - 1)

/-- The KIND code of a form. -/
def VKind.code : VKind → Nat
  | .unit => 0
  | .strided _ => 1
  | .indexed _ => 2
  | .segment _ => 3

/-- What issue needs to know of a vector load or store. (DEDUCED, log 26.) -/
def VMem.info (m : VMem) (cv long : Bool) (h : Hart) : VInfo :=
  let regs := (m.groups h).flatMap (fun o => o.regs ++ scaleRegs h o)
  let idx := match m.index h with | some x => x.regs | none => []
  { cls := some (if m.store then .store else .load), cv := cv
    low := lowVM long (if m.store then 0x21 else 0x20) m.kind.code cv m.masked m.ord m.fm m.a8 m.d m.kind.aField m.g
    len := if long then 8 else 4
    ill := fieldIll (h.vfld m.d && (match m.kind with | .indexed a => h.vfld a | .unit => true | .strided _ => true | .segment _ => true)) true
    dest := some m.d
    reads := idx ++ (if m.store then regs else []) ++ (if m.masked then [maskCode 0] else [])
    writes := (if m.store then [] else regs) ++ (if m.fm then [maskCode 1] else [])
    gReads := m.g :: (match m.kind with | .strided r => [r] | .unit => [] | .indexed _ => [] | .segment _ => [])
    gWrite := none, bx := false, queue := qVq, ext := !m.store, quiet := h.csr.vl == 0 }

/-! Vector atomics (R166). -/

/-- An FP32 operand as an atomic reads it: a subnormal is a zero of its sign under FRM.FTZ (R219). -/
def fp32In (ftz : Bool) (a : Nat) : Nat := if ftz && (ff32.decode true a).isZero then a / 2 ^ 31 * 2 ^ 31 else a

/-- The FP32 order of R166: −0 below +0. -/
def fp32Below (a b : Nat) : Bool :=
  let x := ff32.decode false a
  let y := ff32.decode false b
  let c := Val.cmp x y
  decide (c < 0) || (c == 0 && x.negative && !y.negative)

/-- FP32 add of R166: to nearest even, overflow to infinity, the canonical NaN for any NaN; subnormals under FRM.FTZ (R219). -/
def fp32Add (ftz : Bool) (a b : Nat) : Nat :=
  (ff32.round { mode := 0, ieee := true, ftz := ftz, draw := 0 } ((ff32.decode ftz a).add false (ff32.decode ftz b)).1).code

/-- FP32 max or min of R166: the non-NaN operand where only one is NaN. -/
def fp32Pick (max : Bool) (a b : Nat) : Nat :=
  let na := (ff32.decode false a).isNan
  let nb := (ff32.decode false b).isNan
  if na && nb then ff32.nanCode
  else if na then b
  else if nb then a
  else if fp32Below a b == max then b else a

/-- The value vamo writes from the old code x and the element y (R166). -/
def vamoAddNew (ftz : Bool) (t : Tag) (x y : Nat) : Nat := if t = .f32 then fp32Add ftz x y else (x + y) % 2 ^ t.bits
def vamoMaxNew (ftz : Bool) (t : Tag) (x y : Nat) : Nat :=
  if t = .f32 then fp32Pick true (fp32In ftz x) (fp32In ftz y) else if t.intOf x < t.intOf y then y else x
def vamoMinNew (ftz : Bool) (t : Tag) (x y : Nat) : Nat :=
  if t = .f32 then fp32Pick false (fp32In ftz x) (fp32In ftz y) else if t.intOf y < t.intOf x then y else x
def vamoSwapNew (_ : Bool) (_ : Tag) (_ y : Nat) : Nat := y

/-- The tags of each operation (R166). -/
def vamoArithTag (t : Tag) : Bool := t.isIndex || t == .f32
def vamoSwapTag (t : Tag) : Bool := t.bytes == 4 || t.bytes == 8

/-- One active element of vamo. -/
def vamoElem (ord : Bool) (D A : VOp) (t it : Tag) (base : W64) (f : Nat → Nat → Nat) (i : Nat) : M Unit := do
  let x ← readCode A it i
  let ea := base + BitVec.ofInt 64 (it.intOf x)
  check (ea.toNat % t.bytes == 0) (alignTrap ea qVq)
  let a := (← getH).acc .amo ord
  let ks ← translateClean (resolvePlain a ea t.bytes qVq) (fun ref ks => do
    let _ ← readCode D t i
    needClean ref a ea ks qVq)
  let y ← readCode D t i
  let old ← rmwAs ((← getS).elemManner ea t.bytes true) ks (fun bs => some (leBytes t.bytes (f (leNat bs) y)))
  writeCode D t i (leNat old)

/-- vamo (R166): without `.o` its elements are unordered (R116), and each is performed exactly once (R103). -/
def vamoBody (allowed : Tag → Bool) (f : Bool → Tag → Nat → Nat → Nat) (mk ord : Bool) (g : GReg) (a d : Fld6) (disp : W64) : M Ctl := do
  let h ← getH
  let D := h.vop d
  let A := h.vop a
  let t := h.opTag D
  let it := h.opTag A
  check (allowed t && it.isIndex && h.groupOk D t && h.groupOk A it && !D.partly A) (operandTrap qVq)
  let body := fun (i : Nat) => do
    if ← activeM mk i then vamoElem ord D A t it (h.gr g + disp) (f h.csr.ftz t) i else inactiveElem D t i
  withSources mk [.vec A it, .vec D t] do
    if ord then elementLoop body else unorderedLoop body false
    whenFull (tailFrom D t h.csr.vlN)
  return .seq

/-- What issue needs to know of vamo: FN is `fn`, or `fn` + 0x10 under `.o`. -/
def vamoInfo (fn : Nat) (long cv mk ord : Bool) (g : GReg) (a d : Fld6) (h : Hart) : VInfo :=
  { cls := some .store, cv := cv, low := lowVX long 0x22 (fn + if ord then 0x10 else 0) cv mk d a g, len := if long then 8 else 4
    ill := fieldIll (h.vfld d && h.vfld a) true, dest := some d
    reads := (h.vop a).regs ++ (h.vop d).regs ++ (if mk then [maskCode 0] else []), writes := (h.vop d).regs
    gReads := [g], gWrite := none, bx := false, queue := qVq, ext := true }

/-! vmcast (R167, R168). -/

/-- The aperture VA of an offset in the Chamber of a core of a die (R24). (DEDUCED, log 37.) -/
def castVa (die core off : Nat) : W64 := apertureVa (chamberAddr (die * 16 + core) off)

/-- Whether a live hart of the sender's gang on core j of a die has a Chamber partition that holds a range (R168). -/
def State.castTarget (s : State) (coreId lo n : Nat) : Bool :=
  (s.gangHarts s.hart.gang).any (fun h => h.core == coreId && h.inChamber (lo, n))

/-- The active codes of vA, all read before any delivery; a poisoned one traps with ESTART 0 and no delivery. -/
def castCodes (A : VOp) (t : Tag) (mk : Bool) (n : Nat) : M (List (Option Nat)) :=
  atElem 0 (collect (fun i => do
    if ← activeM mk i then return some (← readCode A t i) else return none) n 0)

/-- Delivers a list of codes from offset `off` in a core's Chamber, on path MX. The offsets of a target are those of its own core's Chamber, as R167 and R168 have it;
R26 names the issuing core's. (DEDUCED, log 37.) -/
def State.castTo (s : State) (coreId : Nat) (t : Tag) : Nat → List (Option Nat) → State
  | _, [] => s
  | off, c :: r =>
    let s := match c with
      | some x => s.storeBy (some (s.manner pathMX)) false ((List.range t.bytes).map (fun j => chamberKey (chamberAddr coreId (off + j)))) (leBytes t.bytes x)
      | none => s
    State.castTo s coreId t (off + t.bytes) r

/-- vmcast (R168). It names neither BX8 nor BXS as formats it takes, and R226 then rejects them with BX4. (DEDUCED, log 37.) -/
def castBody (mk : Bool) (g : GReg) (a d : Fld6) : M Ctl := do
  let h ← getH
  let A := h.vop a
  let t := h.opTag A
  let v := (h.gr g).toNat
  let cmask := bits v 48 16
  let die := bits v 32 6
  let off := bits v 0 23
  check (bits v 38 10 == 0 && bits v 23 9 == 0 && !t.isBx && t != .bxs && h.groupOk A t) (operandTrap qVq)
  if cmask = 0 ∨ h.csr.vl = 0 then return .seq
  else do
    let low := ((List.range 16).find? (fun j => bit cmask j)).getD 0
    let len := h.csr.vlN * t.bytes
    let s ← getS
    check (s.ownsDie h.part die) ((trap causeAccess (faultTval 0x03 (castVa die low off).toNat) qVq).at 0)
    check (off % t.bytes == 0) ((alignTrap (castVa die low off) qVq).at 0)
    check (decide (off + len ≤ 0x600000)) ((trap causeAccess (faultTval 0x05 (castVa die low (Nat.max off 0x600000)).toNat) qVq).at 0)
    withSources mk [.vec A t] do
      let xs ← castCodes A t mk h.csr.vlN
      whenFull (overRange (fun j => do
        let s ← getS
        if bit cmask j && s.castTarget (die * 16 + j) off len then do
          modify (fun s => s.castTo (die * 16 + j) t off xs)
          writeMask d.toNat j 0x8000
        else writeMask d.toNat j 0) 16 0)
    return .seq

/-- What issue needs to know of vmcast. -/
def vmcastInfo (cv mk : Bool) (g : GReg) (a d : Fld6) (h : Hart) : VInfo :=
  { cls := some .store, cv := cv, low := lowVX false 0x22 8 cv mk d a g, len := 4, ill := fieldIll (h.vfld a) (decide (d.toNat < h.nm)), dest := none
    reads := (h.vop a).regs ++ scaleRegs h (h.vop a) ++ (if mk then [maskCode 0] else []), writes := [maskCode d.toNat], gReads := [g], gWrite := none, bx := false, queue := qVq, ext := true }
/-- vmcast mD, vA, gG (R168). -/
def execVmcast (cv mk : Bool) (g : GReg) (a d : Fld6) (s : State) : Host.Outcome State Fault Refusal :=
  runVector (vmcastInfo cv mk g a d s.hart) false (castBody mk g a d) s

/-! The instructions of MAJ 0x20 and 0x21. -/

/-- The access of vld. -/
def vldMem (mk ord fm a8 : Bool) (g : GReg) (d : Fld6) : VMem :=
  { store := false, kind := .unit, masked := mk, ord := ord, fm := fm, a8 := a8, d := d, g := g, disp := 0 }
def vldInfo (cv mk ord fm a8 : Bool) (g : GReg) (d : Fld6) (h : Hart) : VInfo := (vldMem mk ord fm a8 g d).info cv false h
/-- vld vD, [gG, disp] (R161). -/
def execVld (cv mk ord fm a8 : Bool) (g : GReg) (d : Fld6) (s : State) : Host.Outcome State Fault Refusal :=
  runVector (vldInfo cv mk ord fm a8 g d s.hart) false (vldMem mk ord fm a8 g d).run s

/-- The access of vld in its 64-bit form. -/
def vldLongMem (mk ord fm a8 : Bool) (g : GReg) (d : Fld6) (imm32 : W32) : VMem :=
  { store := false, kind := .unit, masked := mk, ord := ord, fm := fm, a8 := a8, d := d, g := g, disp := imm32.signExtend 64 }
def vldLongInfo (cv mk ord fm a8 : Bool) (g : GReg) (d : Fld6) (imm32 : W32) (h : Hart) : VInfo := (vldLongMem mk ord fm a8 g d imm32).info cv true h
/-- vld vD, [gG, disp] in the 64-bit form (R161). -/
def execVldLong (cv mk ord fm a8 : Bool) (g : GReg) (d : Fld6) (imm32 : W32) (s : State) : Host.Outcome State Fault Refusal :=
  runVector (vldLongInfo cv mk ord fm a8 g d imm32 s.hart) false (vldLongMem mk ord fm a8 g d imm32).run s

/-- The access of vlds. -/
def vldsMem (mk ord fm a8 : Bool) (g : GReg) (st : GReg) (d : Fld6) : VMem :=
  { store := false, kind := (.strided st), masked := mk, ord := ord, fm := fm, a8 := a8, d := d, g := g, disp := 0 }
def vldsInfo (cv mk ord fm a8 : Bool) (g : GReg) (st : GReg) (d : Fld6) (h : Hart) : VInfo := (vldsMem mk ord fm a8 g st d).info cv false h
/-- vlds vD, [gG, disp], gA (R161). -/
def execVlds (cv mk ord fm a8 : Bool) (g : GReg) (st : GReg) (d : Fld6) (s : State) : Host.Outcome State Fault Refusal :=
  runVector (vldsInfo cv mk ord fm a8 g st d s.hart) false (vldsMem mk ord fm a8 g st d).run s

/-- The access of vlds in its 64-bit form. -/
def vldsLongMem (mk ord fm a8 : Bool) (g : GReg) (st : GReg) (d : Fld6) (imm32 : W32) : VMem :=
  { store := false, kind := (.strided st), masked := mk, ord := ord, fm := fm, a8 := a8, d := d, g := g, disp := imm32.signExtend 64 }
def vldsLongInfo (cv mk ord fm a8 : Bool) (g : GReg) (st : GReg) (d : Fld6) (imm32 : W32) (h : Hart) : VInfo := (vldsLongMem mk ord fm a8 g st d imm32).info cv true h
/-- vlds vD, [gG, disp], gA in the 64-bit form (R161). -/
def execVldsLong (cv mk ord fm a8 : Bool) (g : GReg) (st : GReg) (d : Fld6) (imm32 : W32) (s : State) : Host.Outcome State Fault Refusal :=
  runVector (vldsLongInfo cv mk ord fm a8 g st d imm32 s.hart) false (vldsLongMem mk ord fm a8 g st d imm32).run s

/-- The access of vldx. -/
def vldxMem (mk ord fm a8 : Bool) (g : GReg) (a : Fld6) (d : Fld6) : VMem :=
  { store := false, kind := (.indexed a), masked := mk, ord := ord, fm := fm, a8 := a8, d := d, g := g, disp := 0 }
def vldxInfo (cv mk ord fm a8 : Bool) (g : GReg) (a : Fld6) (d : Fld6) (h : Hart) : VInfo := (vldxMem mk ord fm a8 g a d).info cv false h
/-- vldx vD, vA, [gG, disp] (R161). -/
def execVldx (cv mk ord fm a8 : Bool) (g : GReg) (a : Fld6) (d : Fld6) (s : State) : Host.Outcome State Fault Refusal :=
  runVector (vldxInfo cv mk ord fm a8 g a d s.hart) false (vldxMem mk ord fm a8 g a d).run s

/-- The access of vldx in its 64-bit form. -/
def vldxLongMem (mk ord fm a8 : Bool) (g : GReg) (a : Fld6) (d : Fld6) (imm32 : W32) : VMem :=
  { store := false, kind := (.indexed a), masked := mk, ord := ord, fm := fm, a8 := a8, d := d, g := g, disp := imm32.signExtend 64 }
def vldxLongInfo (cv mk ord fm a8 : Bool) (g : GReg) (a : Fld6) (d : Fld6) (imm32 : W32) (h : Hart) : VInfo := (vldxLongMem mk ord fm a8 g a d imm32).info cv true h
/-- vldx vD, vA, [gG, disp] in the 64-bit form (R161). -/
def execVldxLong (cv mk ord fm a8 : Bool) (g : GReg) (a : Fld6) (d : Fld6) (imm32 : W32) (s : State) : Host.Outcome State Fault Refusal :=
  runVector (vldxLongInfo cv mk ord fm a8 g a d imm32 s.hart) false (vldxLongMem mk ord fm a8 g a d imm32).run s

/-- The access of vldseg. -/
def vldsegMem (mk ord fm a8 : Bool) (g : GReg) (nf : BitVec 3) (d : Fld6) : VMem :=
  { store := false, kind := (.segment (nf.toNat + 1)), masked := mk, ord := ord, fm := fm, a8 := a8, d := d, g := g, disp := 0 }
def vldsegInfo (cv mk ord fm a8 : Bool) (g : GReg) (nf : BitVec 3) (d : Fld6) (h : Hart) : VInfo := (vldsegMem mk ord fm a8 g nf d).info cv false h
/-- vldseg vD, [gG, disp], nf (R161). -/
def execVldseg (cv mk ord fm a8 : Bool) (g : GReg) (nf : BitVec 3) (d : Fld6) (s : State) : Host.Outcome State Fault Refusal :=
  runVector (vldsegInfo cv mk ord fm a8 g nf d s.hart) false (vldsegMem mk ord fm a8 g nf d).run s

/-- The access of vldseg in its 64-bit form. -/
def vldsegLongMem (mk ord fm a8 : Bool) (g : GReg) (nf : BitVec 3) (d : Fld6) (imm32 : W32) : VMem :=
  { store := false, kind := (.segment (nf.toNat + 1)), masked := mk, ord := ord, fm := fm, a8 := a8, d := d, g := g, disp := imm32.signExtend 64 }
def vldsegLongInfo (cv mk ord fm a8 : Bool) (g : GReg) (nf : BitVec 3) (d : Fld6) (imm32 : W32) (h : Hart) : VInfo := (vldsegLongMem mk ord fm a8 g nf d imm32).info cv true h
/-- vldseg vD, [gG, disp], nf in the 64-bit form (R161). -/
def execVldsegLong (cv mk ord fm a8 : Bool) (g : GReg) (nf : BitVec 3) (d : Fld6) (imm32 : W32) (s : State) : Host.Outcome State Fault Refusal :=
  runVector (vldsegLongInfo cv mk ord fm a8 g nf d imm32 s.hart) false (vldsegLongMem mk ord fm a8 g nf d imm32).run s

/-- The access of vst. -/
def vstMem (mk ord fm a8 : Bool) (g : GReg) (d : Fld6) : VMem :=
  { store := true, kind := .unit, masked := mk, ord := ord, fm := fm, a8 := a8, d := d, g := g, disp := 0 }
def vstInfo (cv mk ord fm a8 : Bool) (g : GReg) (d : Fld6) (h : Hart) : VInfo := (vstMem mk ord fm a8 g d).info cv false h
/-- vst vD, [gG, disp] (R161). -/
def execVst (cv mk ord fm a8 : Bool) (g : GReg) (d : Fld6) (s : State) : Host.Outcome State Fault Refusal :=
  runVector (vstInfo cv mk ord fm a8 g d s.hart) false (vstMem mk ord fm a8 g d).run s

/-- The access of vst in its 64-bit form. -/
def vstLongMem (mk ord fm a8 : Bool) (g : GReg) (d : Fld6) (imm32 : W32) : VMem :=
  { store := true, kind := .unit, masked := mk, ord := ord, fm := fm, a8 := a8, d := d, g := g, disp := imm32.signExtend 64 }
def vstLongInfo (cv mk ord fm a8 : Bool) (g : GReg) (d : Fld6) (imm32 : W32) (h : Hart) : VInfo := (vstLongMem mk ord fm a8 g d imm32).info cv true h
/-- vst vD, [gG, disp] in the 64-bit form (R161). -/
def execVstLong (cv mk ord fm a8 : Bool) (g : GReg) (d : Fld6) (imm32 : W32) (s : State) : Host.Outcome State Fault Refusal :=
  runVector (vstLongInfo cv mk ord fm a8 g d imm32 s.hart) false (vstLongMem mk ord fm a8 g d imm32).run s

/-- The access of vsts. -/
def vstsMem (mk ord fm a8 : Bool) (g : GReg) (st : GReg) (d : Fld6) : VMem :=
  { store := true, kind := (.strided st), masked := mk, ord := ord, fm := fm, a8 := a8, d := d, g := g, disp := 0 }
def vstsInfo (cv mk ord fm a8 : Bool) (g : GReg) (st : GReg) (d : Fld6) (h : Hart) : VInfo := (vstsMem mk ord fm a8 g st d).info cv false h
/-- vsts vD, [gG, disp], gA (R161). -/
def execVsts (cv mk ord fm a8 : Bool) (g : GReg) (st : GReg) (d : Fld6) (s : State) : Host.Outcome State Fault Refusal :=
  runVector (vstsInfo cv mk ord fm a8 g st d s.hart) false (vstsMem mk ord fm a8 g st d).run s

/-- The access of vsts in its 64-bit form. -/
def vstsLongMem (mk ord fm a8 : Bool) (g : GReg) (st : GReg) (d : Fld6) (imm32 : W32) : VMem :=
  { store := true, kind := (.strided st), masked := mk, ord := ord, fm := fm, a8 := a8, d := d, g := g, disp := imm32.signExtend 64 }
def vstsLongInfo (cv mk ord fm a8 : Bool) (g : GReg) (st : GReg) (d : Fld6) (imm32 : W32) (h : Hart) : VInfo := (vstsLongMem mk ord fm a8 g st d imm32).info cv true h
/-- vsts vD, [gG, disp], gA in the 64-bit form (R161). -/
def execVstsLong (cv mk ord fm a8 : Bool) (g : GReg) (st : GReg) (d : Fld6) (imm32 : W32) (s : State) : Host.Outcome State Fault Refusal :=
  runVector (vstsLongInfo cv mk ord fm a8 g st d imm32 s.hart) false (vstsLongMem mk ord fm a8 g st d imm32).run s

/-- The access of vstx. -/
def vstxMem (mk ord fm a8 : Bool) (g : GReg) (a : Fld6) (d : Fld6) : VMem :=
  { store := true, kind := (.indexed a), masked := mk, ord := ord, fm := fm, a8 := a8, d := d, g := g, disp := 0 }
def vstxInfo (cv mk ord fm a8 : Bool) (g : GReg) (a : Fld6) (d : Fld6) (h : Hart) : VInfo := (vstxMem mk ord fm a8 g a d).info cv false h
/-- vstx vD, vA, [gG, disp] (R161). -/
def execVstx (cv mk ord fm a8 : Bool) (g : GReg) (a : Fld6) (d : Fld6) (s : State) : Host.Outcome State Fault Refusal :=
  runVector (vstxInfo cv mk ord fm a8 g a d s.hart) false (vstxMem mk ord fm a8 g a d).run s

/-- The access of vstx in its 64-bit form. -/
def vstxLongMem (mk ord fm a8 : Bool) (g : GReg) (a : Fld6) (d : Fld6) (imm32 : W32) : VMem :=
  { store := true, kind := (.indexed a), masked := mk, ord := ord, fm := fm, a8 := a8, d := d, g := g, disp := imm32.signExtend 64 }
def vstxLongInfo (cv mk ord fm a8 : Bool) (g : GReg) (a : Fld6) (d : Fld6) (imm32 : W32) (h : Hart) : VInfo := (vstxLongMem mk ord fm a8 g a d imm32).info cv true h
/-- vstx vD, vA, [gG, disp] in the 64-bit form (R161). -/
def execVstxLong (cv mk ord fm a8 : Bool) (g : GReg) (a : Fld6) (d : Fld6) (imm32 : W32) (s : State) : Host.Outcome State Fault Refusal :=
  runVector (vstxLongInfo cv mk ord fm a8 g a d imm32 s.hart) false (vstxLongMem mk ord fm a8 g a d imm32).run s

/-- The access of vstseg. -/
def vstsegMem (mk ord fm a8 : Bool) (g : GReg) (nf : BitVec 3) (d : Fld6) : VMem :=
  { store := true, kind := (.segment (nf.toNat + 1)), masked := mk, ord := ord, fm := fm, a8 := a8, d := d, g := g, disp := 0 }
def vstsegInfo (cv mk ord fm a8 : Bool) (g : GReg) (nf : BitVec 3) (d : Fld6) (h : Hart) : VInfo := (vstsegMem mk ord fm a8 g nf d).info cv false h
/-- vstseg vD, [gG, disp], nf (R161). -/
def execVstseg (cv mk ord fm a8 : Bool) (g : GReg) (nf : BitVec 3) (d : Fld6) (s : State) : Host.Outcome State Fault Refusal :=
  runVector (vstsegInfo cv mk ord fm a8 g nf d s.hart) false (vstsegMem mk ord fm a8 g nf d).run s

/-- The access of vstseg in its 64-bit form. -/
def vstsegLongMem (mk ord fm a8 : Bool) (g : GReg) (nf : BitVec 3) (d : Fld6) (imm32 : W32) : VMem :=
  { store := true, kind := (.segment (nf.toNat + 1)), masked := mk, ord := ord, fm := fm, a8 := a8, d := d, g := g, disp := imm32.signExtend 64 }
def vstsegLongInfo (cv mk ord fm a8 : Bool) (g : GReg) (nf : BitVec 3) (d : Fld6) (imm32 : W32) (h : Hart) : VInfo := (vstsegLongMem mk ord fm a8 g nf d imm32).info cv true h
/-- vstseg vD, [gG, disp], nf in the 64-bit form (R161). -/
def execVstsegLong (cv mk ord fm a8 : Bool) (g : GReg) (nf : BitVec 3) (d : Fld6) (imm32 : W32) (s : State) : Host.Outcome State Fault Refusal :=
  runVector (vstsegLongInfo cv mk ord fm a8 g nf d imm32 s.hart) false (vstsegLongMem mk ord fm a8 g nf d imm32).run s

/-! The vector atomics of MAJ 0x22. -/

def vamoAddInfo (cv mk ord : Bool) (g : GReg) (a d : Fld6) (h : Hart) : VInfo := vamoInfo 1 false cv mk ord g a d h
/-- vamo.add vD, vA, [gG, disp] (R166). -/
def execVamoAdd (cv mk ord : Bool) (g : GReg) (a d : Fld6) (s : State) : Host.Outcome State Fault Refusal :=
  runVector (vamoAddInfo cv mk ord g a d s.hart) false (vamoBody vamoArithTag vamoAddNew mk ord g a d 0) s

def vamoAddLongInfo (cv mk ord : Bool) (g : GReg) (a d : Fld6) (_imm32 : W32) (h : Hart) : VInfo := vamoInfo 1 true cv mk ord g a d h
/-- vamo.add vD, vA, [gG, disp] in the 64-bit form (R166). -/
def execVamoAddLong (cv mk ord : Bool) (g : GReg) (a d : Fld6) (imm32 : W32) (s : State) : Host.Outcome State Fault Refusal :=
  runVector (vamoAddLongInfo cv mk ord g a d imm32 s.hart) false (vamoBody vamoArithTag vamoAddNew mk ord g a d (imm32.signExtend 64)) s

def vamoMaxInfo (cv mk ord : Bool) (g : GReg) (a d : Fld6) (h : Hart) : VInfo := vamoInfo 2 false cv mk ord g a d h
/-- vamo.max vD, vA, [gG, disp] (R166). -/
def execVamoMax (cv mk ord : Bool) (g : GReg) (a d : Fld6) (s : State) : Host.Outcome State Fault Refusal :=
  runVector (vamoMaxInfo cv mk ord g a d s.hart) false (vamoBody vamoArithTag vamoMaxNew mk ord g a d 0) s

def vamoMaxLongInfo (cv mk ord : Bool) (g : GReg) (a d : Fld6) (_imm32 : W32) (h : Hart) : VInfo := vamoInfo 2 true cv mk ord g a d h
/-- vamo.max vD, vA, [gG, disp] in the 64-bit form (R166). -/
def execVamoMaxLong (cv mk ord : Bool) (g : GReg) (a d : Fld6) (imm32 : W32) (s : State) : Host.Outcome State Fault Refusal :=
  runVector (vamoMaxLongInfo cv mk ord g a d imm32 s.hart) false (vamoBody vamoArithTag vamoMaxNew mk ord g a d (imm32.signExtend 64)) s

def vamoMinInfo (cv mk ord : Bool) (g : GReg) (a d : Fld6) (h : Hart) : VInfo := vamoInfo 3 false cv mk ord g a d h
/-- vamo.min vD, vA, [gG, disp] (R166). -/
def execVamoMin (cv mk ord : Bool) (g : GReg) (a d : Fld6) (s : State) : Host.Outcome State Fault Refusal :=
  runVector (vamoMinInfo cv mk ord g a d s.hart) false (vamoBody vamoArithTag vamoMinNew mk ord g a d 0) s

def vamoMinLongInfo (cv mk ord : Bool) (g : GReg) (a d : Fld6) (_imm32 : W32) (h : Hart) : VInfo := vamoInfo 3 true cv mk ord g a d h
/-- vamo.min vD, vA, [gG, disp] in the 64-bit form (R166). -/
def execVamoMinLong (cv mk ord : Bool) (g : GReg) (a d : Fld6) (imm32 : W32) (s : State) : Host.Outcome State Fault Refusal :=
  runVector (vamoMinLongInfo cv mk ord g a d imm32 s.hart) false (vamoBody vamoArithTag vamoMinNew mk ord g a d (imm32.signExtend 64)) s

def vamoSwapInfo (cv mk ord : Bool) (g : GReg) (a d : Fld6) (h : Hart) : VInfo := vamoInfo 4 false cv mk ord g a d h
/-- vamo.swap vD, vA, [gG, disp] (R166). -/
def execVamoSwap (cv mk ord : Bool) (g : GReg) (a d : Fld6) (s : State) : Host.Outcome State Fault Refusal :=
  runVector (vamoSwapInfo cv mk ord g a d s.hart) false (vamoBody vamoSwapTag vamoSwapNew mk ord g a d 0) s

def vamoSwapLongInfo (cv mk ord : Bool) (g : GReg) (a d : Fld6) (_imm32 : W32) (h : Hart) : VInfo := vamoInfo 4 true cv mk ord g a d h
/-- vamo.swap vD, vA, [gG, disp] in the 64-bit form (R166). -/
def execVamoSwapLong (cv mk ord : Bool) (g : GReg) (a d : Fld6) (imm32 : W32) (s : State) : Host.Outcome State Fault Refusal :=
  runVector (vamoSwapLongInfo cv mk ord g a d imm32 s.hart) false (vamoBody vamoSwapTag vamoSwapNew mk ord g a d (imm32.signExtend 64)) s

end Sys2Proof.Machine
end

