-- ==== Sys2Proof/Machine/Stream.lean ====
section
/-! DEFINITION. Inline decoding, vldc (R164, R165), and streams (R171-R176). -/
namespace Sys2Proof.Machine

/-- STREAM (R176): the subcode and the stream register, 0 for vldc. -/
def streamTrap (sub str : Nat) : Trap := trap causeStream (BitVec.ofNat 64 (sub + 256 * str)) qVq

/-- A decode context from its 32 bytes (R164); none where FMT or a reserved byte is wrong. -/
def parseDctx (bs : List Byte) : Option DecodeCtx :=
  if fieldAt bs 16 1 ≤ 1 ∧ fieldAt bs 17 7 = 0 then
    some { src := BitVec.ofNat 64 (fieldAt bs 0 8), remain := fieldAt bs 8 8, fmt := fieldAt bs 16 1, done := fieldAt bs 24 8 }
  else none

/-- A context moved past a chunk. -/
def DecodeCtx.past (c : DecodeCtx) (n : Nat) : DecodeCtx :=
  { c with src := c.src + BitVec.ofNat 64 n, remain := c.remain - n, done := (c.done + 1) % 2 ^ 64 }

/-- Elements of expanded bytes: UINT8 for DEFLATE, UINT16 for PXD16. -/
def expandedCodes (fmt : Nat) (bs : List Byte) : List Nat :=
  if fmt = 1 then (List.range (bs.length / 2)).map (fun j => fieldAt bs (2 * j) 2) else bs.map BitVec.toNat

/-- The tag a format decodes into. -/
def fmtTag (fmt : Nat) : Tag := if fmt = 1 then .u16 else .u8

/-- Reads the chunk header at SRC: FRAME where it is malformed or longer than REMAIN. Poison is logged where its data is consumed at once. -/
def readChunk (c : DecodeCtx) (str : Nat) (log : Bool := true) : M Chunk := do
  let hd ← readRange c.src 16 log
  match parseChunk c.fmt hd with
  | none => raise (streamTrap stFRAME str)
  | some k => do
    check (decide (k.length ≤ c.remain)) (streamTrap stFRAME str)
    return k

/-- Decodes a chunk into staging: it is released only whole (R165). -/
def stageChunk (c : DecodeCtx) (k : Chunk) (str : Nat) (log : Bool := true) : M (List Nat) := do
  let pl ← readRange (c.src + 16) k.clen log
  match decodeChunk c.fmt k pl (k.xlen + 1) with
  | (_, some e) => raise (streamTrap e str)
  | (bs, none) => return expandedCodes c.fmt bs

/-- Writes codes of a tag as elements from index i of an operand (R92). -/
def writeConverted (o : VOp) (st dt : Tag) : Nat → List Nat → M Unit
  | _, [] => pure ()
  | i, x :: r => do
    writeRounded o dt i (← convertCode st dt x)
    writeConverted o st dt (i + 1) r

/-- The loop of vldc: the context and the number of elements at its end. A trap keeps the elements of the chunks before it, and with them their draws, their flags in VSTAT
and their marks in OVFM's mask, on which the rule is silent. (DEDUCED, log 39; DESIGN CHOICE, log 81.) -/
def vldcLoop (D : VOp) (dt : Tag) (lim budget : Nat) : Nat → DecodeCtx → Nat → Nat → M (DecodeCtx × Nat)
  | 0, c, n, _ => pure (c, n)
  | f + 1, c, n, used =>
    if c.remain = 0 then pure (c, n)
    else do
      let k ← readChunk c 0
      let cnt := k.count c.fmt
      check (!(n == 0 && decide (lim < cnt))) (streamTrap stFIT 0)
      if budget < used + k.length ∨ lim < n + cnt then pure (c, n)
      else do
        let xs ← stageChunk c k 0
        writeConverted D (fmtTag c.fmt) dt n xs
        vldcLoop D dt lim budget f (c.past k.length) (n + cnt) (used + k.length)

/-- vldc (R165). (DEDUCED, log 39.) -/
def vldcBody (g a : GReg) (d : Fld6) : M Ctl := do
  let h ← getH
  let D := h.vop d
  let dt := h.opTag D
  let va := h.gr g
  check (windowTagsOk .u8 dt && h.groupRegs D) (operandTrap qVq)
  check (va.toNat % 32 == 0) (alignTrap va qVq)
  let bs ← readRange va 32
  match parseDctx bs with
  | none => raise (streamTrap stFMT 0)
  | some c0 => do
    let lim := Nat.min h.csr.mvl (h.opCount D dt)
    let (c, n) ← vldcLoop D dt lim (h.gr a).toNat (lim + 2) c0 0 0
    let a := (← getH).acc .write false
    let ks ← resolveM a va 32 qVq
    modify (fun s => ((s.beforeWrite a va ks).storeOn (some (s.manner pathLS)) pathLS false (ks.take 16) (leBytes 8 c.src.toNat ++ leBytes 8 c.remain)).storeOn
      (some (s.manner pathLS)) pathLS false (ks.drop 24) (leBytes 8 c.done))
    modCsr (fun r => { r with vl := BitVec.ofNat 64 n })
    tailFrom D dt n
    return .seq

/-- vldc: what issue needs to know. -/
def vldcInfo (g a : GReg) (d : Fld6) (h : Hart) : VInfo :=
  { cls := none, cv := false, low := lowVX false 0x22 0 false false d (a.setWidth 6) g, len := 4, ill := fieldIll (h.vfld d) true, dest := some d
    reads := [], writes := (h.vop d).regs, gReads := [g, a], gWrite := none, bx := false, queue := qVq }
/-- vldc vD, gA, [gG] (R165). -/
def execVldc (g a : GReg) (d : Fld6) (s : State) : Host.Outcome State Fault Refusal := runVector (vldcInfo g a d s.hart) false (vldcBody g a d) s

/-! Binding (R172, R173). -/

/-- A bound stream, if it is bound. -/
def Hart.str (h : Hart) (n : Nat) : Option Stream := h.strs.getD n none

/-- The machine with stream n of the focus hart replaced. -/
def State.setStr (s : State) (n : Nat) (x : Option Stream) : State := s.setHart { s.hart with strs := s.hart.strs.set n x }

/-- A signed 64-bit field. -/
def signed64 (bs : List Byte) (off : Nat) : Int := (BitVec.ofNat 64 (fieldAt bs off 8)).toInt

/-- Whether a count lies in its range. -/
def countOk (n : Nat) : Bool := decide (1 ≤ n) && decide (n < 2 ^ 31)

/-- A stream from its descriptor, but for its decode context; none where DESC applies (R172, R173). (DEDUCED, log 40.) -/
def parseSdesc (bs : List Byte) : Option Stream :=
  match tagOf (fieldAt bs 0x30 1) with
  | none => none
  | some t =>
    let dctx := fieldAt bs 0x28 8
    let w : Int := t.bytes
    let x : Stream :=
      { base := BitVec.ofNat 64 (fieldAt bs 0 8), ni := fieldAt bs 8 4, no := fieldAt bs 12 4, si := signed64 bs 0x10, so := signed64 bs 0x18
        scale := BitVec.ofNat 64 (fieldAt bs 0x20 8), ctx := none, mtag := t, write := fieldAt bs 0x31 1 == 1, pos := 0, ahead := [], bufAt := 0, buf := [], more := [] }
    let ok := countOk x.ni && countOk x.no && fieldAt bs 0x32 14 == 0 && decide (fieldAt bs 0x31 1 ≤ 1) && t != .bx4 && fieldAt bs 0x20 8 % 4 == 0
      && (if dctx = 0 then (x.base.toNat : Int) % w == 0 && x.si % w == 0 && x.so % w == 0
          else !x.write && x.base == 0 && x.si == 0 && x.so == 0 && dctx % 32 == 0 && (t == .u8 || t == .u16))
    if ok then some x else none

/-- sbind (R173): a bound stream is freed first, and kept where sbind traps (R387). (DEDUCED, log 40; DEDUCED, log 44.) -/
def sbindBody (g : GReg) (n : Nat) : M Ctl := do
  let h ← getH
  let va := h.gr g
  check (va.toNat % 64 == 0) (alignTrap va qVq)
  let bs ← readRange va 64
  match parseSdesc bs with
  | none => raise (streamTrap stDESC n)
  | some x =>
    let dctx := fieldAt bs 0x28 8
    if dctx = 0 then do
      modify (fun s => s.setStr n (some x))
      return .seq
    else do
      let cb ← readRange (BitVec.ofNat 64 dctx) 32
      match parseDctx cb with
      | none => raise (streamTrap stFMT n)
      | some c => do
        check (x.mtag == fmtTag c.fmt) (streamTrap stDESC n)
        modify (fun s => s.setStr n (some { x with ctx := some c }))
        return .seq

/-- What issue needs to know of sbind and sfree. -/
def sctlInfo (fn : Nat) (g : GReg) (d : Fld6) : VInfo :=
  { cls := none, cv := false, low := lowVX false 0x27 fn false false d 0 g, len := 4, ill := fieldIll true (decide (d.toNat < 8)), dest := none
    reads := [], writes := [], gReads := [g], gWrite := none, bx := false, queue := qVq }

/-- sbind: what issue needs to know. -/
def sbindInfo (g : GReg) (d : Fld6) (_h : Hart) : VInfo := sctlInfo 0 g d
/-- sbind sD, gG (R173). -/
def execSbind (g : GReg) (d : Fld6) (s : State) : Host.Outcome State Fault Refusal := runVector (sbindInfo g d s.hart) false (sbindBody g d.toNat) s

/-- sfree: what issue needs to know. -/
def sfreeInfo (d : Fld6) (_h : Hart) : VInfo := sctlInfo 1 0 d
/-- sfree sD (R173): every vpush write of this model is performed when its vpush is. -/
def execSfree (d : Fld6) (s : State) : Host.Outcome State Fault Refusal :=
  runVector (sfreeInfo d s.hart) false (do
    modify (fun s => s.setStr d.toNat none)
    return .seq) s

/-! Reading a stream (R174, R175). -/

/-- The VA of element n of a stream without DCTX, and of its scale word (R172). -/
def Stream.va (x : Stream) (n : Nat) : W64 := x.base + BitVec.ofInt 64 ((n / x.ni : Nat) * x.so + (n % x.ni : Nat) * x.si)
def Stream.scaleVa (x : Stream) (n : Nat) : W64 := x.scale + BitVec.ofNat 64 (4 * (n / x.ni))

/-- Elements of a stream. -/
def Stream.total (x : Stream) : Nat := x.ni * x.no

/-- The place where decoding goes on. -/
def Stream.frontier (x : Stream) (c : DecodeCtx) : Nat × DecodeCtx := (x.more.getLast?).getD (x.bufAt, c)

/-- Decodes chunks until position n is in the buffer: a stream that ends before it is FRAME. -/
def decodeTo (log : Bool) (str n : Nat) : Nat → M Unit
  | 0 => raise (streamTrap stFRAME str)
  | f + 1 => do
    match (← getH).str str with
    | none => pure ()
    | some x =>
      match x.ctx with
      | none => pure ()
      | some c0 =>
        if n < x.bufAt + x.buf.length then pure ()
        else do
          let (at', c) := x.frontier c0
          check (c.remain != 0) (streamTrap stFRAME str)
          let k ← readChunk c str log
          let xs ← stageChunk c k str log
          modify (fun s => s.setStr str (some { x with buf := x.buf ++ xs, more := x.more ++ [(at' + xs.length, c.past k.length)] }))
          decodeTo log str n f

/-- A load of a stream: a vector access without `.o` (R175). (DEDUCED, log 41.) -/
def streamLoad (log : Bool) (va : W64) (n : Nat) : M Nat := do
  let a := (← getH).acc .read false
  let ks ← translateClean (resolveM a va n qVq) (fun ref ks => cleanOr log ref a va ks qVq)
  return leNat (← readAs ((← getS).elemManner va n false) ks)

/-- The scale word of element n; 1.0 stands where the stream has none. -/
def readScale (log : Bool) (x : Stream) (n : Nat) : M Nat := if x.scale = 0 then pure 0x3F800000 else streamLoad log (x.scaleVa n) 4

/-- Element n of a read stream: its code under MTAG and its scale word; `log` where it is consumed at once. -/
def readStream (log : Bool) (str : Nat) (x : Stream) (n : Nat) : M (Nat × Nat) := do
  let code ← match x.ctx with
    | none => streamLoad log (x.va n) x.mtag.bytes
    | some _ => do
      decodeTo log str n (n + 2)
      match (← getH).str str with
      | some y => pure (y.buf.getD (n - y.bufAt) 0)
      | none => pure 0
  let sc ← readScale log x n
  return (code, sc)

/-- Element n as vpop takes it: what was read ahead of it, or a read now (R175). A recorded fault is raised once. -/
def takeStream (str n : Nat) : M (Nat × Nat) := do
  match (← getH).str str with
  | none => raise (streamTrap stUNBOUND str)
  | some x =>
    match x.ahead.find? (fun e => e.1 == n) with
    | some (_, .value c w) => pure (c, w)
    | some (_, .fault f) => do
      modify (fun s => s.setStr str (some { x with ahead := x.ahead.filter (fun e => e.1 != n) }))
      if f.cause = causePoison then
        modify (fun s => match s.resolveSpan (s.hart.acc .read false) f.tval 1 with
          | .ok (k :: _, _) => s.logPoison 5 k
          | .ok ([], _) => s
          | .error _ => s)
      raise (trap f.cause f.tval qVq)
    | none => readStream true str x n

/-- x·scale rounded to FP32 (R174). A further conversion follows where `more`: the one draw of stochastic rounding is then the conversion's. An integer is first
taken to FP32. (DEDUCED, log 40.) -/
def scaleRound (t : Tag) (more : Bool) (code sc : Nat) : M Rounded := do
  let c := (← getH).csr
  let n := ff32.round (c.rnd 0).rne (t.decode false code)
  let x := if t.isInt then ff32.decode false n.code else t.decode c.ftz code
  let (p, f) := x.mul (ff32.decode c.ftz sc)
  let d ← drawIf (!more)
  let r := ff32.round (if more && c.mode == 5 then (c.rnd 0).rne else c.rnd d) p
  return { r with flags := r.flags ||| f ||| (if t.isInt then n.flags else 0) }

/-- A code of tag `st`, scaled where the stream has SCALE, converted into tag `dt` (R174). -/
def scaleConvert (x : Stream) (st dt : Tag) (code sc : Nat) : M Rounded := do
  if x.scale = 0 then convertCode st dt code
  else
    let r ← scaleRound st (dt != .f32) code sc
    if dt = .f32 then return r
    else
      let y ← convertCode .f32 dt r.code
      return { y with flags := y.flags ||| r.flags, sat := y.sat || r.sat }

/-- Whether an element that a stream gives to a register, or takes from one, is rounded, and so takes a draw under SR (R230). -/
def Stream.rounds (x : Stream) (st dt : Tag) : Bool := x.scale != 0 || (EOut.ofCode 0).rounds st dt

/-- Which tags a stream moves: R174 names no block format, and R226 then takes none. (DEDUCED, log 40.) -/
def Stream.tagsOk (x : Stream) (v : Tag) : Bool := [x.mtag, v].all (fun t => !t.isBx && t != .bxs)

/-- Advances POS past a strip: what was read ahead of it and the chunks before it are dropped. -/
def Stream.advance (x : Stream) (n : Nat) : Stream :=
  let p := x.pos + n
  let x := { x with pos := p, ahead := x.ahead.filter (fun e => decide (p ≤ e.1)) }
  match (x.more.filter (fun e => decide (e.1 ≤ p))).getLast? with
  | none => x
  | some (at', c) => { x with ctx := some c, bufAt := at', buf := x.buf.drop (at' - x.bufAt), more := x.more.filter (fun e => decide (at' < e.1)) }

/-- Read-ahead data discarded, as at a pre-emption (R175). -/
def Stream.discard (x : Stream) : Stream := { x with ahead := [], buf := [], more := [] }

/-- UNBOUND and DIR (R174): the stream, if a transfer in a direction may go on. -/
def needStream (str : Nat) (write : Bool) : M Stream := do
  match (← getH).str str with
  | none => raise (streamTrap stUNBOUND str)
  | some x => do
    check (x.write == write) (streamTrap stDIR str)
    return x

/-- POS advanced by VL when the strip is complete. -/
def endStrip (str vl : Nat) : M Unit :=
  modify (fun s => match s.hart.str str with | some x => s.setStr str (some (x.advance vl)) | none => s)

/-- An element that vpop reads (R174): its code and scale word, none at or above the stream's end. -/
def popRead (x : Stream) (str : Nat) (mk : Bool) (i : Nat) : M (Option (Option (Nat × Nat))) := do
  if ← activeM mk i then
    if x.total ≤ x.pos + i then return some none else return some (some (← takeStream str (x.pos + i)))
  else return none

/-- What vpop makes of an element (R174). -/
def popWrite (x : Stream) (D : VOp) (dt : Tag) (i : Nat) : Option (Option (Nat × Nat)) → M Unit
  | none => inactiveElem D dt i
  | some none => do
    let _ ← drawIf (x.rounds x.mtag dt)
    writeCode D dt i 0
  | some (some (c, w)) => do writeRounded D dt i (← scaleConvert x x.mtag dt c w)

/-- vpop (R174): its elements are unordered (R116), but for the draws of stochastic rounding. UNBOUND and DIR come before OPERAND: the rule does not rank them.
(DESIGN CHOICE, log 81.) -/
def vpopBody (mk : Bool) (d a : Fld6) : M Ctl := do
  let x ← needStream a.toNat false
  let h ← getH
  let D := h.vop d
  let dt := h.opTag D
  check (x.tagsOk dt && h.groupOk D dt) (operandTrap qVq)
  withSources mk [] do
    if h.csr.mode = 5 then do
      let (xs, t) ← gatherAny (popRead x a.toNat mk) h.bounds.lo h.bounds.hi
      overRange (fun i => match xs.find? (fun y => y.1 == i) with | some y => popWrite x D dt i y.2 | none => pure ()) (h.bounds.hi - h.bounds.lo) h.bounds.lo
      raiseMet t
    else unorderedLoop (fun i => do popWrite x D dt i (← popRead x a.toNat mk i)) true
    whenFull (do
      codeTail D dt
      endStrip a.toNat h.csr.vlN)
  return .seq

/-- What vpush makes of an element (R174): where its bytes go, and its code, none where it is inactive. A fault comes before its draw (R230). -/
def pushRead (x : Stream) (str : Nat) (D : VOp) (st : Tag) (mk : Bool) (i : Nat) : M (Option (W64 × List Nat × Nat)) := do
  if ← activeM mk i then do
    check (decide (x.pos + i < x.total)) (streamTrap stEND str)
    let y ← readCode D st i
    let w ← readScale true x (x.pos + i)
    let va := x.va (x.pos + i)
    let ks ← resolveElem true false va x.mtag.bytes
    let r ← scaleConvert x st x.mtag y w
    orFlags r.flags
    if r.sat then saturate i else pure ()
    return some (va, ks, r.code)
  else return none

/-- An element of vpush stored. -/
def pushWrite (x : Stream) : Option (W64 × List Nat × Nat) → M Unit
  | none => pure ()
  | some (va, ks, code) => modify (fun s => s.elemPut va ks (leBytes x.mtag.bytes code))

/-- vpush (R174): its elements are unordered (R116), but for the draws of stochastic rounding. UNBOUND and DIR come before OPERAND: the rule does not rank them.
(DESIGN CHOICE, log 8; DESIGN CHOICE, log 81.) -/
def vpushBody (mk : Bool) (d a : Fld6) : M Ctl := do
  let x ← needStream a.toNat true
  let h ← getH
  let D := h.vop d
  let st := h.opTag D
  check (x.tagsOk st && h.groupOk D st) (operandTrap qVq)
  withSources mk [.vec D st] do
    if h.csr.mode = 5 then do
      let (xs, t) ← gatherList (pushRead x a.toNat D st mk) (elemOrder 0 h.bounds.lo h.bounds.hi)
      let (c, s) := (← getS).choose
      set s
      overRange (fun j => pushWrite x ((xs[(elemOrder c 0 xs.length).getD j 0]?).bind Prod.snd)) xs.length 0
      raiseMet t
    else unorderedLoop (fun i => do pushWrite x (← pushRead x a.toNat D st mk i)) true
    whenFull (endStrip a.toNat h.csr.vlN)
  return .seq

/-- vpop: what issue needs to know. -/
def vpopInfo (cv mk : Bool) (a d : Fld6) (h : Hart) : VInfo :=
  ({ cls := some .load, cv := cv, low := lowVX false 0x23 0 cv mk d a 0, len := 4, ill := fieldIll (h.vfld d) (decide (a.toNat < 8)), dest := some d
     reads := if mk then [maskCode 0] else [], writes := (h.vop d).regs ++ scaleRegs h (h.vop d), gReads := [], gWrite := none, bx := false, queue := qVq, ext := true } : VInfo).canSat h
/-- vpop vD, sA (R174). -/
def execVpop (cv mk : Bool) (a d : Fld6) (s : State) : Host.Outcome State Fault Refusal := runVector (vpopInfo cv mk a d s.hart) false (vpopBody mk d a) s

/-- vpush: what issue needs to know. -/
def vpushInfo (cv mk : Bool) (a d : Fld6) (h : Hart) : VInfo :=
  ({ cls := some .store, cv := cv, low := lowVX false 0x23 1 cv mk d a 0, len := 4, ill := fieldIll (h.vfld d) (decide (a.toNat < 8)), dest := some d
     reads := (h.vop d).regs ++ scaleRegs h (h.vop d) ++ if mk then [maskCode 0] else [], writes := [], gReads := [], gWrite := none, bx := false, queue := qVq } : VInfo).canSat h
/-- vpush vD, sA (R174). -/
def execVpush (cv mk : Bool) (a d : Fld6) (s : State) : Host.Outcome State Fault Refusal := runVector (vpushInfo cv mk a d s.hart) false (vpushBody mk d a) s

/-- What reading ahead of position n records: the value, or the fault, which waits for its element (R175); the errors it met are corrected and logged (R62). -/
def State.readAhead (s : State) (str n : Nat) : State :=
  match s.hart.str str with
  | none => s
  | some x =>
    if x.write ∨ n < x.pos ∨ x.total ≤ n ∨ x.ahead.any (fun e => e.1 == n) then s
    else
      match readStream false str x n s with
      | .ok (c, w) s' =>
        match s'.hart.str str with
        | some y => s'.setStr str (some { y with ahead := y.ahead ++ [(n, .value c w)] })
        | none => s'
      | .error t s' => (s.withErrors s').setStr str (some { x with ahead := x.ahead ++ [(n, .fault { cause := t.cause, sub := t.tval.setWidth 8, tval := t.tval })] })

/-- STREAM_READ_AHEAD (R175). (DESIGN CHOICE, log 42.) -/
def execStreamReadAhead (str : BitVec 3) (n : Nat) (s : State) : Host.Outcome State Fault Refusal := .next (s.readAhead str.toNat n).endWrites

end Sys2Proof.Machine
end

