-- ==== Sys2Proof/Machine/Engines.lean ====
section
/-! DEFINITION. Command records: enq (R333-R337), completion words (R338, R339), and the copy, decode, top-k, ring and storage commands (R342-R354). -/
namespace Sys2Proof.Machine

/-! Records. -/

end Sys2Proof.Machine
namespace Sys2Proof
open Machine
/-- The 64 bytes of a record, and a field of it. -/
def Command.list (c : Command) : List Byte := Machine.leBytes 64 c.bytes.toNat
def Command.fld (c : Command) (off n : Nat) : Nat := c.bytes.toNat / 2 ^ (8 * off) % 2 ^ (8 * n)
def Command.sfld (c : Command) (off : Nat) : Int := (BitVec.ofNat 64 (c.fld off 8)).toInt
def Command.va (c : Command) (off : Nat) : W64 := BitVec.ofNat 64 (c.fld off 8)

/-- Header fields (R337). -/
def Command.type (c : Command) : Nat := c.fld 0 1
def Command.wdog (c : Command) : Bool := Machine.bit (c.fld 1 1) 0
def Command.fua (c : Command) : Bool := Machine.bit (c.fld 1 1) 1
def Command.cwa (c : Command) : W64 := c.va 8
end Sys2Proof
namespace Sys2Proof.Machine

/-- The ENGINE subcode of a record that enq refuses (R335). -/
def enqBad (user : Bool) (c : Command) : Option Nat :=
  if c.type = 0 ∨ 10 < c.type then some 1
  else if c.cwa = 0 ∨ c.cwa.toNat % 16 ≠ 0 then some 2
  else if c.type = 4 ∧ c.wdog ∧ user then some 3
  else none

/-- ENGINE (R335). -/
def engineTrap (sub j : Nat) : Trap := trap causeEngine (BitVec.ofNat 64 (sub + 256 * j)) qEq

/-- Whether the hart's EQ has a free entry (R4) and the engine's queue takes a record (R334). How full the engine is, is free, and so is how many of the hart's
records their engines have taken from the EQ and not yet ended. (DESIGN CHOICE, log 8.) -/
def acceptRecord (hart : Nat) : M Bool := do
  let (n, s) := (← getS).choose
  let (taken, s) := s.choose
  set s
  return n == 0 && decide ((s.engines.filter (fun c => c.hart == hart)).length - taken < Config.eqDepth)

/-- The record in elements 16j to 16j + 15 of a group. -/
def readRecord (A : VOp) (t : Tag) (j : Nat) : M Nat := do
  let xs ← collect (fun i => readCode A t i qEq) 16 (16 * j)
  return leNat (xs.flatMap (leBytes 4))

/-- One record of enq (R334). -/
def enqOne (mk : Bool) (A : VOp) (t : Tag) (d j : Nat) : M Unit := do
  let s ← getS
  let h := s.hart
  let ok ← if ← activeM mk (16 * j) qEq then do
      let v ← readRecord A t j
      let c : Command := { bytes := BitVec.ofNat 512 v, part := h.part, asid := h.asid, die := h.die, hart := h.id, gang := h.gang, user := !h.sup, mark := s.fences }
      match enqBad c.user c with
      | some sub => raise (engineTrap sub j)
      | none =>
        if ← acceptRecord h.id then do
          modify (fun s => { s with engines := s.engines ++ [c] })
          pure true
        else pure false
    else pure false
  overRange (fun i => writeMask d i (if ok then 0x8000 else 0)) 16 (16 * j)

/-- enq (R334). -/
def enqBody (mk : Bool) (d a : Fld6) : M Ctl := do
  let h ← getH
  let A := h.vop a
  let t := h.opTag A
  check ((t == .u32 || t == .i32 || t == .f32) && h.groupOk A t && h.csr.vlN % 16 == 0 && h.maskOk) (operandTrap qEq)
  let lo := h.csr.estart.toNat / 16
  let s ← getS
  let read := fun (f : Nat → Nat) => (List.range h.csr.vlN).map (fun i => if s.active mk (i / 16 * 16) then some (f i) else none)
  withSources false (.picked A t (read id) :: if mk then [.pickedMask 0 (read (fun i => i / 16 * 16))] else []) do
    overRange (fun j => atElem (16 * j) (enqOne mk A t d.toNat j)) (h.csr.vlN / 16 - lo) lo
    maskTailFrom d.toNat h.csr.vlN
  return .seq

/-- enq: what issue needs to know. -/
def enqInfo (mk : Bool) (a d : Fld6) (h : Hart) : VInfo :=
  { cls := none, cv := false, low := lowVX false 0x2C 0 false mk d a 0, len := 4, ill := fieldIll (h.vfld a) (decide (d.toNat < h.nm)), dest := none
    reads := (h.vop a).regs ++ (if mk then [maskCode 0] else []), writes := [maskCode d.toNat], gReads := [], gWrite := none, bx := false, queue := qEq }
/-- enq mD, vA (R334). -/
def execEnq (mk : Bool) (a d : Fld6) (s : State) : Host.Outcome State Fault Refusal := runVector (enqInfo mk a d s.hart) false (enqBody mk d a) s

/-! Engines at work. -/

/-- How a command fails (R338): STATUS, CAUSE, SUB, AUX. -/
structure EFail where
  status : Nat
  cause : Nat
  sub : Nat
  aux : Nat
deriving DecidableEq, Repr

/-- A command at work: the machine, the die whose engine works, the units completed, and the destination lines that received poisoned data. -/
structure ERun where
  s : State
  die : Nat
  count : Nat
  lines : List Nat
deriving DecidableEq, Repr

abbrev EM := EStateM EFail ERun

def eFail {α : Type} (f : EFail) : EM α := throw f

/-- RECORD at a field offset (R337). -/
def recordFail (off : Nat) : EFail := { status := 4, cause := 0, sub := off, aux := 0 }

/-- FAULT with a cause of the hart's traps (R339). -/
def faultFail (cause : Byte) (sub aux : Nat) : EFail := { status := 2, cause := cause.toNat, sub := sub, aux := aux }

/-- STREAM in a completion word; CUT for LENGTH (R349, R350). -/
def streamFail (sub aux : Nat) : EFail := { status := if sub = stLENGTH then 3 else 2, cause := causeStream.toNat, sub := sub, aux := aux }

/-- A part of a command whose failure is looked at. -/
def eTry {α : Type} (m : EM α) : EM (Except EFail α) := fun r =>
  match m r with
  | .ok a r => .ok (.ok a) r
  | .error e r => .ok (.error e) r

/-- Units counted. -/
def eCount (n : Nat) : EM Unit := modify (fun r => { r with count := r.count + n })

end Sys2Proof.Machine
namespace Sys2Proof
open Machine
/-- An access of a command from a die: normal memory only, in the issuer's address space and mode, through the die TLB (R39, R102, R341). Once a link failure has cut the
command off, no peer module (R413). -/
def Command.acc (c : Command) (die : Nat) (kind : AKind) : Acc :=
  { kind := kind, dev := false, peer := !c.cut, part := c.part, asid := c.asid, user := c.user, die := die, core := none }
end Sys2Proof
namespace Sys2Proof.Machine

/-- Keys of bytes within one page. -/
def eKeys (c : Command) (kind : AKind) (va : W64) (n : Nat) : EM (List Nat) := fun r =>
  match r.s.resolveSpan (c.acc r.die kind) va n with
  | .ok (ks, s) => .ok ks { r with s := s }
  | .error f => .error (faultFail f.cause f.sub.toNat va.toNat) { r with s := r.s.meetWalks (c.acc r.die kind) va n }

/-- A command's accesses on a path as events: of the hart that issued it, while the gang that issued it lasts (R94), standing at its enq (R105); those of one engine access
form request groups (R124). -/
def State.issuer (s : State) (c : Command) (path : Nat) : Option Manner :=
  if (s.hart :: s.parked).any (fun h => h.id == c.hart && h.gang == c.gang && h.live) then
    some { hart := c.hart, path := path, stamp := c.mark, split := .locs, acquire := false, release := false, grouped := true }
  else none

/-- The point of a check that a command makes on a path: a storage port, else the engine (R59, R392). -/
def checkPoint (path : Nat) : Nat := if path = pathSG then 5 else 7

/-- The machine once an engine has met the bit errors and the check mismatches of bytes it reads (R51, R59). -/
def State.eMeet (s : State) (c : Command) (die path : Nat) (va : W64) (ks : List Nat) : State :=
  s.inspect (checkPoint path) ks (s.checkedKeys (c.acc die .read) va ks)

/-- The first byte of a read of a command that carries poison: of a poisoned unit, or at a storage port of a line whose check does not match (R60, R339). -/
def State.eBad (s : State) (c : Command) (die path : Nat) (va : W64) (ks : List Nat) : Option Nat :=
  let bad := if path = pathSG then s.badChecks (s.checkedKeys (c.acc die .read) va ks) else []
  ks.findIdx? (fun k => (!isRegSpace k && s.poisoned k) || bad.contains (checkLine k))

/-- The machine as a read of a command sees it, and as it leaves it. -/
def State.eLook (s : State) (c : Command) (path : Nat) (ks : List Nat) : State × State :=
  let s := { s with groups := [] }
  let (v, s) := match s.issuer c path with | some m => s.look m ks | none => (s, s)
  (v, s.afterRead ks)

/-- Bytes from `va` to the end of its page, at most n. -/
def roomAt (va : W64) (n : Nat) : Nat := Nat.min n (4096 - va.toNat % 4096)

/-- Bytes of a range, page by page: POISON for a poisoned unit (R339). -/
def eReadFrom (c : Command) (path : Nat) : Nat → W64 → Nat → EM (List Byte)
  | 0, _, _ => pure []
  | f + 1, va, n =>
    if n = 0 then pure []
    else do
      let k := roomAt va n
      let r0 ← get
      let ks ← eKeys c .read va k
      modify (fun r => { r with s := r.s.eMeet c r.die path va ks })
      let r ← get
      match r.s.eBad c r.die path va ks with
      | some j => do
        set { r0 with s := r0.s.withErrors r.s }
        eFail (faultFail causePoison 0 ((va + BitVec.ofNat 64 j) &&& ~~~(7 : W64)).toNat)
      | none => do
        let (v, s) := r.s.eLook c path ks
        set { r with s := s }
        let rest ← eReadFrom c path f (va + BitVec.ofNat 64 k) (n - k)
        return v.pathBytes path ks ++ rest

def eRead (c : Command) (path : Nat) (va : W64) (n : Nat) : EM (List Byte) := eReadFrom c path (n / 4096 + 2) va n

/-- Bytes that a command stores at keys of one page. An engine's write reaches a bank as whole units wherever it covers them. (DESIGN CHOICE, log 8.) -/
def State.eStore (s : State) (c : Command) (die path : Nat) (va : W64) (ks : List Nat) (bs : List Byte) : State :=
  ({ s with groups := [] }.beforeWrite (c.acc die .write) va ks).storeOn (s.issuer c path) path true ks bs

/-- The bytes of a completion word stored, as one release (R338). -/
def State.eRelease (s : State) (c : Command) (die path : Nat) (va : W64) (ks : List Nat) (bs : List Byte) : State :=
  (s.beforeWrite (c.acc die .write) va ks).storeOn ((s.issuer c path).map (fun m => { m with split := .one, release := true, grouped := false })) path true ks bs

/-- A range written, page by page. Each page counts what it completes: one for every `unit` bytes from the `done` already written, none where `unit` is 0 (R339). -/
def eWriteFrom (c : Command) (path unit base : Nat) : Nat → Nat → W64 → List Byte → EM Unit
  | 0, _, _, _ => pure ()
  | f + 1, done, va, bs =>
    if bs.isEmpty then pure ()
    else do
      let k := roomAt va bs.length
      let ks ← eKeys c .write va k
      modify (fun r => { r with s := r.s.eStore c r.die path va ks (bs.take k), count := base + (done + k) / unit })
      eWriteFrom c path unit base f (done + k) (va + BitVec.ofNat 64 k) (bs.drop k)

/-- A range written whose every `unit` bytes count as one, or that counts nothing. -/
def eWriteUnits (c : Command) (path unit : Nat) (va : W64) (bs : List Byte) : EM Unit := do
  eWriteFrom c path unit (← get).count (bs.length / 4096 + 2) 0 va bs
def eWrite (c : Command) (path : Nat) (va : W64) (bs : List Byte) : EM Unit := eWriteUnits c path 0 va bs

end Sys2Proof.Machine
namespace Sys2Proof
open Machine
/-- The completion word written (R338), as one release on the command's path; where its write faults it is logged on the engine's die (R339, R393). -/
def Command.complete (c : Command) (path die status cause sub count aux : Nat) (s : State) : State :=
  let word := status + cause * 2 ^ 8 + sub * 2 ^ 16 + Nat.min count 0xFFFFFFFF * 2 ^ 32 + aux % 2 ^ 64 * 2 ^ 64
  let s := s.endWrites
  match s.resolveSpan (c.acc die .write) c.cwa 16 with
  | .ok (ks, s) => (s.eRelease c die path c.cwa ks (Machine.leBytes 16 word)).payDone
  | .error f => State.payDone <| (s.meetWalks (c.acc die .write) c.cwa 16).logError die 8 7 0xFF (if f.cause = causePage then 0 else s.paOf c.part c.asid c.cwa) (c.type * 2 ^ 57 + c.cwa.toNat % 2 ^ 57)
end Sys2Proof
namespace Sys2Proof.Machine

/-- The die of a root port (R336). -/
def portDie (p : Nat) : Nat := if p % 2 = 0 then 7 else 56

/-- Takes a command out of the engines' queues as it runs. -/
def State.dropCommand (s : State) (c : Command) : State := { s with engines := s.engines.erase c }

end Sys2Proof.Machine
namespace Sys2Proof
open Machine
/-- The die of the engine that takes a command (R336): the port's, the array's that FLCFG names, the issuer's. -/
def Command.site (c : Command) : Nat :=
  if c.type = 7 ∨ c.type = 8 then portDie (c.fld 0x10 1) else if c.type = 9 ∧ c.fld 0x18 1 < 64 then c.fld 0x18 1 else c.die

/-- Runs a command's body and writes its completion word. The body answers COUNT and AUX on DONE; `none` stands for a value its rules do not state.
(DESIGN CHOICE, log 64.) -/
def Command.finish (c : Command) (path die : Nat) (body : EM (Option Nat × Option Nat)) (s : State) : State :=
  match body { s := s, die := c.site, count := 0, lines := [] } with
  | .ok (cnt, aux) r =>
    let (n, s) := r.s.fresh
    c.complete path die 1 0 0 (cnt.getD (Config.freeResult (2 * n) % 2 ^ 32)) (aux.getD (Config.freeResult (2 * n + 1))) s
  | .error f r =>
    let (n, s) := r.s.fresh
    c.complete path die f.status f.cause f.sub r.count (if f.status = 4 then Config.freeResult (2 * n + 1) else f.aux) s

/-- Runs a command that an engine takes out of its queue. -/
def Command.run (c : Command) (path die : Nat) (body : EM (Option Nat × Option Nat)) (s : State) : State := c.finish path die body (s.dropCommand c)

/-- The header checks of the engine (R337), followed by a command's own, each by its offset. -/
def Command.checks (c : Command) (l : List (Nat × Bool)) : EM Unit :=
  match firstBad ([(1, c.fld 1 1 < 4 && (!c.wdog || c.type == 4) && (!c.fua || c.type == 8)), (2, c.fld 2 6 == 0)] ++ l) with
  | some o => eFail (recordFail o)
  | none => pure ()
end Sys2Proof
namespace Sys2Proof.Machine

/-! COPY (R342). -/

/-- Destination keys whose source byte is poisoned. -/
def State.badPairs (s : State) (src dst : List Nat) : List Nat :=
  (src.zip dst).filterMap (fun p => if s.poisoned p.1 then some p.2 else none)

/-- Logs each poisoned unit among keys where it was found. (DEDUCED, log 65.) -/
def State.logUnits (s : State) (ks : List Nat) : State :=
  (((ks.filter s.poisoned).map unitOf).eraseDups).foldl (fun s k => s.logPoison 2 k) s

/-- VAs of the 64-byte lines that hold the poisoned bytes of a chunk. -/
def State.badLines (s : State) (src : List Nat) (dst : W64) : List Nat :=
  ((src.zip (List.range src.length)).filterMap (fun p => if s.poisoned p.1 then some ((dst + BitVec.ofNat 64 p.2).toNat / 64) else none)).eraseDups

/-- The whole aligned lines that a copy moves unchanged, as (source, destination) (R59, R341): both in DRAM, under no graph. -/
def State.movedLines (s : State) (src dst : List Nat) : List (Nat × Nat) :=
  (src.zip dst).filter (fun p => p.1 % 64 == 0 && p.2 % 64 == 0 && !isChamber p.1 && !isChamber p.2
    && (List.range 64).all (fun j => (src.zip dst).contains (p.1 + j, p.2 + j)) && (s.boundGraph pathCP false p.1).isNone && (s.boundGraph pathCP true p.2).isNone)

/-- Bytes of a chunk that a copy carries: what is not moved as whole lines has its check verified at the engine, or as it arrives in a Chamber (R59). (DESIGN CHOICE, log 74.) -/
def State.copyChunk (s : State) (c : Command) (die : Nat) (src dst : W64) (ks kd : List Nat) : State × List Nat :=
  let s := s.expose ks
  let moved := s.movedLines ks kd
  let checked := (s.checkedKeys (c.acc die .read) src ks).filter (fun k => !moved.any (fun p => p.1 == checkLine k))
  let arriving := s.badChecks (checked.filter (fun k => (ks.zip kd).any (fun p => p.1 == k && isChamber p.2)))
  let s := (s.badChecks (checked.filter (fun k => (ks.zip kd).any (fun p => p.1 == k && !isChamber p.2)))).foldl (State.meetMismatch 7) s
  let carried := (moved.filter (fun p => s.checks.any (fun x => x.1 == p.1))).map (fun p => (p.2, s.checkOf p.1))
  let bad := s.badPairs ks kd
  let lines := s.badLines ks dst
  let (v, s) := (s.logUnits ks).eLook c pathCP ks
  let s := (s.eStore c die pathCP dst kd (v.pathBytes pathCP ks)).poisonKeys bad
  let s := carried.foldl (fun s x => s.setCheck x.1 x.2) s
  (arriving.foldl (fun s line => State.meetArrival (bits (kd.headD 0) 23 10) ((ks.zip kd).filterMap (fun p => if checkLine p.1 = line then some p.2 else none)) s line) s,
    lines)

/-- The chunks of a copy, one for each page of the destination; where the source's second page of a chunk faults, what lies before it is copied (R342, R365).
(DEDUCED, log 65; DESIGN CHOICE, log 79.) -/
def copyLoop (c : Command) : Nat → W64 → W64 → Nat → EM Unit
  | 0, _, _, _ => pure ()
  | f + 1, src, dst, left =>
    if left = 0 then pure ()
    else do
      let k := roomAt dst left
      let a := roomAt src k
      let ka ← eKeys c .read src a
      let kd ← eKeys c .write dst k
      let put := fun (ks : List Nat) => modify (fun r =>
        let (s, lines) := r.s.copyChunk c r.die src dst ks (kd.take ks.length)
        { r with s := s, count := r.count + ks.length, lines := (lines ++ r.lines).eraseDups })
      let more := src + BitVec.ofNat 64 a
      match ← eTry (if a < k then eKeys c .read more (k - a) else pure []) with
      | .error e => do
        put ka
        eFail e
      | .ok kb => do
        put (ka ++ kb)
        copyLoop c f (src + BitVec.ofNat 64 k) (dst + BitVec.ofNat 64 k) (left - k)

def copyBody (c : Command) : EM (Option Nat × Option Nat) := do
  let len := c.fld 0x20 8
  c.checks [(0x20, decide (len ≤ 2 ^ 40)), (0x28, c.fld 0x28 24 == 0)]
  copyLoop c (len + 1) (c.va 0x10) (c.va 0x18) len
  return (some len, some (← get).lines.length)

/-- COPY (R342). (DESIGN CHOICE, log 11.) -/
def execCopy (c : Command) (s : State) : Host.Outcome State Fault Refusal := .next (c.run pathCP c.die (copyBody c) s).endWrites

/-! COPYT (R343). -/

end Sys2Proof.Machine
namespace Sys2Proof
open Machine
/-- The roundings of a COPYT record. -/
def Command.rnd (c : Command) : Rnd := { mode := bits (c.fld 0x2D 1) 1 3, ieee := Machine.bit (c.fld 0x2D 1) 4, ftz := false, draw := 0 }
end Sys2Proof
namespace Sys2Proof.Machine

/-- Tile element (r, col): its bytes written, and what it adds to SATC and ZFC. Elements follow each other row by row. (DESIGN CHOICE, log 79.) -/
def copytElem (c : Command) (t : Tdesc) (dt : Tag) (r col : Nat) : EM (Nat × Nat) := do
  let x := (BitVec.ofNat 32 (c.fld 0x20 4)).toInt + col
  let y := (BitVec.ofNat 32 (c.fld 0x24 4)).toInt + r
  let es := dt.bytes
  let tr := bit (c.fld 0x2D 1) 0
  let (a, b) := if tr then (col, r) else (r, col)
  let dst := c.va 0x18 + BitVec.ofInt 64 (a * c.sfld 0x30 + b * (es : Int))
  if 0 ≤ x ∧ x < t.dims.getD 0 1 ∧ 0 ≤ y ∧ y < t.dims.getD 1 1 then do
    let bs ← eRead c pathCP (t.base + BitVec.ofInt 64 (x * t.strides.getD 0 0 + y * t.strides.getD 1 0)) t.tag.bytes
    let (v, _) := (t.tag.decode false (leNat bs)).mul (ff32.decode false (c.fld 0x38 4))
    let z := dt.round c.rnd v
    eWrite c pathCP dst (leBytes es z.code)
    return (z.sat.toNat, 0)
  else do
    eWrite c pathCP dst (leBytes es 0)
    return (0, 1)

def copytLoop (c : Command) (t : Tdesc) (dt : Tag) (cols : Nat) : Nat → Nat → Nat → Nat → EM (Nat × Nat)
  | 0, _, sat, zf => pure (sat, zf)
  | n + 1, i, sat, zf => do
    let (a, b) ← copytElem c t dt (i / cols) (i % cols)
    eCount 1
    copytLoop c t dt cols n (i + 1) (sat + a) (zf + b)

/-- The destination tags of COPYT. -/
def copytTag (t : Tag) : Bool := t.isInt || t.isFloat || t == .p16

/-- DEDUCED, log 65. -/
def copytBody (c : Command) : EM (Option Nat × Option Nat) := do
  let cols := c.fld 0x28 2
  let rows := c.fld 0x2A 2
  let opt := c.fld 0x2D 1
  c.checks [(0x10, c.fld 0x10 8 % 64 == 0), (0x28, decide (1 ≤ cols) && decide (cols ≤ 4096)), (0x2A, decide (1 ≤ rows) && decide (rows ≤ 4096)),
    (0x2C, match tagOf (c.fld 0x2C 1) with | some t => copytTag t | none => false), (0x2D, decide (bits opt 1 3 ≤ 4) && bits opt 5 3 == 0),
    (0x2E, c.fld 0x2E 2 == 0), (0x3C, c.fld 0x3C 4 == 0)]
  let bs ← eRead c pathCP (c.va 0x10) 64
  match parseTdesc bs, tagOf (c.fld 0x2C 1) with
  | some t, some dt =>
    if t.rank ≤ 2 ∧ srcOk true true t.tag then do
      let (sat, zf) ← copytLoop c t dt cols (rows * cols) 0 0 0
      return (some (rows * cols), some (sat + zf * 2 ^ 32))
    else eFail (recordFail 0x10)
  | some _, none => eFail (recordFail 0x2C)
  | none, _ => eFail (recordFail 0x10)

/-- COPYT (R343). -/
def execCopyt (c : Command) (s : State) : Host.Outcome State Fault Refusal := .next (c.run pathCP c.die (copytBody c) s).endWrites

/-! FPRINT (R344). -/

/-- The fingerprint of words from index i on. -/
def fprintWord (acc : Nat × W32) (i w : Nat) : Nat × W32 :=
  ((acc.1 + w) % 2 ^ 32, acc.2 ^^^ (BitVec.ofNat 32 w).rotateLeft (i % 32))

def fprintLoop (c : Command) : Nat → Nat → Nat × W32 → EM (Nat × W32)
  | 0, _, acc => pure acc
  | n + 1, i, acc => do
    let bs ← eRead c pathCP (c.va 0x10 + BitVec.ofNat 64 (4 * i)) 4
    eCount 1
    fprintLoop c n (i + 1) (fprintWord acc i (leNat bs))

def fprintBody (c : Command) : EM (Option Nat × Option Nat) := do
  let len := c.fld 0x18 8
  c.checks [(0x10, c.fld 0x10 8 % 4 == 0), (0x18, len % 4 == 0 && decide (len ≤ 2 ^ 34)), (0x20, c.fld 0x20 32 == 0)]
  let (a, x) ← fprintLoop c (len / 4) 0 (0, 0)
  return (some (len / 4), some (a + x.toNat * 2 ^ 32))

/-- FPRINT (R344). -/
def execFprint (c : Command) (s : State) : Host.Outcome State Fault Refusal := .next (c.run pathCP c.die (fprintBody c) s).endWrites

/-! DECODE (R345-R350). -/

/-- A decode at work: the format, the output and its capacity, the watchdog's byte limit when there is one, and the chunk (if any) and byte at which
the watchdog's cycles run out. -/
structure DecJob where
  fmt : Nat
  path : Nat
  dst : W64
  dcap : Nat
  wd : Option Nat
  cut : Option (Nat × Nat)
deriving DecidableEq, Repr

/-- The most bytes that chunk `i` may emit. -/
def DecJob.limit (j : DecJob) (i xlen : Nat) : Nat :=
  match j.wd with
  | none => xlen + 1
  | some w => match j.cut with
    | some (k, n) => if k = i then Nat.min w n else w
    | none => w

/-- The chunks of a stream (R348, R349): `rd` reads bytes of it, `at'` gives AUX of a failure in the chunk at an offset. The number of chunks completed. -/
def decodeChunks (c : Command) (j : DecJob) (rd : Nat → Nat → EM (List Byte)) (at' : Nat → Nat) (slen : Nat) : Nat → Nat → Nat → EM Nat
  | 0, _, i => pure i
  | f + 1, off, i =>
    if slen ≤ off then pure i
    else do
      let hd ← rd off 16
      match parseChunk j.fmt hd with
      | none => eFail (streamFail stFRAME (at' off))
      | some k => do
        let r ← get
        if j.dcap < r.count + k.xlen then eFail (streamFail stFIT (at' off))
        else if slen < off + k.length then eFail (streamFail stFRAME (at' off))
        else do
          let pl ← rd (off + 16) k.clen
          let (bs, e) := decodeChunk j.fmt k pl (j.limit i k.xlen)
          match j.wd, e with
          | none, some n => eFail (streamFail n (at' off))
          | _, _ => do
            eWriteUnits c j.path 1 (j.dst + BitVec.ofNat 64 r.count) bs
            match e with
            | some n => eFail (streamFail n (at' off))
            | none => decodeChunks c j rd at' slen f (off + k.length) (i + 1)

/-- Runs part of a command; a failure in it carries AUX `aux`. -/
def withAux {α : Type} (aux : Nat) (m : EM α) : EM α := fun r =>
  match m r with
  | .ok a r => .ok a r
  | .error f r => .error { f with aux := aux } r

/-- The watchdog's byte limit of a record field (R348). -/
def wdBytes (v : Nat) : Nat := if v = 0 then 65536 else v

/-- The VA of the failing chunk's header stands in AUX of every failure of DECODE (R348). (DEDUCED, log 66.) -/
def decodeBody (c : Command) (cut : Option (Nat × Nat)) : EM (Option Nat × Option Nat) := do
  let slen := c.fld 0x18 8
  let fmt := c.fld 0x2C 1
  c.checks [(0x10, c.fld 0x10 8 % 16 == 0), (0x18, slen % 16 == 0), (0x2C, decide (fmt ≤ 1)), (0x2D, c.fld 0x2D 3 == 0),
    (0x34, !c.wdog || decide (c.fld 0x34 4 ≤ 65536)), (0x38, c.fld 0x38 8 == 0)]
  let j : DecJob := { fmt := fmt, path := pathCP, dst := c.va 0x20, dcap := c.fld 0x28 4, wd := if c.wdog then some (wdBytes (c.fld 0x34 4)) else none, cut := cut }
  let src := c.va 0x10
  let n ← chunksAt j src slen (slen / 16 + 1) 0 0
  return (some (← get).count, some n)
where
  /-- The chunks one by one, so that each failure names its header. -/
  chunksAt (j : DecJob) (src : W64) (slen : Nat) : Nat → Nat → Nat → EM Nat
    | 0, _, i => pure i
    | f + 1, off, i =>
      if slen ≤ off then pure i
      else do
        let va := src + BitVec.ofNat 64 off
        let len ← withAux va.toNat (do
          let hd ← eRead c pathCP va 16
          let k := (parseChunk j.fmt hd).map Chunk.length
          let _ ← decodeChunks c j (fun o n => eRead c pathCP (src + BitVec.ofNat 64 o) n) (fun _ => va.toNat) slen 1 off i
          return k.getD 16)
        chunksAt j src slen f (off + len) (i + 1)

/-- DECODE (R348). -/
def execDecode (c : Command) (s : State) : Host.Outcome State Fault Refusal := .next (c.run pathCP c.die (decodeBody c none) s).endWrites

/-- DECODE_WATCHDOG_CUT (R349): the cycles of a chunk run out after `chunks` chunks and `emitted` bytes of the next. (DEDUCED, log 66.) -/
def execDecodeWatchdogCut (c : Command) (chunks emitted : Nat) (s : State) : Host.Outcome State Fault Refusal :=
  .next (c.run pathCP c.die (decodeBody c (some (chunks, emitted))) s).endWrites

/-! TOPK (R351). -/

/-- e[i] (R351). An overflow has the result the spec does not state. -/
def topkSum (a b : Nat) : Nat :=
  (ff32.round { mode := 0, ieee := Config.topkInf, ftz := false, draw := 0 } ((ff32.decode false a).add false (ff32.decode false b)).1).code

/-- Whether element i of a block ranks among its k largest magnitudes: fewer than k stand before it. -/
def topkChosen (es : List Nat) (k i : Nat) : Bool :=
  let m := fun (j : Nat) => es.getD j 0 % 2 ^ 31
  decide (((List.range es.length).filter (fun j => decide (m i < m j) || (m i == m j && decide (j < i)))).length < k)

/-- Little-endian words of bytes. -/
def wordsOf (bs : List Byte) : List Nat := (List.range (bs.length / 4)).map (fun j => fieldAt bs (4 * j) 4)

/-- The pairs of a block written at OUT and the sump's new values. -/
def topkBlock (c : Command) (first n k : Nat) : EM Unit := do
  let a ← eRead c pathCP (c.va 0x10 + BitVec.ofNat 64 (4 * first)) (4 * n)
  let b ← eRead c pathCP (c.va 0x28 + BitVec.ofNat 64 (4 * first)) (4 * n)
  let es := List.zipWith topkSum (wordsOf a) (wordsOf b)
  topkWrite es 0 n
where
  topkWrite (es : List Nat) (i : Nat) : Nat → EM Unit
    | 0 => pure ()
    | m + 1 => do
      let sump := c.va 0x28 + BitVec.ofNat 64 (4 * (first + i))
      if topkChosen es k i then do
        let r ← get
        eWriteUnits c pathCP 8 (c.va 0x20 + BitVec.ofNat 64 (8 * r.count)) (leBytes 4 (first + i) ++ leBytes 4 (es.getD i 0))
        eWrite c pathCP sump (leBytes 4 0)
      else eWrite c pathCP sump (leBytes 4 (es.getD i 0))
      topkWrite es (i + 1) m

def topkLoop (c : Command) (n blk k : Nat) : Nat → Nat → EM Unit
  | 0, _ => pure ()
  | f + 1, first =>
    if n ≤ first then pure ()
    else do
      topkBlock c first (Nat.min blk (n - first)) k
      topkLoop c n blk k f (first + blk)

def topkBody (c : Command) : EM (Option Nat × Option Nat) := do
  let n := c.fld 0x18 4
  let blk := c.fld 0x1C 2
  let k := c.fld 0x1E 2
  c.checks [(0x10, c.fld 0x10 8 % 4 == 0), (0x18, decide (1 ≤ n) && decide (n ≤ 2 ^ 31)), (0x1C, decide (1 ≤ blk) && decide (blk ≤ 4096)),
    (0x1E, decide (1 ≤ k) && decide (k ≤ blk)), (0x20, c.fld 0x20 8 % 8 == 0), (0x28, c.fld 0x28 8 % 4 == 0), (0x30, c.fld 0x30 16 == 0)]
  topkLoop c n blk k n 0
  return (some (← get).count, none)

/-- TOPK (R351). -/
def execTopk (c : Command) (s : State) : Host.Outcome State Fault Refusal := .next (c.run pathCP c.die (topkBody c) s).endWrites

/-! RING (R352). -/

end Sys2Proof.Machine
namespace Sys2Proof
open Machine
/-- The dies of a ring pass: ORDER up to the first 0xFF. -/
def Command.order (c : Command) : List Nat := ((List.range 8).map (fun j => c.fld (0x10 + j) 1)).takeWhile (fun d => d != 0xFF)
end Sys2Proof
namespace Sys2Proof.Machine

/-- A contribution added to the packet element by element. -/
def ringAdd (p q : List Nat) : List Nat := List.zipWith (fp32Add false) p q

def ringLoop (c : Command) (n : Nat) : Nat → Nat → List Nat → EM (List Nat)
  | 0, _, p => pure p
  | m + 1, j, p => do
    modify (fun r => { r with die := c.order.getD j c.die })
    let bs ← eRead c pathNT (c.va 0x18 + BitVec.ofInt 64 (j * c.sfld 0x20)) (4 * n)
    ringLoop c n m (j + 1) (if j = 0 then wordsOf bs else ringAdd p (wordsOf bs))

def ringBody (c : Command) : EM (Option Nat × Option Nat) := do
  let ds := c.order
  let n := c.fld 0x30 4
  let s := (← get).s
  c.checks [(0x10, decide (2 ≤ ds.length) && ds.all (fun d => decide (d < 64) && s.ownsDie c.part d) && ds.eraseDups.length == ds.length),
    (0x18, c.fld 0x18 8 % 4 == 0), (0x28, c.fld 0x28 8 % 4 == 0), (0x30, decide (1 ≤ n) && decide (n ≤ 65536)), (0x34, c.fld 0x34 12 == 0)]
  let p ← ringLoop c n ds.length 0 []
  eWriteUnits c pathNT 4 (c.va 0x28) (p.flatMap (leBytes 4))
  return (some n, some 0)

/-- The die that writes the completion word of a RING: the last of the pass. Where ORDER names none of the partition's there, the record is refused where it was taken.
(DESIGN CHOICE, log 79.) -/
def State.ringDie (s : State) (c : Command) : Nat :=
  match c.order.getLast? with
  | some d => if d < 64 ∧ s.ownsDie c.part d then d else c.die
  | none => c.die

/-- RING (R352): the last die writes the completion word. -/
def execRing (c : Command) (s : State) : Host.Outcome State Fault Refusal := .next (c.run pathNT (s.ringDie c) (ringBody c) s).endWrites

/-! Storage (R353, R354). -/

/-- Whether management has granted an NSID on a port to a partition (R415). -/
def State.granted (s : State) (part port nsid : Nat) : Bool :=
  decide (1 ≤ nsid) && decide (nsid ≤ 32) && bit (s.pblock part).ns.toNat (32 * port + nsid - 1)

/-- The namespace of a record, if it may be used (R353). (DESIGN CHOICE, log 6.) -/
def State.usable (s : State) (c : Command) : Option Namespace :=
  if s.granted c.part (c.fld 0x10 1) (c.fld 0x14 4) then
    s.namespaces.find? (fun n => n.port == c.fld 0x10 1 && n.nsid == c.fld 0x14 4 && (n.block == 512 || n.block == 4096) && !n.metadata)
  else none

/-- The checks of SRD and SWR; `fmts` is the largest DFMT. -/
def storageChecks (c : Command) (fmts : Nat) : EM Namespace := do
  let s := (← get).s
  let dfmt := c.fld 0x30 1
  c.checks [(0x10, decide (c.fld 0x10 1 ≤ 1)), (0x11, c.fld 0x11 3 == 0), (0x14, (s.usable c).isSome), (0x20, decide (1 ≤ c.fld 0x20 4) && decide (c.fld 0x20 4 ≤ 65536)),
    (0x24, c.fld 0x24 4 == 0), (0x28, c.fld 0x28 8 % 4 == 0), (0x30, decide (dfmt ≤ fmts)), (0x31, c.fld 0x31 3 == 0),
    (0x3C, dfmt == 0 || decide (c.fld 0x3C 4 ≤ 65536))]
  match s.usable c with
  | some n => return n
  | none => eFail (recordFail 0x14)

/-- A storage command at its start: RECORD, or a fault of SWR's reads, ends it; else its Read or Write is with the drive, in blocks of the namespace it was issued to. -/
def startStorage (c : Command) (body : EM Unit) (s : State) : State :=
  match body { s := s.dropCommand c, die := c.site, count := 0, lines := [] } with
  | .ok _ r => { r.s with drives := r.s.drives ++ [{ c with block := ((s.usable c).map Namespace.block).getD 512 }] }
  | .error f r =>
    let (n, s) := r.s.fresh
    c.complete pathSG (portDie (c.fld 0x10 1)) f.status f.cause f.sub r.count (if f.status = 4 then Config.freeResult (2 * n + 1) else f.aux) s

/-- SRD (R354): the Read is issued; its completion ends the command. (DESIGN CHOICE, log 67.) -/
def execSrd (c : Command) (s : State) : Host.Outcome State Fault Refusal :=
  .next (startStorage c (do let _ ← storageChecks c 2) s).endWrites

/-- SWR (R354): the blocks are read from memory and the Write is issued. (DESIGN CHOICE, log 67.) -/
def execSwr (c : Command) (s : State) : Host.Outcome State Fault Refusal :=
  .next (startStorage c (do
    let n ← storageChecks c 0
    let _ ← eRead c pathSG (c.va 0x28) (c.fld 0x20 4 * n.block)) s).endWrites

/-- Exactly n bytes of what a drive returned. -/
def fitBytes (n : Nat) (bs : List Byte) : List Byte := bs.take n ++ List.replicate (n - bs.length) 0

/-- The data of a Read placed, or decoded under the watchdog, whose cycles may run out after some chunks and bytes of the next (R349, R353, R354).
(DEDUCED, log 66.) -/
def srdBody (c : Command) (block : Nat) (data : List Byte) (cut : Option (Nat × Nat)) : EM (Option Nat × Option Nat) := do
  let nlb := c.fld 0x20 4
  let bs := fitBytes (nlb * block) data
  let dfmt := c.fld 0x30 1
  if dfmt = 0 then do
    eWriteUnits c pathSG block (c.va 0x28) bs
    return (some nlb, none)
  else do
    let j : DecJob := { fmt := dfmt - 1, path := pathSG, dst := c.va 0x28, dcap := c.fld 0x38 4, wd := some (wdBytes (c.fld 0x3C 4)), cut := cut }
    let r ← get
    let _ ← decodeChunks c j (fun o n => pure ((bs.drop o).take n)) (fun o => Config.freeResult (r.s.freeCtr + o)) bs.length (bs.length / 16 + 1) 0 0
    return (some (← get).count, none)

/-- DRIVE_COMPLETION (R354): the oldest command that waits for a drive ends. (DESIGN CHOICE, log 67.) -/
def State.driveDone (s : State) (sct sc : Nat) (data : List Byte) (cut : Option (Nat × Nat)) : State :=
  match s.drives with
  | [] => s
  | c :: rest =>
    let s := { s with drives := rest }
    let die := portDie (c.fld 0x10 1)
    if sct ≠ 0 ∨ sc ≠ 0 then c.complete pathSG die 2 causeEngine.toNat (sc % 256) 0 (sct % 8 * 256) s
    else if c.type = 7 then c.finish pathSG die (srdBody c c.block data cut) s
    else c.finish pathSG die (pure (some (c.fld 0x20 4), none)) s

/-- DRIVE_COMPLETION (R354). -/
def execDriveCompletion (sct sc : Nat) (data : DriveData) (s : State) : Host.Outcome State Fault Refusal :=
  .next (s.driveDone sct sc data.bytes data.cut).endWrites

end Sys2Proof.Machine
end

