-- ==== Sys2Proof/Machine/Matrix.lean ====
section
/-! DEFINITION. The matrix unit, MAJ 0x2A and 0x2B (R314-R332). -/
namespace Sys2Proof.Machine

/-! The unit and its array. -/

/-- A core's matrix unit; one that no hart has used is free and zero. -/
def State.mxUnit (s : State) (core : Nat) : MxUnit :=
  match s.mxs.find? (fun u => u.core == core) with
  | some u => u
  | none => { core := core, holder := none, queue := [], cells := [] }

/-- Replaces a core's matrix unit. -/
def State.setMx (s : State) (u : MxUnit) : State := { s with mxs := u :: s.mxs.filter (fun x => x.core != u.core) }

/-- The focus core's unit. -/
def State.ownMx (s : State) : MxUnit := s.mxUnit s.hart.core

/-- An array cell (row, column) of 32 bits. -/
def MxUnit.cell (u : MxUnit) (r c : Nat) : W32 :=
  match u.cells.find? (fun x => x.1 == 64 * r + c) with
  | some x => x.2
  | none => 0

/-- The array with one cell written; only cells that are not zero are listed. -/
def MxUnit.setCell (u : MxUnit) (r c : Nat) (v : W32) : MxUnit :=
  let rest := u.cells.filter (fun x => x.1 != 64 * r + c)
  { u with cells := if v = 0 then rest else (64 * r + c, v) :: rest }

/-- Fields of MXF (R316). -/
def Csr.mxOn (c : Csr) : Bool := c.mxf.getLsbD 7
def Csr.mxLay (c : Csr) : Bool := c.mxf.getLsbD 5
def Csr.mxFmt (c : Csr) : Tag := (tagOf (bits c.mxf.toNat 0 5)).getD .u8
def Csr.mxLen (c : Csr) : Nat := c.mxl.toNat

/-- The accumulator format (R317). -/
def accTag (fmt : Tag) : Tag := if fmt = .f64 then .f64 else if fmt.isInt then .i32 else .f32

/-- The array cells of a tile cell: the row, the column and whether it is 64 bits wide (R317). -/
def Csr.tileCell (c : Csr) (t r col : Nat) : Nat × Nat :=
  if c.mxFmt = .f64 then (r, 2 * col) else if c.mxLay then (32 * (t / 2) + r, 32 * (t % 2) + col) else (r, col)

/-- The code of a tile cell. -/
def MxUnit.tile (u : MxUnit) (c : Csr) (t r col : Nat) : Nat :=
  let (x, y) := c.tileCell t r col
  if c.mxFmt = .f64 then (u.cell x y).toNat + 2 ^ 32 * (u.cell x (y + 1)).toNat else (u.cell x y).toNat

/-- A tile cell written with a code. -/
def MxUnit.setTile (u : MxUnit) (c : Csr) (t r col v : Nat) : MxUnit :=
  let (x, y) := c.tileCell t r col
  if c.mxFmt = .f64 then (u.setCell x y (BitVec.ofNat 32 v)).setCell x (y + 1) (BitVec.ofNat 32 (v / 2 ^ 32)) else u.setCell x y (BitVec.ofNat 32 v)

/-- A tile cell of the focus hart's unit read and written. -/
def readTile (t r col : Nat) : M Nat := do
  let s ← getS
  return s.ownMx.tile s.hart.csr t r col
def writeTile (t r col v : Nat) : M Unit := modify (fun s => s.setMx (s.ownMx.setTile s.hart.csr t r col v))

/-- The ILLEGAL subcode of a matrix instruction (R318, R14): a vector field, then a hart without the unit or a tile field it has not. -/
def Hart.mxIll (h : Hart) (vecOk : Bool) (tile : Nat) : Option Nat :=
  fieldIll vecOk (h.csr.mxOn && decide (tile ≤ 3) && (h.csr.mxLay || tile == 0))

/-! mxon and mxoff (R314, R315, R318). -/

/-- What issue needs to know of an MQ instruction of MAJ 0x2B. -/
def mxInfo (fn : Nat) (mk : Bool) (d a : Fld6) (g : GReg) (ill : Option Nat) (reads writes : List Nat) (gs : List GReg) (gw : Option GReg) : VInfo :=
  { cls := none, cv := false, low := lowVX false 0x2B fn false mk d a g, len := 4, ill := ill, dest := none, reads := reads ++ (if mk then [maskCode 0] else [])
    writes := writes, gReads := gs, gWrite := gw, bx := false, queue := qMq }

/-- The operand formats of mxon. -/
def mxFmtOk (t : Tag) : Bool :=
  t == .u8 || t == .i8 || t == .u16 || t == .i16 || t == .f16 || t == .bf16 || t == .f32 || t == .f64 || t == .e4m3 || t == .e5m2 || t.isBx

/-- A configuration mxon accepts (R315). -/
def mxConfigOk (v : Nat) : Bool :=
  let len := bits v 8 7
  let lay := bit v 5
  bits v 15 49 == 0 && bits v 6 2 == 0 && decide (1 ≤ len) && decide (len ≤ 64) && !(lay && decide (32 < len))
    && (match tagOf (bits v 0 5) with
        | some t => mxFmtOk t && !(t == .f64 && (lay || decide (32 < len)))
        | none => false)

/-- The configuration set by mxon. -/
def Csr.mxEnter (c : Csr) (v : Nat) : Csr := { c with mxf := BitVec.ofNat 64 (0x80 + bits v 0 6), mxl := BitVec.ofNat 64 (bits v 8 7) }

/-- mxon (R314, R315): a hart that does not hold the unit acquires it when it is free and no other hart waits before it, with every bit zero. -/
def mxonBody (g : GReg) : M Ctl := do
  let s ← getS
  let h := s.hart
  let v := (h.gr g).toNat
  check (mxConfigOk v) (operandTrap qMq)
  let u := s.ownMx
  if u.holder = some h.id then do
    modCsr (fun c => c.mxEnter v)
    return .seq
  else
    let q := if u.queue.contains h.id then u.queue else u.queue ++ [h.id]
    if u.holder = none ∧ q.head? = some h.id then do
      modify (fun s => s.setMx { u with holder := some h.id, queue := q.tail, cells := [] })
      modCsr (fun c => c.mxEnter v)
      return .seq
    else do
      modify (fun s => s.setMx { u with queue := q })
      return .wait (.mxon g)

/-- mxon: what issue needs to know. -/
def mxonInfo (g : GReg) (_h : Hart) : VInfo := mxInfo 0 false 0 0 g none [] [] [g] none
/-- mxon gG (R315). -/
def execMxon (g : GReg) (s : State) : Host.Outcome State Fault Refusal := runVector (mxonInfo g s.hart) false (mxonBody g) s

/-- MATRIX_ACQUIRE (R314): a hart waiting in mxon takes the unit once it is free. -/
def execMatrixAcquire (s : State) : Host.Outcome State Fault Refusal :=
  match s.hart.wait with
  | .mxon g => runVector (mxonInfo g s.hart) false (mxonBody g) s
  | .none => .next s
  | .wfm _ _ _ => .next s
  | .gbar => .next s
  | .advance _ _ _ _ _ => .next s
  | .line => .next s
  | .order => .next s

/-- The unit released by the focus hart (R318). -/
def State.mxRelease (s : State) : State :=
  let s := if s.ownMx.holder = some s.hart.id then s.setMx { s.ownMx with holder := none } else s
  s.setCsr { s.hart.csr with mxf := 0, mxl := 0 }

/-- mxoff: what issue needs to know. -/
def mxoffInfo (_h : Hart) : VInfo := mxInfo 1 false 0 0 0 none [] [] [] none
/-- mxoff (R318). -/
def execMxoff (s : State) : Host.Outcome State Fault Refusal :=
  runVector (mxoffInfo s.hart) false (do
    modify State.mxRelease
    return .seq) s

/-! Moving tiles (R329-R332). -/

/-- mzero: what issue needs to know. -/
def mzeroInfo (d : Fld6) (h : Hart) : VInfo := mxInfo 2 false d 0 0 (h.mxIll true d.toNat) [] [] [] none
/-- mzero aD (R329): every cell of the tile, also above MXL. -/
def execMzero (d : Fld6) (s : State) : Host.Outcome State Fault Refusal :=
  runVector (mzeroInfo d s.hart) false (do
    modify (fun s =>
      let u := s.ownMx
      let t := d.toNat
      s.setMx { u with
        cells := if s.hart.csr.mxLay then u.cells.filter (fun x => !(x.1 / 64 / 32 == t / 2 && x.1 % 64 / 32 == t % 2)) else [] })
    return .seq) s

/-- The row that mrd and mwr take from g[G] (R330). -/
def needRow (g : GReg) : M Nat := do
  let h ← getH
  let r := (h.gr g).toNat
  check (decide (r < 64) && decide (r < h.csr.mxLen) && decide (h.csr.vlN ≤ h.csr.mxLen)) (operandTrap qMq)
  return r

/-- mrd vD, aA, gG: what issue needs to know. -/
def mrdVInfo (mk : Bool) (g : GReg) (a d : Fld6) (h : Hart) : VInfo :=
  let o := h.vop d
  { (mxInfo 3 mk d a g (h.mxIll (h.vfld d) a.toNat) [] (o.regs ++ scaleRegs h o) [g] none).canSat h with bx := (h.opTag o).isBx }
/-- mrd vD, aA, gG (R330). -/
def execMrdV (mk : Bool) (g : GReg) (a d : Fld6) (s : State) : Host.Outcome State Fault Refusal :=
  runVector (mrdVInfo mk g a d s.hart) false (do
    let h ← getH
    let D := h.vop d
    let dt := h.opTag D
    let r ← needRow g
    check (dt != .bxs && h.operandsOk D dt [] false) (operandTrap qMq)
    elementwise D dt (accTag h.csr.mxFmt) mk [] (fun c => do return EOut.ofCode (← readTile a.toNat r c)) qMq
    return .seq) s

/-- mrd gD, aA, gG: what issue needs to know. -/
def mrdGInfo (g : GReg) (a : Fld6) (d : GReg) (h : Hart) : VInfo := mxInfo 4 false (d.setWidth 6) a g (h.mxIll true a.toNat) [] [] [g] (some d)
/-- mrd gD, aA, gG (R330): the cell's code, sign-extended under INT32. -/
def execMrdG (g : GReg) (a : Fld6) (d : GReg) (s : State) : Host.Outcome State Fault Refusal :=
  runVector (mrdGInfo g a d s.hart) false (do
    let h ← getH
    let v := (h.gr g).toNat
    let r := bits v 0 6
    let c := bits v 8 6
    check (bits v 6 2 == 0 && bits v 14 50 == 0 && decide (r < h.csr.mxLen) && decide (c < h.csr.mxLen)) (operandTrap qMq)
    let x ← readTile a.toNat r c
    writeG d (if accTag h.csr.mxFmt = .i32 then signExtend64 4 x else BitVec.ofNat 64 x)
    return .seq) s

/-- mwr: what issue needs to know. -/
def mwrInfo (mk : Bool) (g : GReg) (a d : Fld6) (h : Hart) : VInfo :=
  let o := h.vop a
  (mxInfo 5 mk d a g (h.mxIll (h.vfld a) d.toNat) (o.regs ++ scaleRegs h o) [] [g] none).canSat h
/-- mwr aD, vA, gG (R331). -/
def execMwr (mk : Bool) (g : GReg) (a d : Fld6) (s : State) : Host.Outcome State Fault Refusal :=
  runVector (mwrInfo mk g a d s.hart) false (do
    let h ← getH
    let A := h.vop a
    let t := h.opTag A
    let acc := accTag h.csr.mxFmt
    let r ← needRow g
    check (t != .bxs && h.groupOk A t && h.bxOk A t) (operandTrap qMq)
    withSources mk (vecSrcs [(A, t)]) do
      let free := (← getH).csr.mode != 5
      elementLoop (free := free) (fun c => do
        if ← activeM mk c qMq then
          let x ← moveOut A t c qMq
          let k ← drawIf (x.rounds t.moveTag acc) qMq
          let y := x.convert (← getH).csr t.moveTag acc k
          writeTile d.toNat r c y.code
          orFlags y.flags
          if y.sat then saturate c else pure ()
        else pure ())
    return .seq) s

/-- The VA of element e of mld and mst (R332). -/
def tileEa (h : Hart) (g a : GReg) (cs e : Nat) : W64 :=
  h.gr g + BitVec.ofNat 64 (e / h.csr.mxLen) * h.gr a + BitVec.ofNat 64 (e % h.csr.mxLen * cs)

/-- Runs mld or mst over the used square of a tile, from ESTART to its end or the element at which a pre-emption stops it: its elements are unordered, and restart
follows R101 (R332). -/
def overTile (f : Nat → Nat → Nat → M Unit) : M Unit := do
  let h ← getH
  let n := h.csr.mxLen
  let g := fun (e : Nat) => f e (e / n) (e % n)
  let hi := match h.convoy.bind ConvoyCtx.limit with | some e => Nat.min (n * n) e | none => n * n
  unorderedOver g true h.csr.estart.toNat hi (fun s => .ok () (mayPerform g (fun e => [e]) (fun e => [e]) (n * n - hi) hi s))

/-- mld: what issue needs to know. -/
def mldInfo (g a : GReg) (d : Fld6) (h : Hart) : VInfo := mxInfo 6 false d (a.setWidth 6) g (h.mxIll true d.toNat) [] [] [g, a] none
/-- mld aD, [gG], gA (R332). -/
def execMld (g a : GReg) (d : Fld6) (s : State) : Host.Outcome State Fault Refusal :=
  runVector (mldInfo g a d s.hart) false (do
    let h ← getH
    let cs := (accTag h.csr.mxFmt).bytes
    overTile (fun e r c => do
      let ea := tileEa h g a cs e
      check (ea.toNat % cs == 0) (alignTrap ea qMq)
      let x ← elemLoad ea cs qMq
      writeTile d.toNat r c x)
    return .seq) s

/-- mst: what issue needs to know. -/
def mstInfo (g a : GReg) (d : Fld6) (h : Hart) : VInfo := mxInfo 7 false d (a.setWidth 6) g (h.mxIll true d.toNat) [] [] [g, a] none
/-- mst aD, [gG], gA (R332). -/
def execMst (g a : GReg) (d : Fld6) (s : State) : Host.Outcome State Fault Refusal :=
  runVector (mstInfo g a d s.hart) false (do
    let h ← getH
    let cs := (accTag h.csr.mxFmt).bytes
    overTile (fun e r c => do
      let ea := tileEa h g a cs e
      check (ea.toNat % cs == 0) (alignTrap ea qMq)
      let ks ← resolvePlain (h.acc .write false) ea cs qMq
      let x ← readTile d.toNat r c
      modify (fun s => s.elemPut ea ks (leBytes cs x)))
    return .seq) s

/-! Outer products (R319-R327). -/

/-- An operand of an outer product: a vector operand, or a peer Chamber address register (R319). -/
inductive XSrc where
  | vec (f : Fld6)
  | peer (g : GReg)
deriving DecidableEq, Repr

/-- The operand a field names under its peer bit. -/
def xsrc (peer : Bool) (f : Fld6) : XSrc := if peer then .peer (f.setWidth 5) else .vec f

/-- The formats of each outer product (R322). -/
def xpaFmt (t : Tag) : Bool := t.isFloat
def xpaIFmt (t : Tag) : Bool := t == .u8 || t == .i8 || t == .u16 || t == .i16
def xpaSFmt (t : Tag) : Bool := t.isBx || t == .e4m3 || t == .e5m2

/-- The scale register that a scaled operand must have (R322, R224). -/
def Hart.scaledOk (h : Hart) (o : VOp) : Bool :=
  match o with
  | .reg n c => decide (n + c < h.nv) && (h.vreg (n + c)).tag == .bxs
  | .byp _ => false

/-- The operand checks of an outer product's source (R322, R207). (DEDUCED, log 68.) -/
def Hart.xsrcOk (h : Hart) (fmt : Tag) (scaled : Bool) : XSrc → Bool
  | .vec f => h.opTag (h.vop f) == fmt && h.groupOk (h.vop f) fmt && (!scaled || h.scaledOk (h.vop f))
  | .peer _ => true

/-- The checks of a peer operand (R327). -/
def needPeer (q : Nat) (fmt : Tag) : XSrc → M Unit
  | .vec _ => pure ()
  | .peer g => do
    let h ← getH
    let v := (h.gr g).toNat
    let off := bits v 0 23
    let va := apertureVa (v % 2 ^ 40)
    check (bits v 33 31 == 0 && bits v 27 6 == h.die && decide (off + h.csr.vlN * fmt.bytes ≤ 0x600000)) ((trap causeAccess (faultTval 0x05 va.toNat) q).at 0)
    check (off % fmt.bytes == 0) ((alignTrap va q).at 0)

/-- The block whose scale word an element takes (R322). -/
def scaleBlock (c : Csr) (fmt : Tag) (i : Nat) : Nat := if fmt.isBx then i / 32 else i / c.bsz

/-- An active element of a source as a value (R322, R324). -/
def readX (q : Nat) (fmt : Tag) (scaled : Bool) (x : XSrc) (i : Nat) : M Val := do
  let s ← getS
  let h := s.hart
  match x with
  | .vec f => do
    let o := h.vop f
    let c ← readCode o fmt i q
    if scaled then
      let w ← readCode o.scale .bxs (scaleBlock h.csr fmt i) q
      if fmt.isBx then return bxVal fmt w c
      else if w % 256 = 255 ∨ w / 256 % 256 = 255 then return .nan
      else return (fmt.decode h.csr.ftz c).scale ((w % 256 : Nat) - 127)
    else return fmt.decode h.csr.ftz c
  | .peer g => do
    let v := (h.gr g).toNat
    let ks := (List.range fmt.bytes).map (fun j => chamberKey (chamberAddr (v / 0x800000 % 1024) (bits v 0 23 + i * fmt.bytes + j)))
    needOwnClean ks q
    return fmt.decode h.csr.ftz (leNat (← readOn pathMX ks))

/-- Whether an operand lies in a peer Chamber. -/
def XSrc.isPeer : XSrc → Bool
  | .vec _ => false
  | .peer _ => true

/-- The elements of both sources that active indices need (R323), none at an inactive index. The reads of peer operands are events in no order among them (R116, R327). -/
def readPairs (q : Nat) (fmt : Tag) (scaled mk : Bool) (x y : XSrc) (n : Nat) : M (List (Option (Val × Val))) := do
  if x.isPeer || y.isPeer then do
    let (l, t) ← gatherAny (fun e => do
      if ← activeM mk (e / 2) q then return some (← readX q fmt scaled (if e % 2 = 0 then x else y) (e / 2)) else return none) 0 (2 * n)
    let at' := fun e => (l.find? (fun v => v.1 == e)).bind Prod.snd
    match t with
    | some t => raise (t.at (t.elem.getD 0 / 2))
    | none => return (List.range n).map (fun i => (at' (2 * i)).bind (fun a => (at' (2 * i + 1)).map (fun b => (a, b))))
  else
    collect (fun i => atElem i (do
      if ← activeM mk i q then
        let a ← readX q fmt scaled x i
        let b ← readX q fmt scaled y i
        return some (a, b)
      else return none)) n 0

/-- The exact products a cell takes in a group of steps (R323). -/
def stepTerms (l : List (Option (Val × Val))) (mxl r c : Nat) (ss : List Nat) : List (Val × W64) :=
  ss.filterMap (fun s => match l.getD (s * mxl + r) none, l.getD (s * mxl + c) none with
    | some a, some b => some (a.1.mul b.2)
    | some _, none => none
    | none, _ => none)

/-- Acc (R324): a cell and the exact sum of the products, rounded once; integers wrap modulo 2^32. -/
def accCell (c : Csr) (acc : Tag) (sub : Bool) (code : Nat) (ts : List (Val × W64)) : Rounded :=
  let start := acc.decode c.ftz code
  let rdn := c.mode == 2
  let (v, f) := ts.foldl (fun (a : Val × W64) t => let (u, g) := a.1.add rdn (if sub then t.1.neg else t.1); (u, a.2 ||| g ||| t.2)) (start, 0)
  if acc = .i32 then
    match v with
    | .num n m e _ => { code := wrapCode 32 (unitsAt n m e 0), flags := 0, sat := false }
    | .nan => { code := code, flags := 0, sat := false }
    | .inf _ => { code := code, flags := 0, sat := false }
  else
    let r := acc.fmt.round (if c.mode = 5 then (c.rnd 0).rne else c.rnd 0) v
    { r with flags := r.flags ||| f }

/-- One group of fused steps over every cell. -/
def outerStep (acc : Tag) (sub : Bool) (t : Nat) (l : List (Option (Val × Val))) (ss : List Nat) : M Unit := do
  let n := (← getH).csr.mxLen
  overRange (fun rc => do
    let r := rc / n
    let c := rc % n
    let ts := stepTerms l n r c ss
    if ts.isEmpty then pure ()
    else do
      let x := accCell (← getH).csr acc sub (← readTile t r c) ts
      writeTile t r c x.code
      orFlags (x.flags ||| if x.sat then flSAT else 0)) (n * n) 0

/-- The registers an operand of an outer product reads, as sources. -/
def XSrc.srcs (h : Hart) (fmt : Tag) (scaled : Bool) : XSrc → List Src
  | .vec f =>
    let o := h.vop f
    .vec o fmt :: (if scaled then [.picked o.scale .bxs ((List.range h.csr.vlN).map (fun i => some (scaleBlock h.csr fmt i)))] else [])
  | .peer _ => []

/-- Steps fused in one rounding (R323). -/
def pairOf (fmt : Tag) : Nat := if fmt.bytes = 1 then 2 else 1

/-- An outer product (R323): it changes no cell until every operand has been read, nor in a convoy that stops below VL (R325). -/
def outerBody (fmtOk : Tag → Bool) (sub scaled mk : Bool) (q : Nat) (d : Fld6) (x y : XSrc) : M Ctl := do
  let h ← getH
  let fmt := h.csr.mxFmt
  let n := h.csr.mxLen
  check (h.csr.vlN % n == 0 && fmtOk fmt && h.xsrcOk fmt scaled x && h.xsrcOk fmt scaled y) (operandTrap q)
  if h.csr.vl = 0 then return .seq
  else do
    needPeer q fmt x
    needPeer q fmt y
    withSources mk (x.srcs h fmt scaled ++ y.srcs h fmt scaled) do
      let l ← readPairs q fmt scaled mk x y h.bounds.hi
      whenFull (do
        let k := h.csr.vlN / n
        let p := pairOf fmt
        overRange (fun j => outerStep (accTag fmt) sub d.toNat l ((List.range (Nat.min p (k - j * p))).map (fun i => j * p + i))) ((k + p - 1) / p) 0)
    return .seq

/-- Registers an operand of an outer product reads. -/
def XSrc.regs (h : Hart) (scaled : Bool) : XSrc → List Nat
  | .vec f => (h.vop f).regs ++ (if scaled then (h.vop f).scale.regs else [])
  | .peer _ => []

/-- Scalar registers an operand of an outer product reads. -/
def XSrc.gregs : XSrc → List GReg
  | .vec _ => []
  | .peer g => [g]

def XSrc.fieldOk (h : Hart) : XSrc → Bool
  | .vec f => h.vfld f
  | .peer _ => true

/-- The queue of an outer product: the vector sequencer's where a register operand takes a VQ entry (R321). -/
def outerQueue (x y : XSrc) : Nat :=
  match x, y with
  | .peer _, .peer _ => qMq
  | .vec _, _ => qVq
  | .peer _, .vec _ => qVq

/-- What issue needs to know of an outer product. It can set SAT and writes no element of OVFM's mask (R324), which is then no destination of it. (DEDUCED, log 27.) -/
def outerInfo (op : Nat) (scaled cv mk pb pa : Bool) (b a d : Fld6) (h : Hart) : VInfo :=
  let x := xsrc pa a
  let y := xsrc pb b
  { cls := if outerQueue x y = qVq then some .matrix else none, cv := cv, low := lowXP op cv mk pb pa d a b, len := 4
    ill := h.mxIll (x.fieldOk h && y.fieldOk h) d.toNat, dest := none
    reads := x.regs h scaled ++ y.regs h scaled ++ (if mk then [maskCode 0] else []), writes := [], gReads := x.gregs ++ y.gregs, gWrite := none, bx := false
    queue := outerQueue x y }

/-- xpa aD, x, y: what issue needs to know. -/
def xpaInfo (cv mk pb pa : Bool) (b a d : Fld6) (h : Hart) : VInfo := outerInfo 0 false cv mk pb pa b a d h
/-- xpa aD, x, y (R322, R323). (DEDUCED, log 68.) -/
def execXpa (cv mk pb pa : Bool) (b a d : Fld6) (s : State) : Host.Outcome State Fault Refusal :=
  runVector (xpaInfo cv mk pb pa b a d s.hart) false (outerBody xpaFmt false false mk (outerQueue (xsrc pa a) (xsrc pb b)) d (xsrc pa a) (xsrc pb b)) s

/-- xps aD, x, y: what issue needs to know. -/
def xpsInfo (cv mk pb pa : Bool) (b a d : Fld6) (h : Hart) : VInfo := outerInfo 1 false cv mk pb pa b a d h
/-- xps aD, x, y (R322, R323). -/
def execXps (cv mk pb pa : Bool) (b a d : Fld6) (s : State) : Host.Outcome State Fault Refusal :=
  runVector (xpsInfo cv mk pb pa b a d s.hart) false (outerBody xpaFmt true false mk (outerQueue (xsrc pa a) (xsrc pb b)) d (xsrc pa a) (xsrc pb b)) s

/-- xpa.i aD, x, y: what issue needs to know. -/
def xpaIInfo (cv mk pb pa : Bool) (b a d : Fld6) (h : Hart) : VInfo := outerInfo 2 false cv mk pb pa b a d h
/-- xpa.i aD, x, y (R322, R323). -/
def execXpaI (cv mk pb pa : Bool) (b a d : Fld6) (s : State) : Host.Outcome State Fault Refusal :=
  runVector (xpaIInfo cv mk pb pa b a d s.hart) false (outerBody xpaIFmt false false mk (outerQueue (xsrc pa a) (xsrc pb b)) d (xsrc pa a) (xsrc pb b)) s

/-- xpa.s aD, x, y: what issue needs to know. -/
def xpaSInfo (cv mk : Bool) (b a d : Fld6) (h : Hart) : VInfo := outerInfo 3 true cv mk false false b a d h
/-- xpa.s aD, x, y (R322, R323). -/
def execXpaS (cv mk : Bool) (b a d : Fld6) (s : State) : Host.Outcome State Fault Refusal :=
  runVector (xpaSInfo cv mk b a d s.hart) false (outerBody xpaSFmt false true mk (outerQueue (xsrc false a) (xsrc false b)) d (xsrc false a) (xsrc false b)) s

end Sys2Proof.Machine
end

