-- ==== Sys2Proof/Machine/Gangs.lean ====
section
/-! DEFINITION. Gang records and launching (R183-R187, R254), the start of a hart (R187), `gexit` (R188, R255) and `gbar` (R190, R256). -/
namespace Sys2Proof.Machine

/-! Gang records. -/

/-- Wait word n of a record (R183). -/
def parseWait (bs : List Byte) (n : Nat) : W64 × W32 × Nat :=
  let o := 0x40 + 16 * n
  (BitVec.ofNat 64 (fieldAt bs o 8), BitVec.ofNat 32 (fieldAt bs (o + 8) 4), fieldAt bs (o + 12) 1)

/-- The record in 128 bytes (R183). -/
def parseGang (bs : List Byte) : GangRec :=
  { entry := BitVec.ofNat 64 (fieldAt bs 0 8), arg := BitVec.ofNat 64 (fieldAt bs 8 8), done := BitVec.ofNat 64 (fieldAt bs 0x10 8)
    budget := BitVec.ofNat 64 (fieldAt bs 0x18 8), vcfg := BitVec.ofNat 64 (fieldAt bs 0x20 8), vtype := BitVec.ofNat 64 (fieldAt bs 0x28 8)
    chb := fieldAt bs 0x30 4, cmask := fieldAt bs 0x34 2, asid := fieldAt bs 0x36 2, x0 := fieldAt bs 0x38 1, y0 := fieldAt bs 0x39 1
    x1 := fieldAt bs 0x3A 1, y1 := fieldAt bs 0x3B 1, hpc := fieldAt bs 0x3C 1, prio := fieldAt bs 0x3D 1 % 8, supv := bit (fieldAt bs 0x3F 1) 0
    waits := (List.range (fieldAt bs 0x3E 1)).map (parseWait bs) }

/-- The dies of a record's rectangle, in ascending number. -/
def GangRec.dies (r : GangRec) : List Nat := (List.range 64).filter (fun d => decide (r.x0 ≤ d % 8) && decide (d % 8 ≤ r.x1) && decide (r.y0 ≤ d / 8) && decide (d / 8 ≤ r.y1))

/-- The cores of a gang by module-wide number, in rank order (R186). -/
def GangRec.cores (r : GangRec) : List Nat := r.dies.flatMap (fun d => ((List.range 16).filter (bit r.cmask)).map (fun c => 16 * d + c))

/-- Whether a record passes the checks of code FIELD (R184). -/
def fieldsOk (bs : List Byte) (r : GangRec) : Bool :=
  let nwait := fieldAt bs 0x3E 1
  let w := fun (n : Nat) => (bs.drop (0x40 + 16 * n)).take 16
  decide (fieldAt bs 0x3D 1 < 8) && decide (fieldAt bs 0x3F 1 < 2) && r.cmask != 0 && !r.entry.getLsbD 0 && decide (1 ≤ r.hpc) && decide (r.hpc ≤ 4)
    && decide (nwait ≤ 4) && r.done.toNat % 4 == 0
    && (List.range 4).all (fun n => if n < nwait then fieldAt (w n) 0 8 % 4 == 0 && decide (fieldAt (w n) 12 1 < 4) && fieldAt (w n) 13 3 == 0 else leNat (w n) == 0)
    && vcfgFieldsOk r.vcfg && decide (vcfgRbase r.vcfg + vcfgStorage r.vcfg ≤ r.chb) && vtypeOk r.vtype

/-- Whether the rectangle passes the checks of code RECT (R184, R395). -/
def State.rectOk (s : State) (part : Nat) (r : GangRec) : Bool :=
  decide (r.x0 ≤ r.x1) && decide (r.y0 ≤ r.y1) && decide (r.x1 ≤ 7) && decide (r.y1 ≤ 7)
    && r.dies.all (fun d => s.ownsDie part d && !s.deadDies.contains d) && r.cores.all (fun c => !s.deadCores.contains c)

/-- Whether a gang is queued or running. -/
def GStatus.live (t : GStatus) : Bool :=
  match t with
  | .queued => true
  | .ready => true
  | .returned => true
  | .placed => true
  | .halting => true
  | .requeued => true
  | .ended => false

/-- The launch code of a record (R184). -/
def State.launchCode (s : State) (part asid : Nat) (user : Bool) (bs : List Byte) : Nat :=
  let r := parseGang bs
  if !fieldsOk bs r then 1
  else if !s.rectOk part r then 2
  else if r.chb % 4096 ≠ 0 ∨ r.chb = 0 ∨ 0x600000 < r.hpc * r.chb then 3
  else if user && (r.supv || r.asid != asid) then 4
  else if 256 ≤ (s.gangs.filter (fun g => g.status.live && g.record.home == r.home)).length then 5
  else 0

/-- A gang queued at its home scheduler (R184, R371). -/
def State.queueGang (s : State) (part : Nat) (supervisor : Bool) (r : GangRec) : State :=
  { s with
    gangs := s.gangs ++ [{ id := s.nextGang, part := part, supervisor := supervisor, record := r, status := .queued, eff := r.prio, since := s.ticksOf r.home, placedAt := 0
                           barriers := 0, slots := [], cause := 0, budget := r.budget, owed := none }]
    nextGang := s.nextGang + 1 }

/-- The word of a system instruction (R248). -/
def lowSys (sys : Nat) (b a d : GReg) : W32 := BitVec.ofNat 32 (0x49 + d.toNat * 0x100 + a.toNat * 0x2000 + b.toNat * 0x40000 + sys * 0x800000)

/-- glaunch (R254). -/
def glaunchBody (a d : GReg) : M Ctl := do
  let h ← getH
  let ea := h.gr a
  check (ea.toNat % 128 == 0) (trap causeAlign ea)
  afterFenceX allPaths allPaths do
    let bs ← loadBytes ea 128 true qFront
    let code := (← getS).launchCode h.part h.asid (!h.sup) bs
    if code = 0 then modify (fun s => s.queueGang h.part false (parseGang bs)) else pure ()
    writeG d (BitVec.ofNat 64 code)
    return .seq

/-- glaunch gD, [gA] (R254). -/
def execGlaunch (a d : GReg) (s : State) : Host.Outcome State Fault Refusal := runInstr 4 (glaunchBody a d) s

/-! The start of a hart (R187). -/

/-- A hart as it starts in slot (id, base) of a gang with a rank. -/
def Gang.startHart (g : Gang) (size rank id base : Nat) : Hart :=
  let h0 := Hart.reset id
  let h : Hart := { h0 with
    part := g.part, asid := g.record.asid, gang := g.id, status := .running, sup := g.record.supv, pc := g.record.entry
    csr := { h0.csr with vtype := g.record.vtype, chbase := BitVec.ofNat 64 base, chlim := BitVec.ofNat 64 (base + g.record.chb) } }
  (((h.setG 3 g.record.arg).setG 4 (BitVec.ofNat 64 rank)).setG 5 (BitVec.ofNat 64 size)).place g.record.vcfg

/-! gexit and gbar. -/

/-- The completed count of a gang's barrier is raised once every live hart has arrived (R256). (DESIGN CHOICE, log 52.) -/
def State.openBarrier (s : State) (id : Nat) : State :=
  match s.gangOf id with
  | none => s
  | some g =>
    let hs := s.gangHarts id
    if !hs.isEmpty && hs.all (fun h => decide (g.barriers + 1 ≤ h.barrier)) then s.setGang { g with barriers := g.barriers + 1 } else s

/-- Writes back a bound window as winclr does (R188); a fault met ends the gang. (DEDUCED, log 53.) -/
def exitWindow (n : Nat) : M Unit := fun s =>
  match (do raiseRecorded n; clearWindow n : M Unit) s with
  | .ok _ s => .ok () (s.freeWin n)
  | .error t s => .error { t with fatal := true } s

/-- DEDUCED, log 53. -/
def exitWindows : List Nat → M Unit
  | [] => pure ()
  | n :: r => do
    exitWindow n
    exitWindows r

/-- The end of the focus hart (R188, R189, R190). -/
def State.exitHart (s : State) : State :=
  let h := s.hart
  let s := (s.dropMatrix h.id).setHart h.end_
  if (s.gangHarts h.gang).isEmpty then s.endGang h.gang 1 0 else s.openBarrier h.gang

/-- gexit (R188): the write-backs of its windows, then the end of the hart. (DEDUCED, log 53.) -/
def execGexit (s : State) : Host.Outcome State Fault Refusal :=
  match exitWindows s.hart.bound s with
  | .ok _ s => .next s.exitHart.endWrites
  | .error t s => .next (s.endWrites.takeTrap t)

/-- gbar after its fence (R256): a hart that has arrived in it, and has been pre-empted or trapped there since, does not arrive again. (DESIGN CHOICE, log 52.) -/
def arriveBarrier : M Ctl := do
  let h ← getH
  let c := match (← getS).gangOf h.gang with | some g => g.barriers | none => 0
  if h.arrived != some h.pc && h.barrier == c then modH (fun h => { h with barrier := h.barrier + 1, arrived := some h.pc }) else pure ()
  modify (fun s => s.openBarrier h.gang)
  let s ← getS
  let c := match s.gangOf h.gang with | some g => g.barriers | none => s.hart.barrier
  if s.hart.barrier ≤ c then
    modH (fun h => { h with arrived := none })
    return .seq
  else return .wait .gbar

/-- gbar (R190, R256): first it acts as a `fence.x` from all seven paths to LS. -/
def gbarBody : M Ctl := afterFenceX allPaths [pathLS] arriveBarrier

/-- gbar (R256). -/
def execGbar (s : State) : Host.Outcome State Fault Refusal := runInstr 4 gbarBody s

end Sys2Proof.Machine
end

