-- ==== Sys2Proof/Machine/Sched.lean ====
section
/-! DEFINITION. The die schedulers: wait words and readiness (R185), placement (R186, R372, R373), aging and budgets (R371, R374), NEXT (R375, R376), pre-emption
and resume (R380-R383), and the commands of SCMD (R377, R378). -/
namespace Sys2Proof.Machine

/-! Harts as the focus of an operation. -/

/-- Runs an operation of the focus hart on the hart a test picks. -/
def State.onHart (s : State) (pick : Hart → Bool) (f : State → State) : State :=
  if pick s.hart then f s
  else
    match s.parked.findIdx? pick with
    | none => s
    | some i =>
      match s.parked[i]? with
      | none => s
      | some h =>
        let s := f { s with hart := h, parked := s.parked.set i s.hart }
        match s.parked[i]? with
        | none => s
        | some g => { s with hart := g, parked := s.parked.set i s.hart }

/-- Every hart. -/
def State.allHarts (s : State) : List Hart := s.hart :: s.parked

/-- Changes every hart a test picks. -/
def State.mapHarts (s : State) (pick : Hart → Bool) (f : Hart → Hart) : State :=
  let g := fun (h : Hart) => if pick h then f h else h
  { s with hart := g s.hart, parked := s.parked.map g }

/-! Wait words (R185). -/

/-- How a scheduler reads a gang's memory: in its address space, for the supervisor. -/
def Gang.acc (g : Gang) (kind : AKind) : Acc := { kind := kind, dev := true, peer := true, part := g.part, asid := g.record.asid, user := false, die := g.record.home, core := none }

/-- Whether a word satisfies a wait condition (R184). -/
def waitHolds (w v : W32) (cond : Nat) : Bool :=
  match cond with
  | 0 => w == v
  | 1 => w != v
  | 2 => decide (v.toNat ≤ w.toNat)
  | _ => decide (v.toInt ≤ w.toInt)

/-- Reads the wait words of a gang: whether all hold, or the fault met. The bank of a word meets the bit errors and check mismatches it reads (R51, R59); the word is
compared as it then stands. (DEDUCED, log 14; DESIGN CHOICE, log 80.) -/
def State.readWaits (s : State) (g : Gang) : List (W64 × W32 × Nat) → Except (MFault × State) (Bool × State)
  | [] => .ok (true, s)
  | (va, v, c) :: r =>
    match s.resolveSpan (g.acc .read) va 4 with
    | .error f => .error (f, s.meetWalks (g.acc .read) va 4)
    | .ok (ks, s) =>
      let s := s.inspect 1 ks (s.checkedKeys (g.acc .read) va ks)
      match State.readWaits (s.afterRead ks) g r with
      | .error f => .error f
      | .ok (b, t) => .ok (waitHolds (BitVec.ofNat 32 (leNat (s.pathBytes pathLS ks))) v c && b, t)

/-- Moves a gang to the end of the list, changed: it is the latest to become ready or to be placed. -/
def State.setGangLast (s : State) (g : Gang) : State := { s with gangs := s.gangs.filter (fun x => x.id != g.id) ++ [g] }

/-- GANG_READY (R185): the wait words of a queued gang are read. A gang that was ready before keeps its place in the order (R376) and the cycles it has waited, which
`since` holds meanwhile (R371). -/
def execGangReady (gang : Nat) (s : State) : Host.Outcome State Fault Refusal :=
  let ask := fun (g : Gang) (ready : State → State) => match s.readWaits g g.record.waits with
    | .error (f, s) => s.endGang g.id 2 f.cause
    | .ok (true, s) => ready s
    | .ok (false, s) => s
  let t : State := match s.gangOf gang with
    | none => s
    | some g =>
      if g.status = .queued then ask g (fun s => s.setGangLast { g with status := .ready, since := s.ticksOf g.record.home })
      else if g.status = .returned then ask g (fun s => s.setGang { g with status := .ready, since := s.ticksOf g.record.home - g.since })
      else s
  .next t.endWrites

/-! Room for a gang (R186, R372). -/

/-- What a placed hart takes of its core: HARTID, Chamber base, Chamber bytes. -/
def Hart.room (h : Hart) : Nat × Nat × Nat := (h.id, h.csr.chbase.toNat, h.csr.chlim.toNat - h.csr.chbase.toNat)

/-- What is taken on a core, but for the harts of the excluded gangs. -/
def State.taken (s : State) (but : List Nat) (core : Nat) : List (Nat × Nat × Nat) :=
  ((s.allHarts.filter (fun h => h.status.placed && h.core == core && !but.contains h.gang)).map Hart.room)

/-- Places for partitions of `n` bytes among used ranges, first fit from `p` up. (DESIGN CHOICE, log 51.) -/
def freeBases (used : List (Nat × Nat)) (n : Nat) : Nat → Nat → List Nat
  | 0, _ => []
  | f + 1, p =>
    if Config.chamberBytes < p + n then []
    else if meetsAny (p, n) used then freeBases used n f (p + 4096)
    else p :: freeBases used n f (p + n)

/-- A list turned by a free choice. (DESIGN CHOICE, log 51.) -/
def turned {α : Type} (l : List α) (c : Nat) : List α := l.drop (c % (l.length + 1)) ++ l.take (c % (l.length + 1))

/-- Slots and partitions of a gang on a core it has never been placed on, where slots and partitions fall by a free choice; none where they do not fit.
(DESIGN CHOICE, log 51.) -/
def newRoom (used : List (Nat × Nat × Nat)) (r : GangRec) (core c : Nat) : Option (List (Nat × Nat)) :=
  let ids := ((List.range 4).map (fun k => 4 * core + k)).filter (fun id => !used.any (fun u => u.1 == id))
  let mine := (turned ids c).take r.hpc
  let bases := (turned (freeBases (used.map (fun u => u.2)) r.chb 1537 0) c).take r.hpc
  if mine.length = r.hpc ∧ bases.length = r.hpc then some ((ids.filter mine.contains).zip bases) else none

/-- Whether the slots and partitions a gang had are free, each on its own core. -/
def sameRoom (used : List (Nat × Nat × Nat)) (need : List (Nat × Nat × Nat)) : Bool :=
  need.all (fun n => !used.any (fun u => u.1 == n.1 || (u.1 / 4 == n.1 / 4 && rangesMeet u.2 n.2)))

/-- What a pre-empted gang needs: the slots and partitions of its live harts. -/
def State.needs (s : State) (g : Gang) : List (Nat × Nat × Nat) := (s.gangHarts g.id).map Hart.room

/-- The slots of a gang on one core, over what is taken there. -/
def State.fitCore (s : State) (g : Gang) (used : List (Nat × Nat × Nat)) (c core : Nat) : Option (List (Nat × Nat)) :=
  if g.status = .requeued then
    let need := (s.needs g).filter (fun n => n.1 / 4 == core)
    if sameRoom used need then some (need.map (fun n => (n.1, n.2.1))) else none
  else newRoom used g.record core c

/-- All or none of a list of results. -/
def allSome {α : Type} : List (Option (List α)) → Option (List α)
  | [] => some []
  | none :: _ => none
  | some a :: r => (allSome r).map (fun l => a ++ l)

/-- The slots of a whole gang in rank order, were the gangs in a list displaced. (DESIGN CHOICE, log 51.) -/
def State.fit (s : State) (g : Gang) (but : List Nat) (c : Nat) : Option (List (Nat × Nat)) :=
  allSome (g.record.cores.map (fun core => s.fitCore g (s.taken but core) c core))

/-! Order, claims and victims (R371-R373). -/

/-- Whether a gang waits to be placed. -/
def Gang.waiting (g : Gang) : Bool := g.status == .ready || g.status == .requeued

/-- The first of a list of gangs by effective priority, the earliest in the list among equals. -/
def firstGang : List Gang → Option Gang
  | [] => none
  | g :: r =>
    match firstGang r with
    | none => some g
    | some h => if h.eff < g.eff then some h else some g

/-- The first ready gang of a home scheduler. -/
def State.firstReady (s : State) (home : Nat) : Option Gang := firstGang (s.gangs.filter (fun g => g.waiting && g.record.home == home))

/-- Whether a gang placed in given slots leaves a claim of another on each core both use (R372). -/
def State.leavesClaim (s : State) (first g : Gang) (slots : List (Nat × Nat)) : Bool :=
  (g.record.cores.filter first.record.cores.contains).all (fun core =>
    let mine := (slots.filter (fun x => x.1 / 4 == core)).map (fun x => (x.1, x.2, g.record.chb))
    (s.fitCore first (s.taken [] core ++ mine) 0 core).isSome)

/-- Whether a placed gang holds something another needs. (DEDUCED, log 50.) -/
def State.holdsNeed (s : State) (x g : Gang) : Bool :=
  if g.status = .requeued then !sameRoom (s.needs x) (s.needs g)
  else (s.gangHarts x.id).any (fun h => g.record.cores.contains h.core)

/-- Gangs in the order in which they are displaced: the highest number first, the latest placed first among equals. (DEDUCED, log 50.) -/
def displaceOrder : List Gang → List Gang
  | [] => []
  | g :: r =>
    let rest := displaceOrder r
    (rest.takeWhile (fun x => decide (g.eff < x.eff) || (g.eff == x.eff && decide (g.placedAt ≤ x.placedAt)))) ++ [g]
      ++ (rest.dropWhile (fun x => decide (g.eff < x.eff) || (g.eff == x.eff && decide (g.placedAt ≤ x.placedAt))))

/-- The shortest prefix of a list of victims whose displacement lets a gang fit. (DEDUCED, log 50.) -/
def State.victims (s : State) (g : Gang) (halting : List Nat) : List Nat → List Nat → Option (List Nat)
  | acc, [] => if (s.fit g (halting ++ acc) 0).isSome then some acc else none
  | acc, v :: r => if (s.fit g (halting ++ acc) 0).isSome then some acc else State.victims s g halting (acc ++ [v]) r

/-- A pre-emption requested of a gang (R380). -/
def State.requestHalt (s : State) (id : Nat) : State :=
  match s.gangOf id with
  | none => s
  | some g => if g.status = .placed then s.setGang { g with status := .halting } else s

/-- The pre-emptions a gang that does not fit asks for (R373). -/
def State.askRoom (s : State) (g : Gang) : State :=
  let halting := (s.gangs.filter (fun x => x.status == .halting)).map Gang.id
  let cand := displaceOrder (s.gangs.filter (fun x => x.status == .placed && decide (g.eff < x.eff) && s.holdsNeed x g))
  match s.victims g halting [] (cand.map Gang.id) with
  | some l => l.foldl State.requestHalt s
  | none => s

/-! Eviction and resume (R382, R383, R81, R82). -/

/-- The keys of a hart's Chamber partition: first key and bytes. -/
def Hart.partition (h : Hart) : Nat × Nat := (chamberKey (chamberAddr h.core h.csr.chbase.toNat), h.csr.chlim.toNat - h.csr.chbase.toNat)

/-- Whether a key lies in a range. -/
def inRange (r : Nat × Nat) (k : Nat) : Bool := decide (r.1 ≤ k) && decide (k < r.1 + r.2)

/-- The keys of the storage of the hart's bound windows in mode R or RW, which no Chamber image holds (R382). -/
def Hart.refilled (h : Hart) : List (Nat × Nat) :=
  h.bound.filterMap (fun n => (h.win n).bind (fun w => match w.d.mode with
    | .w => none
    | .r | .rw => some (chamberKey (chamberAddr h.core w.range.1), w.range.2)))

/-- The bytes of the slots that failed write-backs keep in the hart's windows (R80). -/
def Hart.heldKeys (h : Hart) : List Nat :=
  h.bound.flatMap (fun n => match h.win n with
    | none => []
    | some w => (w.faults.filter (fun f => !f.isFill)).flatMap (fun f => h.slotKeys w f.slot))

/-- The regions of a list that meet a range. -/
def regionsIn (r : Nat × Nat) (l : List (Nat × Nat × Nat)) : List (Nat × Nat × Nat) :=
  l.filter (fun u => decide (u.1 < r.1 + r.2) && decide (r.1 < u.1 + u.2.1))

/-- Evicts the Chamber partition of the focus hart, pre-empted before: dirty elements are written back and its bytes are kept in its image. The storage
of windows in mode R or RW keeps its bytes, which resume refills, and drops its poison, but for the slots that failed write-backs keep. (DEDUCED, log 46.) -/
def State.evictFocus (s0 : State) : State :=
  let s := s0.flushAll
  let h := s.hart
  let r := h.partition
  let s := s.expose ((s.flaws.map Flaw.first).filter (fun k => inRange r k && !h.refilled.any (fun x => inRange x k)))
  let kept := h.heldKeys.map unitOf
  { s with frames := s.frames.map (fun f =>
      if f.hart = h.id ∧ f.gang = h.gang ∧ f.image = none then
        { f with image := some { cells := s.mem.cells.filter (fun c => inRange r c.1)
                                 poison := s.poison.filter (fun k => inRange r k && (kept.contains k || !h.refilled.any (fun x => inRange x k)))
                                 undef := regionsIn r s.undef, vague := regionsIn r s.vague } }
      else f) }

/-- Whether restoring the image of a pre-empted hart meets poison (R377): what resume refills is no part of it (R382). -/
def State.imageHurt (s : State) (f : Frame) : Bool :=
  match f.image, s.allHarts.find? (fun h => h.id == f.hart && h.gang == f.gang) with
  | some i, some h => i.poison.any (fun k => !h.refilled.any (fun x => inRange x k))
  | some i, none => !i.poison.isEmpty
  | none, _ => false

/-- Evicts every pre-empted hart whose partition meets one that is to be placed. -/
def State.evictFor (s : State) (g : Gang) (slots : List (Nat × Nat)) : State :=
  let meets := fun (h : Hart) => slots.any (fun x => x.1 / 4 == h.core && rangesMeet (x.2, g.record.chb) h.room.2)
  let out := s.allHarts.filter (fun h => h.live && !h.status.placed && h.gang != g.id && meets h
    && s.frames.any (fun f => f.hart == h.id && f.gang == h.gang && f.image.isNone))
  out.foldl (fun s h => s.onHart (fun x => x.id == h.id && x.gang == h.gang && x.live) State.evictFocus) s

/-- The keys of a range cut out of the undefined regions. -/
def cutRange (r : Nat × Nat) : List (Nat × Nat × Nat) → List (Nat × Nat × Nat)
  | [] => []
  | u :: l =>
    let rest := cutRange r l
    let e := u.1 + u.2.1
    (if u.1 < r.1 then [(u.1, Nat.min e r.1 - u.1, u.2.2)] else []) ++ (if r.1 + r.2 < e then [(Nat.max u.1 (r.1 + r.2), e - Nat.max u.1 (r.1 + r.2), u.2.2)] else []) ++ rest

/-- An undefined region kept to a range. -/
def clipRegion (r : Nat × Nat) (u : Nat × Nat × Nat) : Nat × Nat × Nat :=
  let lo := Nat.max u.1 r.1
  (lo, Nat.min (u.1 + u.2.1) (r.1 + r.2) - lo, u.2.2)

/-- A Chamber image written back to the focus hart's partition: the words it holds are written whole (R48). (DEDUCED, log 46.) -/
def State.restoreImage (s : State) (img : Image) : State :=
  let r := s.hart.partition
  let mem := img.cells.foldl (fun (m : Memory) c => m.write c.1 c.2) { cells := s.mem.cells.filter (fun c => !inRange r c.1) }
  { s with mem := mem, poison := s.poison.filter (fun k => !inRange r k) ++ img.poison, undef := img.undef.map (clipRegion r) ++ cutRange r s.undef
           vague := img.vague.map (clipRegion r) ++ cutRange r s.vague
           flaws := s.flaws.filter (fun x => !inRange r x.first || s.hart.refilled.any (fun w => inRange w x.first)) }

/-- The partition of the focus hart whose image others have overwritten in the pool: its bytes are not defined (R381). (DESIGN CHOICE, log 47.) -/
def State.loseImage (s : State) : State :=
  let r := s.hart.partition
  let (n, s) := s.fresh
  { s with undef := (r.1, r.2, n) :: s.undef, poison := s.poison.filter (fun k => !inRange r k), flaws := s.flaws.filter (fun x => !inRange r x.first) }

/-- The context pool of a partition: first byte and bytes (R381, R415). (DESIGN CHOICE, log 47.) -/
def State.pool (s : State) (p : Nat) : Nat × Nat :=
  let b := s.pblock p
  (b.ctxp.toNat, 0x6200000 * ((List.range 64).filter (fun d => s.ownsDie p d)).length)

/-- The cycles of an interval of the nominal clock that a die's own clock counts (R420): what is left of a cycle at its end counts on. -/
def State.cyclesOf (s : State) (die n : Nat) : Nat :=
  let t := s.ticks.getD (islandOf die) 0
  (t + n * s.islands.getD (islandOf die) 1250000) / 1250000 - t / 1250000

/-- 32 KiB places of context frames in a die's share of the pool. -/
def framePlaces : Nat := 0x6200000 / 0x8000

/-- The first place at or after k that no frame has. -/
def freePlace (base : Nat) (used : List Nat) : Nat → Nat → Nat
  | 0, k => k
  | f + 1, k => if used.contains (base + 0x8000 * (k % framePlaces)) then freePlace base used f (k + 1) else k % framePlaces

/-- The place of a new context frame of a hart: within its die's share of the pool, where its scheduler chooses (R381). (DESIGN CHOICE, log 47.) -/
def State.placeFrame (s : State) (h : Hart) (c : Nat) : Nat :=
  let base := (s.pool h.part).1 + 0x6200000 * ((List.range h.die).filter (fun d => s.ownsDie h.part d)).length
  base + 0x8000 * freePlace base (s.frames.map Frame.addr) (s.frames.length + 1) (c % framePlaces)

/-- A context frame's words PC, FLAGS, G, a zero word, CSR, BUDGET and MISC (R381), in that order. -/
def Hart.frameWords (h : Hart) (mx : Bool) (budget : W64) : List W64 :=
  [h.pc, BitVec.ofNat 64 (h.sup.toNat + 2 * (h.status == .halted).toNat + 4 * mx.toNat)] ++ h.g.toList.tail ++
  [0, h.csr.vl, h.csr.vtype, h.csr.vcfg, h.csr.sc, h.csr.estart, h.csr.mxl, h.csr.mxf, h.csr.temp, h.csr.frm, h.csr.xrm, h.csr.vstat, h.csr.ovfm, h.csr.noise,
   h.csr.nlog, h.csr.tcause, h.csr.tpc, h.csr.tval, h.csr.tstat, h.csr.tvec, h.csr.tscratch, budget, BitVec.ofNat 64 (h.lastDest + h.barrier % 2 ^ 32 * 2 ^ 32)]

/-- The budget a gang has left, its record's again after an overrun (R374). -/
def State.gangBudget (s : State) (id : Nat) : W64 :=
  match s.gangOf id with
  | some g => if g.budget = 0 then g.record.budget else g.budget
  | none => 0

/-- The frames of the harts that a test picks with one word of their fields changed. -/
def State.setFrameWord (s : State) (pick : Frame → Bool) (n : Nat) (f : W64 → W64) : State :=
  { s with frames := s.frames.map (fun x => if pick x then { x with words := x.words.modify n f } else x) }

/-- The bytes of a context frame that its hart's state fills. -/
def Frame.range (f : Frame) : Nat × Nat := (f.addr, if f.tile.isSome then 0x8000 else 0x4000)

/-- A frame written over its place: the units and lines it covers arrive whole (R51, R59). -/
def State.coverFrame (s : State) (f : Frame) : State :=
  let out := fun (k : Nat) => !inRange f.range k
  { s with poison := s.poison.filter out, flaws := s.flaws.filter (fun x => out x.first), checks := s.checks.filter (fun x => out x.1) }

/-- A scheduler's read of a range of a context pool: bit errors and check mismatches are met (R51, R59, R60). -/
def State.readPool (s : State) (r : Nat × Nat) : State := s.inspect 1 ((s.flaws.map Flaw.first).filter (inRange r)) ((s.checks.map Prod.fst).filter (inRange r))

/-- Whether a range holds an error that a read of it would meet. -/
def State.hurtIn (s : State) (r : Nat × Nat) (out : Nat → Bool) : Bool :=
  s.poison.any (fun k => inRange r k && out k) || s.checks.any (fun c => inRange r c.1 && out c.1 && s.mismatch c.1) || s.flaws.any (fun x => x.fatal && inRange r x.first && out x.first)

/-- A list of a fixed length. -/
def fitList {α : Type} (n : Nat) (d : α) (l : List α) : List α := l.take n ++ List.replicate (n - l.length) d

/-- A hart whose saved state others have overwritten: a free hart in its place, held only to what each register and file can hold (R381). (DESIGN CHOICE, log 47.) -/
def Hart.havoc (h : Hart) (n : Nat) : Hart :=
  let f := Config.freeHart n
  let c := f.csr
  let vcfg := if h.vcfgOk c.vcfg then c.vcfg else h.csr.vcfg
  let vtype := if vtypeOk c.vtype then c.vtype else h.csr.vtype
  let k := { h.csr with vcfg := vcfg, vtype := vtype }
  { f with
    id := h.id, part := h.part, asid := h.asid, gang := h.gang, status := h.status, pc := f.pc &&& ~~~(1 : W64), span := none, convoy := none, wait := .none
    barrier := f.barrier % 2 ^ 32, lastDest := f.lastDest % 64
    csr := { k with
      vl := BitVec.ofNat 64 (c.vl.toNat % (k.mvl + 1)), sc := c.sc, estart := c.estart, mxl := c.mxl &&& 0x7F, mxf := c.mxf &&& 0xFF
      temp := (tempStore c.temp).1, frm := frmStore c.frm, xrm := c.xrm, vstat := c.vstat &&& 0xFF, ovfm := ovfmStore (vcfgNm vcfg) c.ovfm
      noise := noiseStore c.noise, nlog := c.nlog &&& ~~~(0x7F : W64), tcause := c.tcause &&& 0xFF, tpc := c.tpc, tval := c.tval, tstat := tstatStore c.tstat
      tvec := c.tvec &&& ~~~(1 : W64), tscratch := c.tscratch }
    vregs := fitList 64 (VReg.reset 0) f.vregs, mregs := fitList 16 (MReg.reset 0) f.mregs, byp := fitList 4 { tag := .f32, written := false, data := [] } f.byp
    wins := fitList 16 none f.wins, ctrs := fitList 8 0 f.ctrs, pred := fitList 8 1 f.pred, strs := fitList 8 none f.strs, noiseBuf := fitList 64 0 f.noiseBuf }

/-- Whether the pool a frame lies in has been left alone since the frame was written. (DESIGN CHOICE, log 47.) -/
def State.frameIntact (s : State) (f : Frame) : Bool := s.undef.contains (f.pool.1, f.pool.2, f.seed)

/-- The focus hart takes the matrix unit back, or waits for it in the unit's queue (R381, R314). (DEDUCED, log 49.) -/
def State.reacquire (s : State) : State :=
  let u := s.ownMx
  let q := if u.queue.contains s.hart.id then u.queue else u.queue ++ [s.hart.id]
  match s.frames.find? (fun f => f.hart == s.hart.id && f.gang == s.hart.gang && f.tile.isSome) with
  | none => s
  | some f =>
    if u.holder = none ∧ q.head? = some s.hart.id then
      { (s.setMx { u with holder := some s.hart.id, queue := q.tail, cells := f.tile.getD [] }) with frames := s.frames.filter (fun x => x != f) }
    else s.setMx { u with queue := q }

/-- Restores the focus hart, pre-empted before (R383): image, frame, then the residency engine. Where others have written the pool, its registers, its array and its Chamber
hold free values (R381). -/
def State.restoreFocus (s : State) : State :=
  let h := s.hart
  let st : HStatus := if h.status = .preemptedHalted then .halted else .running
  match s.frames.find? (fun f => f.hart == h.id && f.gang == h.gang) with
  | none => (s.setHart { h with status := st }).settle
  | some f =>
    let intact := s.frameIntact f
    let s := match f.image with
      | some img => if intact then (s.restoreImage img).refillAll else s
      | none => s
    let (f', s) := if intact then (f, s.setHart { s.hart with status := st })
      else let (n, s) := s.loseImage.fresh
        ({ f with tile := f.tile.map (fun _ => Config.freeTile n) }, s.setHart { (s.hart.havoc n) with status := st })
    let s := { s with frames := s.frames.filterMap (fun x => if x = f then (if f.tile.isSome then some { f' with image := none, words := [] } else none) else some x) }
    s.reacquire.settle

/-! Placing (R186, R187, R372). -/

/-- The harts of a gang started in its slots, each in place of whatever hart of the gang stood there. Every access before stands before theirs (R119).
(DEDUCED, log 48.) -/
def State.startHarts (s : State) (g : Gang) : State :=
  let new := (g.slots.zip (List.range g.slots.length)).map (fun x => g.startHart g.slots.length x.2 x.1.1 x.1.2)
  let gone := fun (h : Hart) => (h.gang == g.id || !h.live) && g.slots.any (fun x => x.1 == h.id)
  let s := { s with parked := s.parked.filter (fun h => !gone h), unseen := s.unseen.filter (fun u => !g.slots.any (fun x => x.1 == u.hart)) }
  if gone s.hart then
    match new.find? (fun h => h.id == s.hart.id) with
    | some h => { s with hart := h, parked := s.parked ++ new.filter (fun x => x.id != h.id) }
    | none => { s with parked := s.parked ++ new }
  else { s with parked := s.parked ++ new }

/-- A gang marked placed now (R371): its present effective priority stands, and its period of rising begins. -/
def State.markPlaced (s : State) (g : Gang) : State := s.setGangLast { g with status := .placed, since := s.ticksOf g.record.home, placedAt := s.clock }

/-- The pre-empted harts of a gang restored, one after another. (DEDUCED, log 49.) -/
def State.resumeHarts (s : State) (g : Gang) : State :=
  ((s.gangHarts g.id).map Hart.id).foldl (fun s id => s.onHart (fun h => h.id == id && h.gang == g.id && h.live) State.restoreFocus) s

/-- A rerun of a gang (R377): its harts' state is discarded, and each starts again in its own slot as soon as the slots are free. One that waits already keeps its place and its priority (R371). (DEDUCED, log 48.) -/
def State.rerunGang (s : State) (g0 : Gang) : State :=
  if g0.slots.isEmpty then s
  else
    let s := s.discardGang g0.id
    let g := { g0 with budget := g0.record.budget, barriers := 0, cause := 0 }
    let waits (s : State) : State := (s.startHarts g).mapHarts (fun h => h.gang == g.id && h.live) (fun h => { h with status := .preempted })
    let free : Bool := g.record.cores.all (fun core => sameRoom (s.taken [] core) ((g.slots.filter (fun x => x.1 / 4 == core)).map (fun x => (x.1, x.2, g.record.chb))))
    if free && (g.status == .placed || g.status == .halting) then ((s.setGang { g with status := .placed }).evictFor g g.slots).startHarts g
    else if g.status == .requeued then waits (s.setGang g)
    else waits (s.setGangLast { g with status := .requeued, eff := g.record.prio, since := s.ticksOf g.record.home })

/-- A gang placed in slots that are free for it. A gang placed again resumes, or is rerun where a frame or an image meets poison or a check mismatch, which are met as any
read meets them (R60, R377); where the pool holds either outside the frames, a free choice says whether a stored image lies there (R381, R383). -/
def State.placeGang (s : State) (g : Gang) (slots : List (Nat × Nat)) : State :=
  if g.status = .requeued then
    let s := (s.evictFor g slots).markPlaced g
    let mine := s.frames.filter (fun f => f.gang == g.id)
    let s := mine.foldl (fun s f => s.readPool f.range) s
    let hurt := mine.any (fun f => s.poison.any (inRange f.range) || s.imageHurt f)
    let stored := mine.any (fun f => f.image.isSome && s.hurtIn f.pool (fun k => !s.frames.any (fun x => inRange x.range k)))
    let (c, s) := if stored then s.choose else (0, s)
    let s := if c % 2 = 1 then mine.foldl (fun s f => s.readPool f.pool) s else s
    match s.gangOf g.id with
    | none => s
    | some p => if hurt || c % 2 = 1 then s.rerunGang p else s.resumeHarts p
  else
    match s.readWaits g g.record.waits with
    | .error (f, s) => s.endGang g.id 2 f.cause
    | .ok (false, s) => s.setGang { g with status := .returned, since := s.ticksOf g.record.home - g.since }
    | .ok (true, s) =>
      let g := { g with slots := slots }
      ((s.evictFor g slots).markPlaced g).startHarts g

/-- What the home scheduler does for a waiting gang (R372, R373): the first in order is placed or asks for room, one behind it is placed where it leaves the first
its claim. -/
def State.tryPlace (s : State) (g : Gang) : State :=
  let (c, s) := s.choose
  match s.firstReady g.record.home with
  | none => s
  | some first =>
    if first.id = g.id then
      match s.fit g [] c with
      | some slots => s.placeGang g slots
      | none => s.askRoom g
    else if (s.fit first [] 0).isSome then s
    else
      match s.fit g [] c with
      | some slots => if s.leavesClaim first g slots then s.placeGang g slots else s
      | none => s

/-- GANG_PLACE (R372). -/
def execGangPlace (gang : Nat) (s : State) : Host.Outcome State Fault Refusal :=
  let t : State := match s.gangOf gang with
    | none => s
    | some g => if g.waiting then s.tryPlace g else s
  .next t.endWrites

/-- NEXT_PRELOAD (R375): no architectural effect. (DEDUCED, log 54.) -/
def execNextPreload (_gang : Nat) (s : State) : Host.Outcome State Fault Refusal := .next s

/-! Aging and budgets (R371, R374). -/

/-- The cycles of one step of aging. -/
def agePeriod : Nat := 2 ^ 20

/-- Whether a period of aging or rising of a gang has ended. -/
def State.aged (s : State) (g : Gang) : Bool := decide (g.since + agePeriod ≤ s.ticksOf g.record.home)

/-- PRIORITY_AGING (R371). -/
def execPriorityAging (gang : Nat) (s : State) : Host.Outcome State Fault Refusal :=
  .next (match s.gangOf gang with
    | none => s
    | some g => if g.waiting && s.aged g then s.setGang { g with eff := g.eff - 1, since := g.since + agePeriod } else s)

/-- PRIORITY_RISE (R371). -/
def execPriorityRise (gang : Nat) (s : State) : Host.Outcome State Fault Refusal :=
  .next (match s.gangOf gang with
    | none => s
    | some g =>
      if (g.status == .placed || g.status == .halting) && s.aged g then
        s.setGang { g with eff := if g.eff < g.record.prio then g.eff + 1 else g.eff, since := g.since + agePeriod }
      else s)

/-- Whether a gang's budget has run out (R374). -/
def Gang.overrun (g : Gang) : Bool := g.record.budget != 0 && g.budget == 0 && g.status == .placed

/-- BUDGET_OVERRUN (R374): the gang is pre-empted, and its budget is the record's again when it is requeued. -/
def execBudgetOverrun (gang : Nat) (s : State) : Host.Outcome State Fault Refusal :=
  .next (match s.gangOf gang with
    | none => s
    | some g => if g.overrun then s.requestHalt g.id else s)

/-- The passing of n cycles of the nominal clock: each island counts those of its own, and budgets of placed gangs count down by their home die's (R374, R420).
(DESIGN CHOICE, log 10.) -/
def State.passCycles (s : State) (n : Nat) : State :=
  { s with
    clock := s.clock + n
    ticks := (List.range 16).map (fun i => s.ticks.getD i 0 + n * s.islands.getD i 1250000)
    gangs := s.gangs.map (fun g =>
      if (g.status == .placed || g.status == .halting) && g.record.budget != 0 then
        { g with budget := BitVec.ofNat 64 (g.budget.toNat - s.cyclesOf g.record.home n) }
      else g) }

/-! Pre-emption (R380, R381). -/

/-- The focus hart halted for a pre-emption: accepted advances are filled, read-ahead is dropped, the array is saved and the unit released, and a context frame is
written to the pool. -/
def State.haltFocus (s0 : State) : State :=
  let s := s0.completeFills
  let h := s.hart
  let u := s.ownMx
  let tile := if u.holder = some h.id then some u.cells else match s.frames.find? (fun f => f.hart == h.id && f.gang == h.gang) with
    | some f => f.tile
    | none => none
  let s := s.dropMatrix h.id
  let (n, s) := s.fresh
  let (c, s) := s.choose
  let r := s.pool h.part
  let f : Frame := { hart := h.id, gang := h.gang, pool := r, seed := n, addr := s.placeFrame h c, words := h.frameWords tile.isSome (s.gangBudget h.gang), tile := tile, image := none }
  let s := s.coverFrame f
  let s := { s with frames := f :: s.frames.filter (fun x => !(x.hart == h.id && x.gang == h.gang)), undef := (r.1, r.2, n) :: s.undef }
  s.setHart { h with
    status := if h.status = .halted then .preemptedHalted else .preempted
    wait := if h.wait = .gbar then .gbar else .none
    strs := h.strs.map (fun x => x.map Stream.discard) }

/-- A gang all of whose harts have halted is requeued (R371, R374). -/
def State.requeue (s : State) (id : Nat) : State :=
  match s.gangOf id with
  | none => s
  | some g =>
    if g.status = .halting ∧ (s.gangHarts id).all (fun h => !h.status.placed) then
      (s.setFrameWord (fun f => f.gang == id) 54 (fun _ => s.gangBudget id)).setGangLast { g with
        status := .requeued, eff := g.record.prio, since := s.ticksOf g.record.home
        budget := if g.budget = 0 then g.record.budget else g.budget }
    else s

/-- Whether a pre-emption of a hart has been requested. -/
def State.halting (s : State) (h : Hart) : Bool :=
  h.status.placed && (match s.gangOf h.gang with | some g => g.status == .halting | none => false)

/-- HART_HALT (R380). -/
def execHartHalt (hart : Nat) (s : State) : Host.Outcome State Fault Refusal :=
  let t : State := match s.allHarts.find? (fun h => h.id == hart && s.halting h) with
    | none => s
    | some h => (s.onHart (fun x => x.id == h.id && x.gang == h.gang && x.live) State.haltFocus).requeue h.gang
  .next t.endWrites

/-! SCMD (R377, R378). -/

/-- The gangs a command means. -/
def State.matched (s : State) (q : SchedCmd) : List Gang :=
  s.gangs.filter (fun g => g.status.live && g.record.home == q.die && g.record.asid == q.asid && g.record.done == q.done && (q.done != 0 || q.mgmt))

/-- A command taken from its scheduler, with MATCH set. -/
def State.takeCmd (s : State) (op : Nat) (q : SchedCmd) : State :=
  let v := (s.scmdOf q.die).toNat
  let s := { s with cmds := s.cmds.erase (op, q) }
  s.setScmd q.die (BitVec.ofNat 128 (v - bits v 8 24 * 0x100 + (s.matched q).length * 0x100))

/-- KILL (R378). -/
def execKill (q : SchedCmd) (s : State) : Host.Outcome State Fault Refusal :=
  .next ((s.matched q).foldl (fun s g => s.endGang g.id 3 0) (s.takeCmd 1 q)).endWrites

/-- RERUN (R377, R378). (DEDUCED, log 48.) -/
def execRerun (q : SchedCmd) (s : State) : Host.Outcome State Fault Refusal :=
  .next ((s.matched q).foldl State.rerunGang (s.takeCmd 2 q)).endWrites

/-- A hart halted by `halt` made to fetch again, or to do so once it is placed. -/
def Hart.resumed (h : Hart) : Hart :=
  match h.status with
  | .halted => { h with status := .running }
  | .preemptedHalted => { h with status := .preempted }
  | .off => h
  | .running => h
  | .preempted => h
  | .ended => h

/-- RESUME (R252, R378): it matches as every command does, and resumes the harts of the writer's own partition, or of any where management wrote it. -/
def execResume (q : SchedCmd) (s : State) : Host.Outcome State Fault Refusal :=
  .next (((s.matched q).filter (fun g => q.mgmt || g.part == q.part)).foldl (fun s g => (s.mapGang g.id Hart.resumed).setFrameWord (fun f => f.gang == g.id) 1 (fun w => w &&& ~~~(2 : W64))) (s.takeCmd 3 q))

end Sys2Proof.Machine
end

