-- ==== Sys2Proof/Machine/Errors.lean ====
section
/-! DEFINITION. Errors and parts taken out of service: the patrol scrubber (R54), reads of the error log (R392), persistent faults (R394, R395) and the noise
health monitor (R234). -/
namespace Sys2Proof.Machine

/-- PATROL_SCRUB (R54): what a controller's scrubber finds in the line at a PA is corrected and logged, or poisons the line and is logged: an error that stands
there, and the one the event names. (DESIGN CHOICE, logs 7 and 57; DEDUCED, log 70; DESIGN CHOICE, log 74.) -/
def State.scrub (s : State) (pa : Nat) (found : ScrubFind) : State :=
  if pa / 2 ^ 41 ≠ 0 ∨ !s.populated pa then s
  else
    let line := pa / 64 * 64
    let s := (s.flaws.filter (fun f => f.point == 2 && f.first == line)).foldl State.meetFlaw s
    match found with
    | .clean => s
    | .corrected => s.meetFlaw { point := 2, first := line, fatal := false }
    | .uncorrectable => s.meetFlaw { point := 2, first := line, fatal := true }

/-- PATROL_SCRUB (R54). -/
def execPatrolScrub (pa : Nat) (found : ScrubFind) (s : State) : Host.Outcome State Fault Refusal := .next (s.scrub pa found)

/-- ERROR_LOG_READ (R392). (DEDUCED, log 70.) -/
def execErrorLogRead (die slot : Nat) (s : State) : Host.Outcome State Fault Refusal := .next (s.markRead die slot)

/-- The gangs that use one of a list of cores end with status 2 and cause byte 0 (R395). -/
def State.endUsers (s : State) (cores : List Nat) : State :=
  (s.gangs.filter (fun g => g.status.live && g.record.cores.any cores.contains)).foldl (fun s g => s.endGang g.id 2 0) s

/-- A core, or a whole die, taken out of service, with a class 6 record (R393-R395). (DESIGN CHOICE, log 57.) -/
def State.takeOut (s : State) (die : Nat) (core : Option Nat) (point addr : Nat) : State :=
  let cores := match core with
    | some c => [16 * die + c]
    | none => (List.range 16).map (fun c => 16 * die + c)
  let s := s.logError die 6 point (core.getD 0xFF) addr 0
  let s := { s with
    deadCores := (cores ++ s.deadCores).eraseDups
    deadDies := match core with | some _ => s.deadDies | none => (die :: s.deadDies).eraseDups }
  s.endUsers cores

/-- Whether a fault is persistent (R394): a Chamber or Gallery word that has logged three errors within 2^30 cycles, whenever that was. For the other parts the spec sets
no count. (DESIGN CHOICE, log 57.) -/
def State.persistent (s : State) (point addr : Nat) : Bool :=
  if point = 0 ∨ point = 1 then
    let ts := (s.errTimes.filter (fun e => e.1 == point && e.2.1 == addr)).map (fun e => e.2.2)
    ts.any (fun t => decide (3 ≤ (ts.filter (fun u => decide (t ≤ u) && decide (u ≤ t + 2 ^ 30))).length))
  else true

/-- Whether a fault lies in a part whose fault takes a core, or a die, out of service (R394), at an address of that part (R393): a core's Chamber, noise source,
instruction cache or lanes; a die's Gallery, controllers or scheduler. -/
def partOk (die : Nat) (core : Option Nat) (point addr : Nat) : Bool :=
  decide (die < 64) && match core with
  | some c => decide (c < 16) && ((point == 0 && addr / 0x800000 == 16 * die + c) || ((point == 8 || point == 10) && addr == 0))
  | none => (point == 1 && addr / 2 ^ 35 == die) || (point == 2 && (addr == 0 || addr / 2 ^ 35 == die)) || (point == 9 && addr == 0)

/-- PERSISTENT_FAULT (R394, R395). -/
def execPersistentFault (die : Nat) (core : Option Nat) (point addr : Nat) (s : State) : Host.Outcome State Fault Refusal :=
  .next (if partOk die core point addr && s.persistent point addr then (s.takeOut die core point addr).endWrites else s)

/-- NOISE_HEALTH_FAILURE (R234): class 7, and firmware takes the core out of service. (DESIGN CHOICE, log 57.) -/
def execNoiseHealthFailure (die core : Nat) (s : State) : Host.Outcome State Fault Refusal :=
  .next ((s.logError die 7 8 core 0 0).takeOut die (some core) 8 0).endWrites

end Sys2Proof.Machine
end

