-- ==== Sys2Proof/WellFormed.lean ====
section
/-! DEFINITION. Which instructions the encodings admit: the checks of the encoding tables that go beyond a field's width. -/
namespace Sys2Proof

/-- An instruction with a word whose fields the spec's encoding admits; a step of another agent has no word and is not well-formed. -/
def Instr.wf : Instr → Bool
  | .add _ _ _ => true
  | .sub _ _ _ => true
  | .and _ _ _ => true
  | .or _ _ _ => true
  | .xor _ _ _ => true
  | .sll _ _ _ => true
  | .srl _ _ _ => true
  | .sra _ _ _ => true
  | .slt _ _ _ => true
  | .sltu _ _ _ => true
  | .min _ _ _ => true
  | .max _ _ _ => true
  | .minu _ _ _ => true
  | .maxu _ _ _ => true
  | .mul _ _ _ => true
  | .mulh _ _ _ => true
  | .mulhu _ _ _ => true
  | .div _ _ _ => true
  | .divu _ _ _ => true
  | .rem _ _ _ => true
  | .remu _ _ _ => true
  | .clz _ _ => true
  | .ctz _ _ => true
  | .popc _ _ => true
  | .addi _ _ _ => true
  | .addiLong _ _ _ => true
  | .andi _ _ _ => true
  | .andiLong _ _ _ => true
  | .ori _ _ _ => true
  | .oriLong _ _ _ => true
  | .xori _ _ _ => true
  | .xoriLong _ _ _ => true
  | .slti _ _ _ => true
  | .sltiLong _ _ _ => true
  | .slli _ _ _ => true
  | .srli _ _ _ => true
  | .srai _ _ _ => true
  | .lih _ _ => true
  | .lihLong _ _ => true
  | .liw _ _ _ => true
  | .liwLong _ _ _ => true
  | .ldB _ _ _ => true
  | .ldBLong _ _ _ => true
  | .ldBu _ _ _ => true
  | .ldBuLong _ _ _ => true
  | .ldH _ _ _ => true
  | .ldHLong _ _ _ => true
  | .ldHu _ _ _ => true
  | .ldHuLong _ _ _ => true
  | .ldW _ _ _ => true
  | .ldWLong _ _ _ => true
  | .ldWu _ _ _ => true
  | .ldWuLong _ _ _ => true
  | .ldD _ _ _ => true
  | .ldDLong _ _ _ => true
  | .ldDA8 _ _ _ => true
  | .ldDA8Long _ _ _ => true
  | .stB _ _ _ => true
  | .stBLong _ _ _ => true
  | .stH _ _ _ => true
  | .stHLong _ _ _ => true
  | .stW _ _ _ => true
  | .stWLong _ _ _ => true
  | .stD _ _ _ => true
  | .stDLong _ _ _ => true
  | .stDA8 _ _ _ => true
  | .stDA8Long _ _ _ => true
  | .ldQA16 _ _ d => decide (d.toNat % 2 = 0)
  | .ldQA16Long _ d _ => decide (d.toNat % 2 = 0)
  | .stQA16 _ _ d => decide (d.toNat % 2 = 0)
  | .stQA16Long _ d _ => decide (d.toNat % 2 = 0)
  | .ldA sz sc _ d => decide (sz.toNat ≤ 4) && decide (sc.toNat ≤ 4) && (decide (sz.toNat ≠ 4) || decide (d.toNat % 2 = 0))
  | .ldALong sz sc _ d _ => decide (sz.toNat ≤ 4) && decide (sc.toNat ≤ 4) && (decide (sz.toNat ≠ 4) || decide (d.toNat % 2 = 0))
  | .stR sz sc _ d => decide (sz.toNat ≤ 4) && decide (sc.toNat ≤ 4) && (decide (sz.toNat ≠ 4) || decide (d.toNat % 2 = 0))
  | .stRLong sz sc _ d _ => decide (sz.toNat ≤ 4) && decide (sc.toNat ≤ 4) && (decide (sz.toNat ≠ 4) || decide (d.toNat % 2 = 0))
  | .amoAdd od sc _ _ _ _ => decide (sc.toNat ≤ 4) && (decide (od.toNat ≠ 0) || decide (sc.toNat = 0))
  | .amoAddLong od sc _ _ _ _ _ => decide (sc.toNat ≤ 4) && (decide (od.toNat ≠ 0) || decide (sc.toNat = 0))
  | .amoAnd od sc _ _ _ _ => decide (sc.toNat ≤ 4) && (decide (od.toNat ≠ 0) || decide (sc.toNat = 0))
  | .amoAndLong od sc _ _ _ _ _ => decide (sc.toNat ≤ 4) && (decide (od.toNat ≠ 0) || decide (sc.toNat = 0))
  | .amoOr od sc _ _ _ _ => decide (sc.toNat ≤ 4) && (decide (od.toNat ≠ 0) || decide (sc.toNat = 0))
  | .amoOrLong od sc _ _ _ _ _ => decide (sc.toNat ≤ 4) && (decide (od.toNat ≠ 0) || decide (sc.toNat = 0))
  | .amoXor od sc _ _ _ _ => decide (sc.toNat ≤ 4) && (decide (od.toNat ≠ 0) || decide (sc.toNat = 0))
  | .amoXorLong od sc _ _ _ _ _ => decide (sc.toNat ≤ 4) && (decide (od.toNat ≠ 0) || decide (sc.toNat = 0))
  | .amoMin od sc _ _ _ _ => decide (sc.toNat ≤ 4) && (decide (od.toNat ≠ 0) || decide (sc.toNat = 0))
  | .amoMinLong od sc _ _ _ _ _ => decide (sc.toNat ≤ 4) && (decide (od.toNat ≠ 0) || decide (sc.toNat = 0))
  | .amoMax od sc _ _ _ _ => decide (sc.toNat ≤ 4) && (decide (od.toNat ≠ 0) || decide (sc.toNat = 0))
  | .amoMaxLong od sc _ _ _ _ _ => decide (sc.toNat ≤ 4) && (decide (od.toNat ≠ 0) || decide (sc.toNat = 0))
  | .amoMinu od sc _ _ _ _ => decide (sc.toNat ≤ 4) && (decide (od.toNat ≠ 0) || decide (sc.toNat = 0))
  | .amoMinuLong od sc _ _ _ _ _ => decide (sc.toNat ≤ 4) && (decide (od.toNat ≠ 0) || decide (sc.toNat = 0))
  | .amoMaxu od sc _ _ _ _ => decide (sc.toNat ≤ 4) && (decide (od.toNat ≠ 0) || decide (sc.toNat = 0))
  | .amoMaxuLong od sc _ _ _ _ _ => decide (sc.toNat ≤ 4) && (decide (od.toNat ≠ 0) || decide (sc.toNat = 0))
  | .amoSwap od sc _ _ _ _ => decide (sc.toNat ≤ 4) && (decide (od.toNat ≠ 0) || decide (sc.toNat = 0))
  | .amoSwapLong od sc _ _ _ _ _ => decide (sc.toNat ≤ 4) && (decide (od.toNat ≠ 0) || decide (sc.toNat = 0))
  | .amoCas od sc _ _ _ _ => decide (sc.toNat ≤ 4) && (decide (od.toNat ≠ 0) || decide (sc.toNat = 0))
  | .amoCasLong od sc _ _ _ _ _ => decide (sc.toNat ≤ 4) && (decide (od.toNat ≠ 0) || decide (sc.toNat = 0))
  | .amoSwapA16 od sc b _ d => decide (sc.toNat ≤ 4) && (decide (od.toNat ≠ 0) || decide (sc.toNat = 0)) && decide (d.toNat % 2 = 0) && decide (b.toNat % 2 = 0)
  | .amoSwapA16Long od sc b _ d _ => decide (sc.toNat ≤ 4) && (decide (od.toNat ≠ 0) || decide (sc.toNat = 0)) && decide (d.toNat % 2 = 0) && decide (b.toNat % 2 = 0)
  | .amoCasA16 od sc b _ d => decide (sc.toNat ≤ 4) && (decide (od.toNat ≠ 0) || decide (sc.toNat = 0)) && decide (d.toNat % 2 = 0) && decide (b.toNat % 2 = 0)
  | .amoCasA16Long od sc b _ d _ => decide (sc.toNat ≤ 4) && (decide (od.toNat ≠ 0) || decide (sc.toNat = 0)) && decide (d.toNat % 2 = 0) && decide (b.toNat % 2 = 0)
  | .fence sc => decide (sc.toNat ≤ 4)
  | .fenceX sc _ _ => decide (sc.toNat ≤ 4)
  | .wfm sc _ _ _ => decide (sc.toNat ≤ 4)
  | .wfmWake => false
  | .waitq _ => true
  | .beq _ _ => true
  | .beqLong _ _ _ => true
  | .bne _ _ => true
  | .bneLong _ _ _ => true
  | .blt _ _ => true
  | .bltLong _ _ _ => true
  | .bge _ _ => true
  | .bgeLong _ _ _ => true
  | .bltu _ _ => true
  | .bltuLong _ _ _ => true
  | .bgeu _ _ => true
  | .bgeuLong _ _ _ => true
  | .jalr _ _ => true
  | .jalrLong _ _ _ => true
  | .jal _ _ => true
  | .csrw _ _ _ => true
  | .csrs _ _ _ => true
  | .csrc _ _ _ => true
  | .ecall => true
  | .tret => true
  | .brk _ => true
  | .halt => true
  | .yield => true
  | .glaunch _ _ => true
  | .gexit => true
  | .gbar => true
  | .tlbiVa _ _ => true
  | .tlbiAs _ => true
  | .tlbiAll => true
  | .vaddVv _ _ _ _ _ => true
  | .vaddVx _ _ _ _ _ => true
  | .vsubVv _ _ _ _ _ => true
  | .vsubVx _ _ _ _ _ => true
  | .vmulVv _ _ _ _ _ => true
  | .vmulVx _ _ _ _ _ => true
  | .vminVv _ _ _ _ _ => true
  | .vminVx _ _ _ _ _ => true
  | .vmaxVv _ _ _ _ _ => true
  | .vmaxVx _ _ _ _ _ => true
  | .vandVv _ _ _ _ _ => true
  | .vandVx _ _ _ _ _ => true
  | .vorVv _ _ _ _ _ => true
  | .vorVx _ _ _ _ _ => true
  | .vxorVv _ _ _ _ _ => true
  | .vxorVx _ _ _ _ _ => true
  | .vsllVv _ _ _ _ _ => true
  | .vsllVx _ _ _ _ _ => true
  | .vsrlVv _ _ _ _ _ => true
  | .vsrlVx _ _ _ _ _ => true
  | .vsraVv _ _ _ _ _ => true
  | .vsraVx _ _ _ _ _ => true
  | .vmulhVv _ _ _ _ _ => true
  | .vmulhVx _ _ _ _ _ => true
  | .vsaddVv _ _ _ _ _ => true
  | .vsaddVx _ _ _ _ _ => true
  | .vssubVv _ _ _ _ _ => true
  | .vssubVx _ _ _ _ _ => true
  | .vavgVv _ _ _ _ _ => true
  | .vavgVx _ _ _ _ _ => true
  | .vdivVv _ _ _ _ _ => true
  | .vdivVx _ _ _ _ _ => true
  | .vsplat _ _ _ _ => true
  | .vfma _ _ _ _ _ => true
  | .vfms _ _ _ _ _ => true
  | .vfnma _ _ _ _ _ => true
  | .vsqrt _ _ _ _ _ => true
  | .vrcp _ _ _ _ _ => true
  | .vrsq _ _ _ _ _ => true
  | .vexp _ _ _ _ _ => true
  | .vlog2 _ _ _ _ _ => true
  | .vabs _ _ _ _ _ => true
  | .vneg _ _ _ _ _ => true
  | .vnot _ _ _ _ _ => true
  | .vmov _ _ _ _ _ => true
  | .vcmpEqVv _ _ _ _ _ => true
  | .vcmpNeVv _ _ _ _ _ => true
  | .vcmpLtVv _ _ _ _ _ => true
  | .vcmpLeVv _ _ _ _ _ => true
  | .vcmpGtVv _ _ _ _ _ => true
  | .vcmpGeVv _ _ _ _ _ => true
  | .vcmpEqVx _ _ _ _ _ => true
  | .vcmpNeVx _ _ _ _ _ => true
  | .vcmpLtVx _ _ _ _ _ => true
  | .vcmpLeVx _ _ _ _ _ => true
  | .vcmpGtVx _ _ _ _ _ => true
  | .vcmpGeVx _ _ _ _ _ => true
  | .vwmacVv _ _ _ _ _ => true
  | .vsad _ _ _ _ _ => true
  | .vwmacVx _ _ _ _ _ => true
  | .vnshr _ _ _ _ _ => true
  | .vclip _ _ _ _ _ => true
  | .vredSum _ _ _ _ => true
  | .vredMax _ _ _ _ => true
  | .vredMin _ _ _ _ => true
  | .vredAnd _ _ _ _ => true
  | .vredOr _ _ _ _ => true
  | .vredoSum _ _ _ _ _ => true
  | .vscanAdd _ _ _ _ => true
  | .vscanMax _ _ _ _ => true
  | .vscanMin _ _ _ _ => true
  | .vrgather _ _ _ _ _ => true
  | .vcompress _ _ _ _ => true
  | .vexpand _ _ _ _ => true
  | .vmergeM _ _ _ _ => true
  | .vtrans8 _ _ => true
  | .vid _ _ _ => true
  | .viota _ _ _ _ => true
  | .vslideup _ _ _ _ _ => true
  | .vslidedn _ _ _ _ _ => true
  | .vext _ _ _ _ => true
  | .vins _ _ _ _ => true
  | .mpopc _ _ _ _ => true
  | .mfirst _ _ _ _ => true
  | .vld _ _ _ _ _ _ _ => true
  | .vldLong _ _ _ _ _ _ _ _ => true
  | .vlds _ _ _ _ _ _ _ _ => true
  | .vldsLong _ _ _ _ _ _ _ _ _ => true
  | .vldx _ _ _ _ _ _ _ _ => true
  | .vldxLong _ _ _ _ _ _ _ _ _ => true
  | .vldseg _ _ _ _ _ _ _ _ => true
  | .vldsegLong _ _ _ _ _ _ _ _ _ => true
  | .vst _ _ _ _ _ _ _ => true
  | .vstLong _ _ _ _ _ _ _ _ => true
  | .vsts _ _ _ _ _ _ _ _ => true
  | .vstsLong _ _ _ _ _ _ _ _ _ => true
  | .vstx _ _ _ _ _ _ _ _ => true
  | .vstxLong _ _ _ _ _ _ _ _ _ => true
  | .vstseg _ _ _ _ _ _ _ _ => true
  | .vstsegLong _ _ _ _ _ _ _ _ _ => true
  | .vldc _ _ _ => true
  | .vamoAdd _ _ _ _ _ _ => true
  | .vamoAddLong _ _ _ _ _ _ _ => true
  | .vamoMax _ _ _ _ _ _ => true
  | .vamoMaxLong _ _ _ _ _ _ _ => true
  | .vamoMin _ _ _ _ _ _ => true
  | .vamoMinLong _ _ _ _ _ _ _ => true
  | .vamoSwap _ _ _ _ _ _ => true
  | .vamoSwapLong _ _ _ _ _ _ _ => true
  | .vmcast _ _ _ _ _ => true
  | .vsave _ => true
  | .vrest _ => true
  | .vpop _ _ _ _ => true
  | .vpush _ _ _ _ => true
  | .sbind _ _ => true
  | .sfree _ => true
  | .streamReadAhead _ _ => false
  | .vcfg _ => true
  | .vtag _ _ => true
  | .vwinV _ _ => true
  | .vwinM _ _ => true
  | .vsetl _ _ => true
  | .vloop _ => true
  | .vnext _ => true
  | .vflat _ d => decide (d.toNat % 2 = 0)
  | .vrgn _ _ => true
  | .winset _ _ => true
  | .winclr _ => true
  | .winclrD _ => true
  | .winwait _ => true
  | .winflush _ => true
  | .lcset _ _ _ => true
  | .lcsetLong _ _ _ _ => true
  | .lcadv _ _ _ => true
  | .lcadvLong _ _ _ _ => true
  | .advance => false
  | .lcrd _ _ => true
  | .winq _ _ => true
  | .vldw _ _ _ _ _ _ => true
  | .vstw _ _ _ _ _ _ => true
  | .lineArrival _ _ => false
  | .residencyPrefetch _ _ => false
  | .earlyWriteback _ _ => false
  | .vscmpLt _ _ _ _ _ => true
  | .vscmpLe _ _ _ _ _ => true
  | .vscmpGt _ _ _ _ _ => true
  | .vscmpGe _ _ _ _ _ => true
  | .pandInd _ _ _ _ _ => true
  | .pandPos _ _ _ _ _ => true
  | .pandNeg _ _ _ _ _ => true
  | .porInd _ _ _ _ _ => true
  | .porPos _ _ _ _ _ => true
  | .porNeg _ _ _ _ _ => true
  | .pnot _ _ _ _ _ => true
  | .pblendM _ _ _ _ => true
  | .pcoll _ _ _ _ => true
  | .pthr _ _ _ _ => true
  | .pgrad _ _ _ _ => true
  | .pgradSt _ _ _ _ => true
  | .pbgrad _ _ _ _ _ => true
  | .pmovV _ _ _ _ => true
  | .pmovM _ _ _ _ => true
  | .xpa cv _ pb pa b a _ => (!pa || decide (a.toNat < 32)) && (!pb || decide (b.toNat < 32)) && (!cv || !pa || !pb)
  | .xps cv _ pb pa b a _ => (!pa || decide (a.toNat < 32)) && (!pb || decide (b.toNat < 32)) && (!cv || !pa || !pb)
  | .xpaI cv _ pb pa b a _ => (!pa || decide (a.toNat < 32)) && (!pb || decide (b.toNat < 32)) && (!cv || !pa || !pb)
  | .xpaS _ _ _ _ _ => true
  | .mxon _ => true
  | .matrixAcquire => false
  | .mxoff => true
  | .mzero _ => true
  | .mrdV _ _ _ _ => true
  | .mrdG _ _ _ => true
  | .mwr _ _ _ _ => true
  | .mld _ _ _ => true
  | .mst _ _ _ => true
  | .enq _ _ _ => true
  | .cVadd _ _ => true
  | .cVsub _ _ => true
  | .cVmul _ _ => true
  | .cVfma _ _ => true
  | .cVmin _ _ => true
  | .cVmax _ _ => true
  | .cVand _ _ => true
  | .cVor _ _ => true
  | .cVxor _ _ => true
  | .cVmov _ _ => true
  | .cVabs _ _ => true
  | .cVneg _ _ => true
  | .cVsadd _ _ => true
  | .cVssub _ _ => true
  | .cVavg _ _ => true
  | .pageWalk _ _ => false
  | .copy _ => false
  | .copyt _ => false
  | .fprint _ => false
  | .decode _ => false
  | .decodeWatchdogCut _ _ _ => false
  | .topk _ => false
  | .ring _ => false
  | .srd _ => false
  | .swr _ => false
  | .flcfg _ => false
  | .flcfgEmpty _ => false
  | .flrun _ => false
  | .gangReady _ => false
  | .gangPlace _ => false
  | .nextPreload _ => false
  | .priorityAging _ => false
  | .priorityRise _ => false
  | .budgetOverrun _ => false
  | .hartHalt _ => false
  | .kill _ => false
  | .rerun _ => false
  | .resume _ => false
  | .patrolScrub _ _ => false
  | .errorLogRead _ _ => false
  | .persistentFault _ _ _ _ => false
  | .noiseHealthFailure _ _ => false
  | .hostPostedWrite _ _ => false
  | .hostRead _ _ => false
  | .startSupervisor _ => false
  | .diesChange _ _ => false
  | .partitionBlockWrite _ _ _ => false
  | .powerOn _ => false
  | .bootWatchdog => false
  | .firmwareWrite _ => false
  | .startRequest _ => false
  | .attestation _ => false
  | .clockThrottle _ _ => false
  | .linkFailure _ => false
  | .illegalEncoding _ _ => false
  | .fetchFault _ _ => false
  | .peerAccess _ _ _ _ => false
  | .driveCompletion _ _ _ => false

end Sys2Proof
end

