-- ==== Sys2Proof/Decode.lean ====
section
/-! DEFINITION. The decoder, total on any bytes, and after it the encoder, both written from the encoding tables of the spec (R8-R20 and
each family's table). The decoders are noncomputable only because Lean compiles no constructor numbered above 244; the kernel evaluates them. -/
namespace Sys2Proof

/-- Why bytes are no instruction (R20), in the order of their subcodes; `truncated` when there are fewer bytes than the length needs. -/
inductive Reject where
  | unassignedMaj
  | unassignedFn
  | mustBeZero
  | reservedCompact
  | noLongForm
  | truncated
deriving DecidableEq, Repr

/-- The ILLEGAL subcode of R20 (`truncated` is a fetch matter and has none). -/
def rejectSubcode : Reject → Nat
  | .unassignedMaj => 1
  | .unassignedFn => 2
  | .mustBeZero => 3
  | .reservedCompact => 4
  | .noLongForm => 5
  | .truncated => 0

/-- Splits a word into fields of the given widths, from bit 0 upward. -/
def unpack : List Nat → Nat → List Nat
  | [], _ => []
  | n :: ns, w => w % 2 ^ n :: unpack ns (w / 2 ^ n)

/-- Builds a word from (width, value) fields, from bit 0 upward: the inverse of `unpack`. -/
def pack : List (Nat × Nat) → Nat
  | [] => 0
  | (n, v) :: r => v % 2 ^ n + 2 ^ n * pack r

/-- Rejects with `e` unless `c` holds. -/
def need (c : Prop) [Decidable c] (e : Reject) (k : Except Reject Instr) : Except Reject Instr :=
  if c then k else .error e

/-- An instruction that defines no 64-bit form (R15). -/
noncomputable def noLong (long : Bool) (i : Instr) : Except Reject Instr :=
  if long then .error .noLongForm else .ok i

/-- Field widths of the SR layout, from bit 0: lo 2, maj 6, d 5, a 5, b 5, fn 9. -/
def laySR : List Nat := [2, 6, 5, 5, 5, 9]
/-- Field widths of the SI layout, from bit 0: lo 2, maj 6, d 5, a 5, imm 14. -/
def laySI : List Nat := [2, 6, 5, 5, 14]
/-- Field widths of the SH layout, from bit 0: lo 2, maj 6, d 5, a 5, sh 6, z 6, sop 2. -/
def laySH : List Nat := [2, 6, 5, 5, 6, 6, 2]
/-- Field widths of the SB layout, from bit 0: lo 2, maj 6, a 5, cond 5, off 14. -/
def laySB : List Nat := [2, 6, 5, 5, 14]
/-- Field widths of the SJ layout, from bit 0: lo 2, maj 6, d 5, off 19. -/
def laySJ : List Nat := [2, 6, 5, 19]
/-- Field widths of the LS layout, from bit 0: lo 2, maj 6, d 5, a 5, szop 4, imm 10. -/
def layLS : List Nat := [2, 6, 5, 5, 4, 10]
/-- Field widths of the AR layout, from bit 0: lo 2, maj 6, d 5, a 5, b 5, sc 3, z 2, sz 3, kind 1. -/
def layAR : List Nat := [2, 6, 5, 5, 5, 3, 2, 3, 1]
/-- Field widths of the AM layout, from bit 0: lo 2, maj 6, d 5, a 5, b 5, sc 3, od 2, op 4. -/
def layAM : List Nat := [2, 6, 5, 5, 5, 3, 2, 4]
/-- Field widths of the FN layout, from bit 0: lo 2, maj 6, d 5, a 5, b 5, z 3, sc 3, op 3. -/
def layFN : List Nat := [2, 6, 5, 5, 5, 3, 3, 3]
/-- Field widths of the FX layout, from bit 0: lo 2, maj 6, z1 1, before 7, after 7, z 3, sc 3, op 3. -/
def layFX : List Nat := [2, 6, 1, 7, 7, 3, 3, 3]
/-- Field widths of the CS layout, from bit 0: lo 2, maj 6, d 5, a 5, csr 12, grp 2. -/
def layCS : List Nat := [2, 6, 5, 5, 12, 2]
/-- Field widths of the SY layout, from bit 0: lo 2, maj 6, d 5, a 5, b 5, sys 7, grp 2. -/
def laySY : List Nat := [2, 6, 5, 5, 5, 7, 2]
/-- Field widths of the VV layout, from bit 0: lo 2, maj 6, d 6, a 6, b 6, fn 4, mk 1, cv 1. -/
def layVV : List Nat := [2, 6, 6, 6, 6, 4, 1, 1]
/-- Field widths of the VX layout, from bit 0: lo 2, maj 6, d 6, a 6, g 5, fn 5, mk 1, cv 1. -/
def layVX : List Nat := [2, 6, 6, 6, 5, 5, 1, 1]
/-- Field widths of the VN layout, from bit 0: lo 2, maj 6, off 17, fn 5, mk 1, cv 1. -/
def layVN : List Nat := [2, 6, 17, 5, 1, 1]
/-- Field widths of the VM layout, from bit 0: lo 2, maj 6, d 6, a 6, g 5, a8 1, fm 1, ord 1, kind 2, mk 1, cv 1. -/
def layVM : List Nat := [2, 6, 6, 6, 5, 1, 1, 1, 2, 1, 1]
/-- Field widths of the XP layout, from bit 0: lo 2, maj 6, d 6, a 6, b 6, op 2, pa 1, pb 1, mk 1, cv 1. -/
def layXP : List Nat := [2, 6, 6, 6, 6, 2, 1, 1, 1, 1]

/-- MAJ 0x00. -/
noncomputable def decodeMaj00 (w _hi : Nat) (long : Bool) : Except Reject Instr :=
  match unpack laySR w with
  | [_, _, d, a, b, fn] =>
    match fn with
    | 0 => noLong long (.add (BitVec.ofNat 5 b) (BitVec.ofNat 5 a) (BitVec.ofNat 5 d))
    | 1 => noLong long (.sub (BitVec.ofNat 5 b) (BitVec.ofNat 5 a) (BitVec.ofNat 5 d))
    | 2 => noLong long (.and (BitVec.ofNat 5 b) (BitVec.ofNat 5 a) (BitVec.ofNat 5 d))
    | 3 => noLong long (.or (BitVec.ofNat 5 b) (BitVec.ofNat 5 a) (BitVec.ofNat 5 d))
    | 4 => noLong long (.xor (BitVec.ofNat 5 b) (BitVec.ofNat 5 a) (BitVec.ofNat 5 d))
    | 5 => noLong long (.sll (BitVec.ofNat 5 b) (BitVec.ofNat 5 a) (BitVec.ofNat 5 d))
    | 6 => noLong long (.srl (BitVec.ofNat 5 b) (BitVec.ofNat 5 a) (BitVec.ofNat 5 d))
    | 7 => noLong long (.sra (BitVec.ofNat 5 b) (BitVec.ofNat 5 a) (BitVec.ofNat 5 d))
    | 8 => noLong long (.slt (BitVec.ofNat 5 b) (BitVec.ofNat 5 a) (BitVec.ofNat 5 d))
    | 9 => noLong long (.sltu (BitVec.ofNat 5 b) (BitVec.ofNat 5 a) (BitVec.ofNat 5 d))
    | 10 => noLong long (.min (BitVec.ofNat 5 b) (BitVec.ofNat 5 a) (BitVec.ofNat 5 d))
    | 11 => noLong long (.max (BitVec.ofNat 5 b) (BitVec.ofNat 5 a) (BitVec.ofNat 5 d))
    | 12 => noLong long (.minu (BitVec.ofNat 5 b) (BitVec.ofNat 5 a) (BitVec.ofNat 5 d))
    | 13 => noLong long (.maxu (BitVec.ofNat 5 b) (BitVec.ofNat 5 a) (BitVec.ofNat 5 d))
    | 16 => noLong long (.mul (BitVec.ofNat 5 b) (BitVec.ofNat 5 a) (BitVec.ofNat 5 d))
    | 17 => noLong long (.mulh (BitVec.ofNat 5 b) (BitVec.ofNat 5 a) (BitVec.ofNat 5 d))
    | 18 => noLong long (.mulhu (BitVec.ofNat 5 b) (BitVec.ofNat 5 a) (BitVec.ofNat 5 d))
    | 20 => noLong long (.div (BitVec.ofNat 5 b) (BitVec.ofNat 5 a) (BitVec.ofNat 5 d))
    | 21 => noLong long (.divu (BitVec.ofNat 5 b) (BitVec.ofNat 5 a) (BitVec.ofNat 5 d))
    | 22 => noLong long (.rem (BitVec.ofNat 5 b) (BitVec.ofNat 5 a) (BitVec.ofNat 5 d))
    | 23 => noLong long (.remu (BitVec.ofNat 5 b) (BitVec.ofNat 5 a) (BitVec.ofNat 5 d))
    | 32 => need (b = 0) .mustBeZero (noLong long (.clz (BitVec.ofNat 5 a) (BitVec.ofNat 5 d)))
    | 33 => need (b = 0) .mustBeZero (noLong long (.ctz (BitVec.ofNat 5 a) (BitVec.ofNat 5 d)))
    | 34 => need (b = 0) .mustBeZero (noLong long (.popc (BitVec.ofNat 5 a) (BitVec.ofNat 5 d)))
    | _ => .error .unassignedFn
  | _ => .error .unassignedMaj

/-- MAJ 0x01. -/
noncomputable def decodeMaj01 (w hi : Nat) (long : Bool) : Except Reject Instr :=
  match unpack laySI w with
  | [_, _, d, a, imm] =>
    if long then need (imm = 0) .mustBeZero (.ok (.addiLong (BitVec.ofNat 5 a) (BitVec.ofNat 5 d) (BitVec.ofNat 32 hi))) else .ok (.addi (BitVec.ofNat 14 imm) (BitVec.ofNat 5 a) (BitVec.ofNat 5 d))
  | _ => .error .unassignedMaj

/-- MAJ 0x02. -/
noncomputable def decodeMaj02 (w hi : Nat) (long : Bool) : Except Reject Instr :=
  match unpack laySI w with
  | [_, _, d, a, imm] =>
    if long then need (imm = 0) .mustBeZero (.ok (.andiLong (BitVec.ofNat 5 a) (BitVec.ofNat 5 d) (BitVec.ofNat 32 hi))) else .ok (.andi (BitVec.ofNat 14 imm) (BitVec.ofNat 5 a) (BitVec.ofNat 5 d))
  | _ => .error .unassignedMaj

/-- MAJ 0x03. -/
noncomputable def decodeMaj03 (w hi : Nat) (long : Bool) : Except Reject Instr :=
  match unpack laySI w with
  | [_, _, d, a, imm] =>
    if long then need (imm = 0) .mustBeZero (.ok (.oriLong (BitVec.ofNat 5 a) (BitVec.ofNat 5 d) (BitVec.ofNat 32 hi))) else .ok (.ori (BitVec.ofNat 14 imm) (BitVec.ofNat 5 a) (BitVec.ofNat 5 d))
  | _ => .error .unassignedMaj

/-- MAJ 0x04. -/
noncomputable def decodeMaj04 (w hi : Nat) (long : Bool) : Except Reject Instr :=
  match unpack laySI w with
  | [_, _, d, a, imm] =>
    if long then need (imm = 0) .mustBeZero (.ok (.xoriLong (BitVec.ofNat 5 a) (BitVec.ofNat 5 d) (BitVec.ofNat 32 hi))) else .ok (.xori (BitVec.ofNat 14 imm) (BitVec.ofNat 5 a) (BitVec.ofNat 5 d))
  | _ => .error .unassignedMaj

/-- MAJ 0x05. -/
noncomputable def decodeMaj05 (w hi : Nat) (long : Bool) : Except Reject Instr :=
  match unpack laySI w with
  | [_, _, d, a, imm] =>
    if long then need (imm = 0) .mustBeZero (.ok (.sltiLong (BitVec.ofNat 5 a) (BitVec.ofNat 5 d) (BitVec.ofNat 32 hi))) else .ok (.slti (BitVec.ofNat 14 imm) (BitVec.ofNat 5 a) (BitVec.ofNat 5 d))
  | _ => .error .unassignedMaj

/-- MAJ 0x06. -/
noncomputable def decodeMaj06 (w _hi : Nat) (long : Bool) : Except Reject Instr :=
  match unpack laySH w with
  | [_, _, d, a, sh, z, sop] =>
    match sop with
    | 0 => need (z = 0) .mustBeZero (noLong long (.slli (BitVec.ofNat 6 sh) (BitVec.ofNat 5 a) (BitVec.ofNat 5 d)))
    | 1 => need (z = 0) .mustBeZero (noLong long (.srli (BitVec.ofNat 6 sh) (BitVec.ofNat 5 a) (BitVec.ofNat 5 d)))
    | 2 => need (z = 0) .mustBeZero (noLong long (.srai (BitVec.ofNat 6 sh) (BitVec.ofNat 5 a) (BitVec.ofNat 5 d)))
    | _ => .error .unassignedFn
  | _ => .error .unassignedMaj

/-- MAJ 0x07. -/
noncomputable def decodeMaj07 (w hi : Nat) (long : Bool) : Except Reject Instr :=
  match unpack laySI w with
  | [_, _, d, a, imm] =>
    if long then need (a = 0) .mustBeZero (need (imm = 0) .mustBeZero (.ok (.lihLong (BitVec.ofNat 5 d) (BitVec.ofNat 32 hi)))) else need (a = 0) .mustBeZero (.ok (.lih (BitVec.ofNat 14 imm) (BitVec.ofNat 5 d)))
  | _ => .error .unassignedMaj

/-- MAJ 0x08. -/
noncomputable def decodeMaj08 (w hi : Nat) (long : Bool) : Except Reject Instr :=
  match unpack laySI w with
  | [_, _, d, a, imm] =>
    if long then need (imm = 0) .mustBeZero (.ok (.liwLong (BitVec.ofNat 5 a) (BitVec.ofNat 5 d) (BitVec.ofNat 32 hi))) else .ok (.liw (BitVec.ofNat 14 imm) (BitVec.ofNat 5 a) (BitVec.ofNat 5 d))
  | _ => .error .unassignedMaj

/-- MAJ 0x0C. -/
noncomputable def decodeMaj0C (w hi : Nat) (long : Bool) : Except Reject Instr :=
  match unpack layLS w with
  | [_, _, d, a, szop, imm] =>
    match szop with
    | 0 => if long then need (imm = 0) .mustBeZero (.ok (.ldBLong (BitVec.ofNat 5 a) (BitVec.ofNat 5 d) (BitVec.ofNat 32 hi))) else .ok (.ldB (BitVec.ofNat 10 imm) (BitVec.ofNat 5 a) (BitVec.ofNat 5 d))
    | 1 => if long then need (imm = 0) .mustBeZero (.ok (.ldBuLong (BitVec.ofNat 5 a) (BitVec.ofNat 5 d) (BitVec.ofNat 32 hi))) else .ok (.ldBu (BitVec.ofNat 10 imm) (BitVec.ofNat 5 a) (BitVec.ofNat 5 d))
    | 2 => if long then need (imm = 0) .mustBeZero (.ok (.ldHLong (BitVec.ofNat 5 a) (BitVec.ofNat 5 d) (BitVec.ofNat 32 hi))) else .ok (.ldH (BitVec.ofNat 10 imm) (BitVec.ofNat 5 a) (BitVec.ofNat 5 d))
    | 3 => if long then need (imm = 0) .mustBeZero (.ok (.ldHuLong (BitVec.ofNat 5 a) (BitVec.ofNat 5 d) (BitVec.ofNat 32 hi))) else .ok (.ldHu (BitVec.ofNat 10 imm) (BitVec.ofNat 5 a) (BitVec.ofNat 5 d))
    | 4 => if long then need (imm = 0) .mustBeZero (.ok (.ldWLong (BitVec.ofNat 5 a) (BitVec.ofNat 5 d) (BitVec.ofNat 32 hi))) else .ok (.ldW (BitVec.ofNat 10 imm) (BitVec.ofNat 5 a) (BitVec.ofNat 5 d))
    | 5 => if long then need (imm = 0) .mustBeZero (.ok (.ldWuLong (BitVec.ofNat 5 a) (BitVec.ofNat 5 d) (BitVec.ofNat 32 hi))) else .ok (.ldWu (BitVec.ofNat 10 imm) (BitVec.ofNat 5 a) (BitVec.ofNat 5 d))
    | 6 => if long then need (imm = 0) .mustBeZero (.ok (.ldDLong (BitVec.ofNat 5 a) (BitVec.ofNat 5 d) (BitVec.ofNat 32 hi))) else .ok (.ldD (BitVec.ofNat 10 imm) (BitVec.ofNat 5 a) (BitVec.ofNat 5 d))
    | 7 => if long then need (imm = 0) .mustBeZero (.ok (.ldDA8Long (BitVec.ofNat 5 a) (BitVec.ofNat 5 d) (BitVec.ofNat 32 hi))) else .ok (.ldDA8 (BitVec.ofNat 10 imm) (BitVec.ofNat 5 a) (BitVec.ofNat 5 d))
    | 8 => if long then need (imm = 0) .mustBeZero (.ok (.stBLong (BitVec.ofNat 5 a) (BitVec.ofNat 5 d) (BitVec.ofNat 32 hi))) else .ok (.stB (BitVec.ofNat 10 imm) (BitVec.ofNat 5 a) (BitVec.ofNat 5 d))
    | 9 => if long then need (imm = 0) .mustBeZero (.ok (.stHLong (BitVec.ofNat 5 a) (BitVec.ofNat 5 d) (BitVec.ofNat 32 hi))) else .ok (.stH (BitVec.ofNat 10 imm) (BitVec.ofNat 5 a) (BitVec.ofNat 5 d))
    | 10 => if long then need (imm = 0) .mustBeZero (.ok (.stWLong (BitVec.ofNat 5 a) (BitVec.ofNat 5 d) (BitVec.ofNat 32 hi))) else .ok (.stW (BitVec.ofNat 10 imm) (BitVec.ofNat 5 a) (BitVec.ofNat 5 d))
    | 11 => if long then need (imm = 0) .mustBeZero (.ok (.stDLong (BitVec.ofNat 5 a) (BitVec.ofNat 5 d) (BitVec.ofNat 32 hi))) else .ok (.stD (BitVec.ofNat 10 imm) (BitVec.ofNat 5 a) (BitVec.ofNat 5 d))
    | 12 => if long then need (imm = 0) .mustBeZero (.ok (.stDA8Long (BitVec.ofNat 5 a) (BitVec.ofNat 5 d) (BitVec.ofNat 32 hi))) else .ok (.stDA8 (BitVec.ofNat 10 imm) (BitVec.ofNat 5 a) (BitVec.ofNat 5 d))
    | 13 => if long then need (imm = 0) .mustBeZero (need (d % 2 = 0) .mustBeZero (.ok (.ldQA16Long (BitVec.ofNat 5 a) (BitVec.ofNat 5 d) (BitVec.ofNat 32 hi)))) else need (d % 2 = 0) .mustBeZero (.ok (.ldQA16 (BitVec.ofNat 10 imm) (BitVec.ofNat 5 a) (BitVec.ofNat 5 d)))
    | 14 => if long then need (imm = 0) .mustBeZero (need (d % 2 = 0) .mustBeZero (.ok (.stQA16Long (BitVec.ofNat 5 a) (BitVec.ofNat 5 d) (BitVec.ofNat 32 hi)))) else need (d % 2 = 0) .mustBeZero (.ok (.stQA16 (BitVec.ofNat 10 imm) (BitVec.ofNat 5 a) (BitVec.ofNat 5 d)))
    | _ => .error .unassignedFn
  | _ => .error .unassignedMaj

/-- MAJ 0x0D. -/
noncomputable def decodeMaj0D (w hi : Nat) (long : Bool) : Except Reject Instr :=
  match unpack layAR w with
  | [_, _, d, a, b, sc, z, sz, kind] =>
    match kind with
    | 0 => if long then need (sz ≤ 4) .unassignedFn (need (sc ≤ 4) .unassignedFn (need (z = 0) .mustBeZero (need (b = 0) .mustBeZero (need (sz ≠ 4 ∨ d % 2 = 0) .mustBeZero (.ok (.ldALong (BitVec.ofNat 3 sz) (BitVec.ofNat 3 sc) (BitVec.ofNat 5 a) (BitVec.ofNat 5 d) (BitVec.ofNat 32 hi))))))) else need (sz ≤ 4) .unassignedFn (need (sc ≤ 4) .unassignedFn (need (z = 0) .mustBeZero (need (b = 0) .mustBeZero (need (sz ≠ 4 ∨ d % 2 = 0) .mustBeZero (.ok (.ldA (BitVec.ofNat 3 sz) (BitVec.ofNat 3 sc) (BitVec.ofNat 5 a) (BitVec.ofNat 5 d)))))))
    | 1 => if long then need (sz ≤ 4) .unassignedFn (need (sc ≤ 4) .unassignedFn (need (z = 0) .mustBeZero (need (b = 0) .mustBeZero (need (sz ≠ 4 ∨ d % 2 = 0) .mustBeZero (.ok (.stRLong (BitVec.ofNat 3 sz) (BitVec.ofNat 3 sc) (BitVec.ofNat 5 a) (BitVec.ofNat 5 d) (BitVec.ofNat 32 hi))))))) else need (sz ≤ 4) .unassignedFn (need (sc ≤ 4) .unassignedFn (need (z = 0) .mustBeZero (need (b = 0) .mustBeZero (need (sz ≠ 4 ∨ d % 2 = 0) .mustBeZero (.ok (.stR (BitVec.ofNat 3 sz) (BitVec.ofNat 3 sc) (BitVec.ofNat 5 a) (BitVec.ofNat 5 d)))))))
    | _ => .error .unassignedFn
  | _ => .error .unassignedMaj

/-- MAJ 0x0E. (DEDUCED, log 17.) -/
noncomputable def decodeMaj0E (w hi : Nat) (long : Bool) : Except Reject Instr :=
  match unpack layAM w with
  | [_, _, d, a, b, sc, od, op] =>
    match op with
    | 0 => if long then need (sc ≤ 4) .unassignedFn (need (od ≠ 0 ∨ sc = 0) .mustBeZero (.ok (.amoAddLong (BitVec.ofNat 2 od) (BitVec.ofNat 3 sc) (BitVec.ofNat 5 b) (BitVec.ofNat 5 a) (BitVec.ofNat 5 d) false (BitVec.ofNat 32 hi)))) else need (sc ≤ 4) .unassignedFn (need (od ≠ 0 ∨ sc = 0) .mustBeZero (.ok (.amoAdd (BitVec.ofNat 2 od) (BitVec.ofNat 3 sc) (BitVec.ofNat 5 b) (BitVec.ofNat 5 a) (BitVec.ofNat 5 d) false)))
    | 1 => if long then need (sc ≤ 4) .unassignedFn (need (od ≠ 0 ∨ sc = 0) .mustBeZero (.ok (.amoAndLong (BitVec.ofNat 2 od) (BitVec.ofNat 3 sc) (BitVec.ofNat 5 b) (BitVec.ofNat 5 a) (BitVec.ofNat 5 d) false (BitVec.ofNat 32 hi)))) else need (sc ≤ 4) .unassignedFn (need (od ≠ 0 ∨ sc = 0) .mustBeZero (.ok (.amoAnd (BitVec.ofNat 2 od) (BitVec.ofNat 3 sc) (BitVec.ofNat 5 b) (BitVec.ofNat 5 a) (BitVec.ofNat 5 d) false)))
    | 2 => if long then need (sc ≤ 4) .unassignedFn (need (od ≠ 0 ∨ sc = 0) .mustBeZero (.ok (.amoOrLong (BitVec.ofNat 2 od) (BitVec.ofNat 3 sc) (BitVec.ofNat 5 b) (BitVec.ofNat 5 a) (BitVec.ofNat 5 d) false (BitVec.ofNat 32 hi)))) else need (sc ≤ 4) .unassignedFn (need (od ≠ 0 ∨ sc = 0) .mustBeZero (.ok (.amoOr (BitVec.ofNat 2 od) (BitVec.ofNat 3 sc) (BitVec.ofNat 5 b) (BitVec.ofNat 5 a) (BitVec.ofNat 5 d) false)))
    | 3 => if long then need (sc ≤ 4) .unassignedFn (need (od ≠ 0 ∨ sc = 0) .mustBeZero (.ok (.amoXorLong (BitVec.ofNat 2 od) (BitVec.ofNat 3 sc) (BitVec.ofNat 5 b) (BitVec.ofNat 5 a) (BitVec.ofNat 5 d) false (BitVec.ofNat 32 hi)))) else need (sc ≤ 4) .unassignedFn (need (od ≠ 0 ∨ sc = 0) .mustBeZero (.ok (.amoXor (BitVec.ofNat 2 od) (BitVec.ofNat 3 sc) (BitVec.ofNat 5 b) (BitVec.ofNat 5 a) (BitVec.ofNat 5 d) false)))
    | 4 => if long then need (sc ≤ 4) .unassignedFn (need (od ≠ 0 ∨ sc = 0) .mustBeZero (.ok (.amoMinLong (BitVec.ofNat 2 od) (BitVec.ofNat 3 sc) (BitVec.ofNat 5 b) (BitVec.ofNat 5 a) (BitVec.ofNat 5 d) false (BitVec.ofNat 32 hi)))) else need (sc ≤ 4) .unassignedFn (need (od ≠ 0 ∨ sc = 0) .mustBeZero (.ok (.amoMin (BitVec.ofNat 2 od) (BitVec.ofNat 3 sc) (BitVec.ofNat 5 b) (BitVec.ofNat 5 a) (BitVec.ofNat 5 d) false)))
    | 5 => if long then need (sc ≤ 4) .unassignedFn (need (od ≠ 0 ∨ sc = 0) .mustBeZero (.ok (.amoMaxLong (BitVec.ofNat 2 od) (BitVec.ofNat 3 sc) (BitVec.ofNat 5 b) (BitVec.ofNat 5 a) (BitVec.ofNat 5 d) false (BitVec.ofNat 32 hi)))) else need (sc ≤ 4) .unassignedFn (need (od ≠ 0 ∨ sc = 0) .mustBeZero (.ok (.amoMax (BitVec.ofNat 2 od) (BitVec.ofNat 3 sc) (BitVec.ofNat 5 b) (BitVec.ofNat 5 a) (BitVec.ofNat 5 d) false)))
    | 6 => if long then need (sc ≤ 4) .unassignedFn (need (od ≠ 0 ∨ sc = 0) .mustBeZero (.ok (.amoMinuLong (BitVec.ofNat 2 od) (BitVec.ofNat 3 sc) (BitVec.ofNat 5 b) (BitVec.ofNat 5 a) (BitVec.ofNat 5 d) false (BitVec.ofNat 32 hi)))) else need (sc ≤ 4) .unassignedFn (need (od ≠ 0 ∨ sc = 0) .mustBeZero (.ok (.amoMinu (BitVec.ofNat 2 od) (BitVec.ofNat 3 sc) (BitVec.ofNat 5 b) (BitVec.ofNat 5 a) (BitVec.ofNat 5 d) false)))
    | 7 => if long then need (sc ≤ 4) .unassignedFn (need (od ≠ 0 ∨ sc = 0) .mustBeZero (.ok (.amoMaxuLong (BitVec.ofNat 2 od) (BitVec.ofNat 3 sc) (BitVec.ofNat 5 b) (BitVec.ofNat 5 a) (BitVec.ofNat 5 d) false (BitVec.ofNat 32 hi)))) else need (sc ≤ 4) .unassignedFn (need (od ≠ 0 ∨ sc = 0) .mustBeZero (.ok (.amoMaxu (BitVec.ofNat 2 od) (BitVec.ofNat 3 sc) (BitVec.ofNat 5 b) (BitVec.ofNat 5 a) (BitVec.ofNat 5 d) false)))
    | 8 => if long then need (sc ≤ 4) .unassignedFn (need (od ≠ 0 ∨ sc = 0) .mustBeZero (.ok (.amoSwapLong (BitVec.ofNat 2 od) (BitVec.ofNat 3 sc) (BitVec.ofNat 5 b) (BitVec.ofNat 5 a) (BitVec.ofNat 5 d) false (BitVec.ofNat 32 hi)))) else need (sc ≤ 4) .unassignedFn (need (od ≠ 0 ∨ sc = 0) .mustBeZero (.ok (.amoSwap (BitVec.ofNat 2 od) (BitVec.ofNat 3 sc) (BitVec.ofNat 5 b) (BitVec.ofNat 5 a) (BitVec.ofNat 5 d) false)))
    | 9 => if long then need (sc ≤ 4) .unassignedFn (need (od ≠ 0 ∨ sc = 0) .mustBeZero (.ok (.amoCasLong (BitVec.ofNat 2 od) (BitVec.ofNat 3 sc) (BitVec.ofNat 5 b) (BitVec.ofNat 5 a) (BitVec.ofNat 5 d) false (BitVec.ofNat 32 hi)))) else need (sc ≤ 4) .unassignedFn (need (od ≠ 0 ∨ sc = 0) .mustBeZero (.ok (.amoCas (BitVec.ofNat 2 od) (BitVec.ofNat 3 sc) (BitVec.ofNat 5 b) (BitVec.ofNat 5 a) (BitVec.ofNat 5 d) false)))
    | _ => .error .unassignedFn
  | _ => .error .unassignedMaj

/-- MAJ 0x0F. (DEDUCED, log 17.) -/
noncomputable def decodeMaj0F (w hi : Nat) (long : Bool) : Except Reject Instr :=
  match unpack layAM w with
  | [_, _, d, a, b, sc, od, op] =>
    match op with
    | 0 => if long then need (sc ≤ 4) .unassignedFn (need (od ≠ 0 ∨ sc = 0) .mustBeZero (.ok (.amoAddLong (BitVec.ofNat 2 od) (BitVec.ofNat 3 sc) (BitVec.ofNat 5 b) (BitVec.ofNat 5 a) (BitVec.ofNat 5 d) true (BitVec.ofNat 32 hi)))) else need (sc ≤ 4) .unassignedFn (need (od ≠ 0 ∨ sc = 0) .mustBeZero (.ok (.amoAdd (BitVec.ofNat 2 od) (BitVec.ofNat 3 sc) (BitVec.ofNat 5 b) (BitVec.ofNat 5 a) (BitVec.ofNat 5 d) true)))
    | 1 => if long then need (sc ≤ 4) .unassignedFn (need (od ≠ 0 ∨ sc = 0) .mustBeZero (.ok (.amoAndLong (BitVec.ofNat 2 od) (BitVec.ofNat 3 sc) (BitVec.ofNat 5 b) (BitVec.ofNat 5 a) (BitVec.ofNat 5 d) true (BitVec.ofNat 32 hi)))) else need (sc ≤ 4) .unassignedFn (need (od ≠ 0 ∨ sc = 0) .mustBeZero (.ok (.amoAnd (BitVec.ofNat 2 od) (BitVec.ofNat 3 sc) (BitVec.ofNat 5 b) (BitVec.ofNat 5 a) (BitVec.ofNat 5 d) true)))
    | 2 => if long then need (sc ≤ 4) .unassignedFn (need (od ≠ 0 ∨ sc = 0) .mustBeZero (.ok (.amoOrLong (BitVec.ofNat 2 od) (BitVec.ofNat 3 sc) (BitVec.ofNat 5 b) (BitVec.ofNat 5 a) (BitVec.ofNat 5 d) true (BitVec.ofNat 32 hi)))) else need (sc ≤ 4) .unassignedFn (need (od ≠ 0 ∨ sc = 0) .mustBeZero (.ok (.amoOr (BitVec.ofNat 2 od) (BitVec.ofNat 3 sc) (BitVec.ofNat 5 b) (BitVec.ofNat 5 a) (BitVec.ofNat 5 d) true)))
    | 3 => if long then need (sc ≤ 4) .unassignedFn (need (od ≠ 0 ∨ sc = 0) .mustBeZero (.ok (.amoXorLong (BitVec.ofNat 2 od) (BitVec.ofNat 3 sc) (BitVec.ofNat 5 b) (BitVec.ofNat 5 a) (BitVec.ofNat 5 d) true (BitVec.ofNat 32 hi)))) else need (sc ≤ 4) .unassignedFn (need (od ≠ 0 ∨ sc = 0) .mustBeZero (.ok (.amoXor (BitVec.ofNat 2 od) (BitVec.ofNat 3 sc) (BitVec.ofNat 5 b) (BitVec.ofNat 5 a) (BitVec.ofNat 5 d) true)))
    | 4 => if long then need (sc ≤ 4) .unassignedFn (need (od ≠ 0 ∨ sc = 0) .mustBeZero (.ok (.amoMinLong (BitVec.ofNat 2 od) (BitVec.ofNat 3 sc) (BitVec.ofNat 5 b) (BitVec.ofNat 5 a) (BitVec.ofNat 5 d) true (BitVec.ofNat 32 hi)))) else need (sc ≤ 4) .unassignedFn (need (od ≠ 0 ∨ sc = 0) .mustBeZero (.ok (.amoMin (BitVec.ofNat 2 od) (BitVec.ofNat 3 sc) (BitVec.ofNat 5 b) (BitVec.ofNat 5 a) (BitVec.ofNat 5 d) true)))
    | 5 => if long then need (sc ≤ 4) .unassignedFn (need (od ≠ 0 ∨ sc = 0) .mustBeZero (.ok (.amoMaxLong (BitVec.ofNat 2 od) (BitVec.ofNat 3 sc) (BitVec.ofNat 5 b) (BitVec.ofNat 5 a) (BitVec.ofNat 5 d) true (BitVec.ofNat 32 hi)))) else need (sc ≤ 4) .unassignedFn (need (od ≠ 0 ∨ sc = 0) .mustBeZero (.ok (.amoMax (BitVec.ofNat 2 od) (BitVec.ofNat 3 sc) (BitVec.ofNat 5 b) (BitVec.ofNat 5 a) (BitVec.ofNat 5 d) true)))
    | 6 => if long then need (sc ≤ 4) .unassignedFn (need (od ≠ 0 ∨ sc = 0) .mustBeZero (.ok (.amoMinuLong (BitVec.ofNat 2 od) (BitVec.ofNat 3 sc) (BitVec.ofNat 5 b) (BitVec.ofNat 5 a) (BitVec.ofNat 5 d) true (BitVec.ofNat 32 hi)))) else need (sc ≤ 4) .unassignedFn (need (od ≠ 0 ∨ sc = 0) .mustBeZero (.ok (.amoMinu (BitVec.ofNat 2 od) (BitVec.ofNat 3 sc) (BitVec.ofNat 5 b) (BitVec.ofNat 5 a) (BitVec.ofNat 5 d) true)))
    | 7 => if long then need (sc ≤ 4) .unassignedFn (need (od ≠ 0 ∨ sc = 0) .mustBeZero (.ok (.amoMaxuLong (BitVec.ofNat 2 od) (BitVec.ofNat 3 sc) (BitVec.ofNat 5 b) (BitVec.ofNat 5 a) (BitVec.ofNat 5 d) true (BitVec.ofNat 32 hi)))) else need (sc ≤ 4) .unassignedFn (need (od ≠ 0 ∨ sc = 0) .mustBeZero (.ok (.amoMaxu (BitVec.ofNat 2 od) (BitVec.ofNat 3 sc) (BitVec.ofNat 5 b) (BitVec.ofNat 5 a) (BitVec.ofNat 5 d) true)))
    | 8 => if long then need (sc ≤ 4) .unassignedFn (need (od ≠ 0 ∨ sc = 0) .mustBeZero (.ok (.amoSwapLong (BitVec.ofNat 2 od) (BitVec.ofNat 3 sc) (BitVec.ofNat 5 b) (BitVec.ofNat 5 a) (BitVec.ofNat 5 d) true (BitVec.ofNat 32 hi)))) else need (sc ≤ 4) .unassignedFn (need (od ≠ 0 ∨ sc = 0) .mustBeZero (.ok (.amoSwap (BitVec.ofNat 2 od) (BitVec.ofNat 3 sc) (BitVec.ofNat 5 b) (BitVec.ofNat 5 a) (BitVec.ofNat 5 d) true)))
    | 9 => if long then need (sc ≤ 4) .unassignedFn (need (od ≠ 0 ∨ sc = 0) .mustBeZero (.ok (.amoCasLong (BitVec.ofNat 2 od) (BitVec.ofNat 3 sc) (BitVec.ofNat 5 b) (BitVec.ofNat 5 a) (BitVec.ofNat 5 d) true (BitVec.ofNat 32 hi)))) else need (sc ≤ 4) .unassignedFn (need (od ≠ 0 ∨ sc = 0) .mustBeZero (.ok (.amoCas (BitVec.ofNat 2 od) (BitVec.ofNat 3 sc) (BitVec.ofNat 5 b) (BitVec.ofNat 5 a) (BitVec.ofNat 5 d) true)))
    | 10 => if long then need (sc ≤ 4) .unassignedFn (need (od ≠ 0 ∨ sc = 0) .mustBeZero (need (d % 2 = 0) .mustBeZero (need (b % 2 = 0) .mustBeZero (.ok (.amoSwapA16Long (BitVec.ofNat 2 od) (BitVec.ofNat 3 sc) (BitVec.ofNat 5 b) (BitVec.ofNat 5 a) (BitVec.ofNat 5 d) (BitVec.ofNat 32 hi)))))) else need (sc ≤ 4) .unassignedFn (need (od ≠ 0 ∨ sc = 0) .mustBeZero (need (d % 2 = 0) .mustBeZero (need (b % 2 = 0) .mustBeZero (.ok (.amoSwapA16 (BitVec.ofNat 2 od) (BitVec.ofNat 3 sc) (BitVec.ofNat 5 b) (BitVec.ofNat 5 a) (BitVec.ofNat 5 d))))))
    | 11 => if long then need (sc ≤ 4) .unassignedFn (need (od ≠ 0 ∨ sc = 0) .mustBeZero (need (d % 2 = 0) .mustBeZero (need (b % 2 = 0) .mustBeZero (.ok (.amoCasA16Long (BitVec.ofNat 2 od) (BitVec.ofNat 3 sc) (BitVec.ofNat 5 b) (BitVec.ofNat 5 a) (BitVec.ofNat 5 d) (BitVec.ofNat 32 hi)))))) else need (sc ≤ 4) .unassignedFn (need (od ≠ 0 ∨ sc = 0) .mustBeZero (need (d % 2 = 0) .mustBeZero (need (b % 2 = 0) .mustBeZero (.ok (.amoCasA16 (BitVec.ofNat 2 od) (BitVec.ofNat 3 sc) (BitVec.ofNat 5 b) (BitVec.ofNat 5 a) (BitVec.ofNat 5 d))))))
    | _ => .error .unassignedFn
  | _ => .error .unassignedMaj

/-- MAJ 0x10. -/
noncomputable def decodeMaj10 (w hi : Nat) (long : Bool) : Except Reject Instr :=
  match unpack laySB w with
  | [_, _, a, cond, off] =>
    match cond with
    | 0 => if long then need (hi < 32) .mustBeZero (.ok (.beqLong (BitVec.ofNat 14 off) (BitVec.ofNat 5 a) (BitVec.ofNat 5 hi))) else .ok (.beq (BitVec.ofNat 14 off) (BitVec.ofNat 5 a))
    | 1 => if long then need (hi < 32) .mustBeZero (.ok (.bneLong (BitVec.ofNat 14 off) (BitVec.ofNat 5 a) (BitVec.ofNat 5 hi))) else .ok (.bne (BitVec.ofNat 14 off) (BitVec.ofNat 5 a))
    | 2 => if long then need (hi < 32) .mustBeZero (.ok (.bltLong (BitVec.ofNat 14 off) (BitVec.ofNat 5 a) (BitVec.ofNat 5 hi))) else .ok (.blt (BitVec.ofNat 14 off) (BitVec.ofNat 5 a))
    | 3 => if long then need (hi < 32) .mustBeZero (.ok (.bgeLong (BitVec.ofNat 14 off) (BitVec.ofNat 5 a) (BitVec.ofNat 5 hi))) else .ok (.bge (BitVec.ofNat 14 off) (BitVec.ofNat 5 a))
    | 4 => if long then need (hi < 32) .mustBeZero (.ok (.bltuLong (BitVec.ofNat 14 off) (BitVec.ofNat 5 a) (BitVec.ofNat 5 hi))) else .ok (.bltu (BitVec.ofNat 14 off) (BitVec.ofNat 5 a))
    | 5 => if long then need (hi < 32) .mustBeZero (.ok (.bgeuLong (BitVec.ofNat 14 off) (BitVec.ofNat 5 a) (BitVec.ofNat 5 hi))) else .ok (.bgeu (BitVec.ofNat 14 off) (BitVec.ofNat 5 a))
    | 6 => if long then need (hi < 32) .mustBeZero (.ok (.jalrLong (BitVec.ofNat 14 off) (BitVec.ofNat 5 a) (BitVec.ofNat 5 hi))) else .ok (.jalr (BitVec.ofNat 14 off) (BitVec.ofNat 5 a))
    | _ => .error .unassignedFn
  | _ => .error .unassignedMaj

/-- MAJ 0x11. -/
noncomputable def decodeMaj11 (w _hi : Nat) (long : Bool) : Except Reject Instr :=
  match unpack laySJ w with
  | [_, _, d, off] =>
    noLong long (.jal (BitVec.ofNat 19 off) (BitVec.ofNat 5 d))
  | _ => .error .unassignedMaj

/-- MAJ 0x12, GRP 0: the system instructions (R248). -/
noncomputable def decodeSys (w : Nat) (long : Bool) : Except Reject Instr :=
  match unpack laySY w with
  | [_, _, d, a, b, sys, _] =>
    match sys with
    | 0 => need (d = 0) .mustBeZero (need (a = 0) .mustBeZero (need (b = 0) .mustBeZero (noLong long (.ecall))))
    | 1 => need (d = 0) .mustBeZero (need (a = 0) .mustBeZero (need (b = 0) .mustBeZero (noLong long (.tret))))
    | 2 => need (d = 0) .mustBeZero (need (a = 0) .mustBeZero (noLong long (.brk (BitVec.ofNat 5 b))))
    | 3 => need (d = 0) .mustBeZero (need (a = 0) .mustBeZero (need (b = 0) .mustBeZero (noLong long (.halt))))
    | 4 => need (d = 0) .mustBeZero (need (a = 0) .mustBeZero (need (b = 0) .mustBeZero (noLong long (.yield))))
    | 8 => need (b = 0) .mustBeZero (noLong long (.glaunch (BitVec.ofNat 5 a) (BitVec.ofNat 5 d)))
    | 9 => need (d = 0) .mustBeZero (need (a = 0) .mustBeZero (need (b = 0) .mustBeZero (noLong long (.gexit))))
    | 10 => need (d = 0) .mustBeZero (need (a = 0) .mustBeZero (need (b = 0) .mustBeZero (noLong long (.gbar))))
    | 16 =>
      match d with
      | 0 => noLong long (.tlbiVa (BitVec.ofNat 5 b) (BitVec.ofNat 5 a))
      | 1 => need (a = 0) .mustBeZero (noLong long (.tlbiAs (BitVec.ofNat 5 b)))
      | 2 => need (a = 0) .mustBeZero (need (b = 0) .mustBeZero (noLong long (.tlbiAll)))
      | _ => .error .unassignedFn
    | _ => .error .unassignedFn
  | _ => .error .unassignedMaj

/-- MAJ 0x12: GRP selects a CSR instruction or the system group (R245). -/
noncomputable def decodeMaj12 (w _hi : Nat) (long : Bool) : Except Reject Instr :=
  match unpack layCS w with
  | [_, _, d, a, csr, grp] =>
    match grp with
    | 0 => decodeSys w long
    | 1 => noLong long (.csrw (BitVec.ofNat 12 csr) (BitVec.ofNat 5 a) (BitVec.ofNat 5 d))
    | 2 => noLong long (.csrs (BitVec.ofNat 12 csr) (BitVec.ofNat 5 a) (BitVec.ofNat 5 d))
    | 3 => noLong long (.csrc (BitVec.ofNat 12 csr) (BitVec.ofNat 5 a) (BitVec.ofNat 5 d))
    | _ => .error .unassignedFn
  | _ => .error .unassignedMaj

/-- MAJ 0x13, `fence.x` (R154, R155). -/
noncomputable def decodeMaj13x (w _hi : Nat) (long : Bool) : Except Reject Instr :=
  match unpack layFX w with
  | [_, _, z1, before, after, z, sc, _] =>
    need (sc ≤ 4) .unassignedFn (need (z = 0) .mustBeZero (need (z1 = 0) .mustBeZero (noLong long (.fenceX (BitVec.ofNat 3 sc) (BitVec.ofNat 7 after) (BitVec.ofNat 7 before)))))
  | _ => .error .unassignedMaj

/-- MAJ 0x13 (R154, R155). -/
noncomputable def decodeMaj13 (w hi : Nat) (long : Bool) : Except Reject Instr :=
  match unpack layFN w with
  | [_, _, d, a, b, z, sc, op] =>
    match op with
    | 0 => need (sc ≤ 4) .unassignedFn (need (z = 0) .mustBeZero (need (a = 0) .mustBeZero (need (b = 0) .mustBeZero (need (d = 0) .mustBeZero (noLong long (.fence (BitVec.ofNat 3 sc)))))))
    | 1 => decodeMaj13x w hi long
    | 2 => need (sc ≤ 4) .unassignedFn (need (z = 0) .mustBeZero (noLong long (.wfm (BitVec.ofNat 3 sc) (BitVec.ofNat 5 b) (BitVec.ofNat 5 a) (BitVec.ofNat 5 d))))
    | 3 => need (sc ≤ 4) .unassignedFn (need (sc = 0) .mustBeZero (need (z = 0) .mustBeZero (need (b = 0) .mustBeZero (need (a = 0) .mustBeZero (need (d < 16) .mustBeZero (noLong long (.waitq (BitVec.ofNat 4 d))))))))
    | _ => .error .unassignedFn
  | _ => .error .unassignedMaj

/-- MAJ 0x14. -/
noncomputable def decodeMaj14 (w _hi : Nat) (long : Bool) : Except Reject Instr :=
  match unpack layVV w with
  | [_, _, d, a, b, fn, mk, cv] =>
    match fn with
    | 0 => noLong long (.vaddVv (cv == 1) (mk == 1) (BitVec.ofNat 6 b) (BitVec.ofNat 6 a) (BitVec.ofNat 6 d))
    | 1 => noLong long (.vsubVv (cv == 1) (mk == 1) (BitVec.ofNat 6 b) (BitVec.ofNat 6 a) (BitVec.ofNat 6 d))
    | 2 => noLong long (.vmulVv (cv == 1) (mk == 1) (BitVec.ofNat 6 b) (BitVec.ofNat 6 a) (BitVec.ofNat 6 d))
    | 3 => noLong long (.vminVv (cv == 1) (mk == 1) (BitVec.ofNat 6 b) (BitVec.ofNat 6 a) (BitVec.ofNat 6 d))
    | 4 => noLong long (.vmaxVv (cv == 1) (mk == 1) (BitVec.ofNat 6 b) (BitVec.ofNat 6 a) (BitVec.ofNat 6 d))
    | 5 => noLong long (.vandVv (cv == 1) (mk == 1) (BitVec.ofNat 6 b) (BitVec.ofNat 6 a) (BitVec.ofNat 6 d))
    | 6 => noLong long (.vorVv (cv == 1) (mk == 1) (BitVec.ofNat 6 b) (BitVec.ofNat 6 a) (BitVec.ofNat 6 d))
    | 7 => noLong long (.vxorVv (cv == 1) (mk == 1) (BitVec.ofNat 6 b) (BitVec.ofNat 6 a) (BitVec.ofNat 6 d))
    | 8 => noLong long (.vsllVv (cv == 1) (mk == 1) (BitVec.ofNat 6 b) (BitVec.ofNat 6 a) (BitVec.ofNat 6 d))
    | 9 => noLong long (.vsrlVv (cv == 1) (mk == 1) (BitVec.ofNat 6 b) (BitVec.ofNat 6 a) (BitVec.ofNat 6 d))
    | 10 => noLong long (.vsraVv (cv == 1) (mk == 1) (BitVec.ofNat 6 b) (BitVec.ofNat 6 a) (BitVec.ofNat 6 d))
    | 11 => noLong long (.vmulhVv (cv == 1) (mk == 1) (BitVec.ofNat 6 b) (BitVec.ofNat 6 a) (BitVec.ofNat 6 d))
    | 12 => noLong long (.vsaddVv (cv == 1) (mk == 1) (BitVec.ofNat 6 b) (BitVec.ofNat 6 a) (BitVec.ofNat 6 d))
    | 13 => noLong long (.vssubVv (cv == 1) (mk == 1) (BitVec.ofNat 6 b) (BitVec.ofNat 6 a) (BitVec.ofNat 6 d))
    | 14 => noLong long (.vavgVv (cv == 1) (mk == 1) (BitVec.ofNat 6 b) (BitVec.ofNat 6 a) (BitVec.ofNat 6 d))
    | 15 => noLong long (.vdivVv (cv == 1) (mk == 1) (BitVec.ofNat 6 b) (BitVec.ofNat 6 a) (BitVec.ofNat 6 d))
    | _ => .error .unassignedFn
  | _ => .error .unassignedMaj

/-- MAJ 0x15. -/
noncomputable def decodeMaj15 (w _hi : Nat) (long : Bool) : Except Reject Instr :=
  match unpack layVX w with
  | [_, _, d, a, g, fn, mk, cv] =>
    match fn with
    | 0 => noLong long (.vaddVx (cv == 1) (mk == 1) (BitVec.ofNat 5 g) (BitVec.ofNat 6 a) (BitVec.ofNat 6 d))
    | 1 => noLong long (.vsubVx (cv == 1) (mk == 1) (BitVec.ofNat 5 g) (BitVec.ofNat 6 a) (BitVec.ofNat 6 d))
    | 2 => noLong long (.vmulVx (cv == 1) (mk == 1) (BitVec.ofNat 5 g) (BitVec.ofNat 6 a) (BitVec.ofNat 6 d))
    | 3 => noLong long (.vminVx (cv == 1) (mk == 1) (BitVec.ofNat 5 g) (BitVec.ofNat 6 a) (BitVec.ofNat 6 d))
    | 4 => noLong long (.vmaxVx (cv == 1) (mk == 1) (BitVec.ofNat 5 g) (BitVec.ofNat 6 a) (BitVec.ofNat 6 d))
    | 5 => noLong long (.vandVx (cv == 1) (mk == 1) (BitVec.ofNat 5 g) (BitVec.ofNat 6 a) (BitVec.ofNat 6 d))
    | 6 => noLong long (.vorVx (cv == 1) (mk == 1) (BitVec.ofNat 5 g) (BitVec.ofNat 6 a) (BitVec.ofNat 6 d))
    | 7 => noLong long (.vxorVx (cv == 1) (mk == 1) (BitVec.ofNat 5 g) (BitVec.ofNat 6 a) (BitVec.ofNat 6 d))
    | 8 => noLong long (.vsllVx (cv == 1) (mk == 1) (BitVec.ofNat 5 g) (BitVec.ofNat 6 a) (BitVec.ofNat 6 d))
    | 9 => noLong long (.vsrlVx (cv == 1) (mk == 1) (BitVec.ofNat 5 g) (BitVec.ofNat 6 a) (BitVec.ofNat 6 d))
    | 10 => noLong long (.vsraVx (cv == 1) (mk == 1) (BitVec.ofNat 5 g) (BitVec.ofNat 6 a) (BitVec.ofNat 6 d))
    | 11 => noLong long (.vmulhVx (cv == 1) (mk == 1) (BitVec.ofNat 5 g) (BitVec.ofNat 6 a) (BitVec.ofNat 6 d))
    | 12 => noLong long (.vsaddVx (cv == 1) (mk == 1) (BitVec.ofNat 5 g) (BitVec.ofNat 6 a) (BitVec.ofNat 6 d))
    | 13 => noLong long (.vssubVx (cv == 1) (mk == 1) (BitVec.ofNat 5 g) (BitVec.ofNat 6 a) (BitVec.ofNat 6 d))
    | 14 => noLong long (.vavgVx (cv == 1) (mk == 1) (BitVec.ofNat 5 g) (BitVec.ofNat 6 a) (BitVec.ofNat 6 d))
    | 15 => noLong long (.vdivVx (cv == 1) (mk == 1) (BitVec.ofNat 5 g) (BitVec.ofNat 6 a) (BitVec.ofNat 6 d))
    | 16 => need (a = 0) .mustBeZero (noLong long (.vsplat (cv == 1) (mk == 1) (BitVec.ofNat 5 g) (BitVec.ofNat 6 d)))
    | _ => .error .unassignedFn
  | _ => .error .unassignedMaj

/-- MAJ 0x16. -/
noncomputable def decodeMaj16 (w _hi : Nat) (long : Bool) : Except Reject Instr :=
  match unpack layVV w with
  | [_, _, d, a, b, fn, mk, cv] =>
    match fn with
    | 0 => noLong long (.vfma (cv == 1) (mk == 1) (BitVec.ofNat 6 b) (BitVec.ofNat 6 a) (BitVec.ofNat 6 d))
    | 1 => noLong long (.vfms (cv == 1) (mk == 1) (BitVec.ofNat 6 b) (BitVec.ofNat 6 a) (BitVec.ofNat 6 d))
    | 2 => noLong long (.vfnma (cv == 1) (mk == 1) (BitVec.ofNat 6 b) (BitVec.ofNat 6 a) (BitVec.ofNat 6 d))
    | 3 => noLong long (.vsqrt (cv == 1) (mk == 1) (BitVec.ofNat 6 b) (BitVec.ofNat 6 a) (BitVec.ofNat 6 d))
    | 4 => noLong long (.vrcp (cv == 1) (mk == 1) (BitVec.ofNat 6 b) (BitVec.ofNat 6 a) (BitVec.ofNat 6 d))
    | 5 => noLong long (.vrsq (cv == 1) (mk == 1) (BitVec.ofNat 6 b) (BitVec.ofNat 6 a) (BitVec.ofNat 6 d))
    | 6 => noLong long (.vexp (cv == 1) (mk == 1) (BitVec.ofNat 6 b) (BitVec.ofNat 6 a) (BitVec.ofNat 6 d))
    | 7 => noLong long (.vlog2 (cv == 1) (mk == 1) (BitVec.ofNat 6 b) (BitVec.ofNat 6 a) (BitVec.ofNat 6 d))
    | 8 => noLong long (.vabs (cv == 1) (mk == 1) (BitVec.ofNat 6 b) (BitVec.ofNat 6 a) (BitVec.ofNat 6 d))
    | 9 => noLong long (.vneg (cv == 1) (mk == 1) (BitVec.ofNat 6 b) (BitVec.ofNat 6 a) (BitVec.ofNat 6 d))
    | 10 => noLong long (.vnot (cv == 1) (mk == 1) (BitVec.ofNat 6 b) (BitVec.ofNat 6 a) (BitVec.ofNat 6 d))
    | 11 => noLong long (.vmov (cv == 1) (mk == 1) (BitVec.ofNat 6 b) (BitVec.ofNat 6 a) (BitVec.ofNat 6 d))
    | _ => .error .unassignedFn
  | _ => .error .unassignedMaj

/-- MAJ 0x17. -/
noncomputable def decodeMaj17 (w _hi : Nat) (long : Bool) : Except Reject Instr :=
  match unpack layVV w with
  | [_, _, d, a, b, fn, mk, cv] =>
    match fn with
    | 0 => noLong long (.vcmpEqVv (cv == 1) (mk == 1) (BitVec.ofNat 6 b) (BitVec.ofNat 6 a) (BitVec.ofNat 6 d))
    | 1 => noLong long (.vcmpNeVv (cv == 1) (mk == 1) (BitVec.ofNat 6 b) (BitVec.ofNat 6 a) (BitVec.ofNat 6 d))
    | 2 => noLong long (.vcmpLtVv (cv == 1) (mk == 1) (BitVec.ofNat 6 b) (BitVec.ofNat 6 a) (BitVec.ofNat 6 d))
    | 3 => noLong long (.vcmpLeVv (cv == 1) (mk == 1) (BitVec.ofNat 6 b) (BitVec.ofNat 6 a) (BitVec.ofNat 6 d))
    | 4 => noLong long (.vcmpGtVv (cv == 1) (mk == 1) (BitVec.ofNat 6 b) (BitVec.ofNat 6 a) (BitVec.ofNat 6 d))
    | 5 => noLong long (.vcmpGeVv (cv == 1) (mk == 1) (BitVec.ofNat 6 b) (BitVec.ofNat 6 a) (BitVec.ofNat 6 d))
    | _ => .error .unassignedFn
  | _ => .error .unassignedMaj

/-- MAJ 0x18. -/
noncomputable def decodeMaj18 (w _hi : Nat) (long : Bool) : Except Reject Instr :=
  match unpack layVX w with
  | [_, _, d, a, g, fn, mk, cv] =>
    match fn with
    | 0 => noLong long (.vcmpEqVx (cv == 1) (mk == 1) (BitVec.ofNat 5 g) (BitVec.ofNat 6 a) (BitVec.ofNat 6 d))
    | 1 => noLong long (.vcmpNeVx (cv == 1) (mk == 1) (BitVec.ofNat 5 g) (BitVec.ofNat 6 a) (BitVec.ofNat 6 d))
    | 2 => noLong long (.vcmpLtVx (cv == 1) (mk == 1) (BitVec.ofNat 5 g) (BitVec.ofNat 6 a) (BitVec.ofNat 6 d))
    | 3 => noLong long (.vcmpLeVx (cv == 1) (mk == 1) (BitVec.ofNat 5 g) (BitVec.ofNat 6 a) (BitVec.ofNat 6 d))
    | 4 => noLong long (.vcmpGtVx (cv == 1) (mk == 1) (BitVec.ofNat 5 g) (BitVec.ofNat 6 a) (BitVec.ofNat 6 d))
    | 5 => noLong long (.vcmpGeVx (cv == 1) (mk == 1) (BitVec.ofNat 5 g) (BitVec.ofNat 6 a) (BitVec.ofNat 6 d))
    | _ => .error .unassignedFn
  | _ => .error .unassignedMaj

/-- MAJ 0x1C. -/
noncomputable def decodeMaj1C (w _hi : Nat) (long : Bool) : Except Reject Instr :=
  match unpack layVV w with
  | [_, _, d, a, b, fn, mk, cv] =>
    match fn with
    | 0 => noLong long (.vwmacVv (cv == 1) (mk == 1) (BitVec.ofNat 6 b) (BitVec.ofNat 6 a) (BitVec.ofNat 6 d))
    | 1 => noLong long (.vsad (cv == 1) (mk == 1) (BitVec.ofNat 6 b) (BitVec.ofNat 6 a) (BitVec.ofNat 6 d))
    | _ => .error .unassignedFn
  | _ => .error .unassignedMaj

/-- MAJ 0x1D. -/
noncomputable def decodeMaj1D (w _hi : Nat) (long : Bool) : Except Reject Instr :=
  match unpack layVX w with
  | [_, _, d, a, g, fn, mk, cv] =>
    match fn with
    | 0 => noLong long (.vwmacVx (cv == 1) (mk == 1) (BitVec.ofNat 5 g) (BitVec.ofNat 6 a) (BitVec.ofNat 6 d))
    | 1 => noLong long (.vnshr (cv == 1) (mk == 1) (BitVec.ofNat 5 g) (BitVec.ofNat 6 a) (BitVec.ofNat 6 d))
    | 2 => noLong long (.vclip (cv == 1) (mk == 1) (BitVec.ofNat 5 g) (BitVec.ofNat 6 a) (BitVec.ofNat 6 d))
    | _ => .error .unassignedFn
  | _ => .error .unassignedMaj

/-- MAJ 0x1E. -/
noncomputable def decodeMaj1E (w _hi : Nat) (long : Bool) : Except Reject Instr :=
  match unpack layVV w with
  | [_, _, d, a, b, fn, mk, cv] =>
    match fn with
    | 0 => need (b = 0) .mustBeZero (noLong long (.vredSum (cv == 1) (mk == 1) (BitVec.ofNat 6 a) (BitVec.ofNat 6 d)))
    | 1 => need (b = 0) .mustBeZero (noLong long (.vredMax (cv == 1) (mk == 1) (BitVec.ofNat 6 a) (BitVec.ofNat 6 d)))
    | 2 => need (b = 0) .mustBeZero (noLong long (.vredMin (cv == 1) (mk == 1) (BitVec.ofNat 6 a) (BitVec.ofNat 6 d)))
    | 3 => need (b = 0) .mustBeZero (noLong long (.vredAnd (cv == 1) (mk == 1) (BitVec.ofNat 6 a) (BitVec.ofNat 6 d)))
    | 4 => need (b = 0) .mustBeZero (noLong long (.vredOr (cv == 1) (mk == 1) (BitVec.ofNat 6 a) (BitVec.ofNat 6 d)))
    | 5 => noLong long (.vredoSum (cv == 1) (mk == 1) (BitVec.ofNat 6 b) (BitVec.ofNat 6 a) (BitVec.ofNat 6 d))
    | 6 => need (b = 0) .mustBeZero (noLong long (.vscanAdd (cv == 1) (mk == 1) (BitVec.ofNat 6 a) (BitVec.ofNat 6 d)))
    | 7 => need (b = 0) .mustBeZero (noLong long (.vscanMax (cv == 1) (mk == 1) (BitVec.ofNat 6 a) (BitVec.ofNat 6 d)))
    | 8 => need (b = 0) .mustBeZero (noLong long (.vscanMin (cv == 1) (mk == 1) (BitVec.ofNat 6 a) (BitVec.ofNat 6 d)))
    | 9 => noLong long (.vrgather (cv == 1) (mk == 1) (BitVec.ofNat 6 b) (BitVec.ofNat 6 a) (BitVec.ofNat 6 d))
    | 10 => need (mk = 0) .mustBeZero (noLong long (.vcompress (cv == 1) (BitVec.ofNat 6 b) (BitVec.ofNat 6 a) (BitVec.ofNat 6 d)))
    | 11 => need (mk = 0) .mustBeZero (noLong long (.vexpand (cv == 1) (BitVec.ofNat 6 b) (BitVec.ofNat 6 a) (BitVec.ofNat 6 d)))
    | 12 => need (mk = 1) .mustBeZero (noLong long (.vmergeM (cv == 1) (BitVec.ofNat 6 b) (BitVec.ofNat 6 a) (BitVec.ofNat 6 d)))
    | 13 => need (mk = 0) .mustBeZero (need (a = 0) .mustBeZero (need (b = 0) .mustBeZero (noLong long (.vtrans8 (cv == 1) (BitVec.ofNat 6 d)))))
    | _ => .error .unassignedFn
  | _ => .error .unassignedMaj

/-- MAJ 0x1F. -/
noncomputable def decodeMaj1F (w _hi : Nat) (long : Bool) : Except Reject Instr :=
  match unpack layVX w with
  | [_, _, d, a, g, fn, mk, cv] =>
    match fn with
    | 0 => need (a = 0) .mustBeZero (need (g = 0) .mustBeZero (noLong long (.vid (cv == 1) (mk == 1) (BitVec.ofNat 6 d))))
    | 1 => need (g = 0) .mustBeZero (noLong long (.viota (cv == 1) (mk == 1) (BitVec.ofNat 6 a) (BitVec.ofNat 6 d)))
    | 2 => noLong long (.vslideup (cv == 1) (mk == 1) (BitVec.ofNat 5 g) (BitVec.ofNat 6 a) (BitVec.ofNat 6 d))
    | 3 => noLong long (.vslidedn (cv == 1) (mk == 1) (BitVec.ofNat 5 g) (BitVec.ofNat 6 a) (BitVec.ofNat 6 d))
    | 4 => need (mk = 0) .mustBeZero (need (d < 32) .mustBeZero (noLong long (.vext (cv == 1) (BitVec.ofNat 5 g) (BitVec.ofNat 6 a) (BitVec.ofNat 5 d))))
    | 5 => need (mk = 0) .mustBeZero (need (a < 32) .mustBeZero (noLong long (.vins (cv == 1) (BitVec.ofNat 5 g) (BitVec.ofNat 5 a) (BitVec.ofNat 6 d))))
    | 6 => need (g = 0) .mustBeZero (need (d < 32) .mustBeZero (noLong long (.mpopc (cv == 1) (mk == 1) (BitVec.ofNat 6 a) (BitVec.ofNat 5 d))))
    | 7 => need (g = 0) .mustBeZero (need (d < 32) .mustBeZero (noLong long (.mfirst (cv == 1) (mk == 1) (BitVec.ofNat 6 a) (BitVec.ofNat 5 d))))
    | _ => .error .unassignedFn
  | _ => .error .unassignedMaj

/-- MAJ 0x20. -/
noncomputable def decodeMaj20 (w hi : Nat) (long : Bool) : Except Reject Instr :=
  match unpack layVM w with
  | [_, _, d, a, g, a8, fm, ord, kind, mk, cv] =>
    match kind with
    | 0 => if long then need (a = 0) .mustBeZero (.ok (.vldLong (cv == 1) (mk == 1) (ord == 1) (fm == 1) (a8 == 1) (BitVec.ofNat 5 g) (BitVec.ofNat 6 d) (BitVec.ofNat 32 hi))) else need (a = 0) .mustBeZero (.ok (.vld (cv == 1) (mk == 1) (ord == 1) (fm == 1) (a8 == 1) (BitVec.ofNat 5 g) (BitVec.ofNat 6 d)))
    | 1 => if long then need (a < 32) .mustBeZero (.ok (.vldsLong (cv == 1) (mk == 1) (ord == 1) (fm == 1) (a8 == 1) (BitVec.ofNat 5 g) (BitVec.ofNat 5 a) (BitVec.ofNat 6 d) (BitVec.ofNat 32 hi))) else need (a < 32) .mustBeZero (.ok (.vlds (cv == 1) (mk == 1) (ord == 1) (fm == 1) (a8 == 1) (BitVec.ofNat 5 g) (BitVec.ofNat 5 a) (BitVec.ofNat 6 d)))
    | 2 => if long then .ok (.vldxLong (cv == 1) (mk == 1) (ord == 1) (fm == 1) (a8 == 1) (BitVec.ofNat 5 g) (BitVec.ofNat 6 a) (BitVec.ofNat 6 d) (BitVec.ofNat 32 hi)) else .ok (.vldx (cv == 1) (mk == 1) (ord == 1) (fm == 1) (a8 == 1) (BitVec.ofNat 5 g) (BitVec.ofNat 6 a) (BitVec.ofNat 6 d))
    | 3 => if long then need (a < 8) .mustBeZero (.ok (.vldsegLong (cv == 1) (mk == 1) (ord == 1) (fm == 1) (a8 == 1) (BitVec.ofNat 5 g) (BitVec.ofNat 3 a) (BitVec.ofNat 6 d) (BitVec.ofNat 32 hi))) else need (a < 8) .mustBeZero (.ok (.vldseg (cv == 1) (mk == 1) (ord == 1) (fm == 1) (a8 == 1) (BitVec.ofNat 5 g) (BitVec.ofNat 3 a) (BitVec.ofNat 6 d)))
    | _ => .error .unassignedFn
  | _ => .error .unassignedMaj

/-- MAJ 0x21. -/
noncomputable def decodeMaj21 (w hi : Nat) (long : Bool) : Except Reject Instr :=
  match unpack layVM w with
  | [_, _, d, a, g, a8, fm, ord, kind, mk, cv] =>
    match kind with
    | 0 => if long then need (a = 0) .mustBeZero (.ok (.vstLong (cv == 1) (mk == 1) (ord == 1) (fm == 1) (a8 == 1) (BitVec.ofNat 5 g) (BitVec.ofNat 6 d) (BitVec.ofNat 32 hi))) else need (a = 0) .mustBeZero (.ok (.vst (cv == 1) (mk == 1) (ord == 1) (fm == 1) (a8 == 1) (BitVec.ofNat 5 g) (BitVec.ofNat 6 d)))
    | 1 => if long then need (a < 32) .mustBeZero (.ok (.vstsLong (cv == 1) (mk == 1) (ord == 1) (fm == 1) (a8 == 1) (BitVec.ofNat 5 g) (BitVec.ofNat 5 a) (BitVec.ofNat 6 d) (BitVec.ofNat 32 hi))) else need (a < 32) .mustBeZero (.ok (.vsts (cv == 1) (mk == 1) (ord == 1) (fm == 1) (a8 == 1) (BitVec.ofNat 5 g) (BitVec.ofNat 5 a) (BitVec.ofNat 6 d)))
    | 2 => if long then .ok (.vstxLong (cv == 1) (mk == 1) (ord == 1) (fm == 1) (a8 == 1) (BitVec.ofNat 5 g) (BitVec.ofNat 6 a) (BitVec.ofNat 6 d) (BitVec.ofNat 32 hi)) else .ok (.vstx (cv == 1) (mk == 1) (ord == 1) (fm == 1) (a8 == 1) (BitVec.ofNat 5 g) (BitVec.ofNat 6 a) (BitVec.ofNat 6 d))
    | 3 => if long then need (a < 8) .mustBeZero (.ok (.vstsegLong (cv == 1) (mk == 1) (ord == 1) (fm == 1) (a8 == 1) (BitVec.ofNat 5 g) (BitVec.ofNat 3 a) (BitVec.ofNat 6 d) (BitVec.ofNat 32 hi))) else need (a < 8) .mustBeZero (.ok (.vstseg (cv == 1) (mk == 1) (ord == 1) (fm == 1) (a8 == 1) (BitVec.ofNat 5 g) (BitVec.ofNat 3 a) (BitVec.ofNat 6 d)))
    | _ => .error .unassignedFn
  | _ => .error .unassignedMaj

/-- MAJ 0x22. -/
noncomputable def decodeMaj22 (w hi : Nat) (long : Bool) : Except Reject Instr :=
  match unpack layVX w with
  | [_, _, d, a, g, fn, mk, cv] =>
    match fn with
    | 0 => need (mk = 0) .mustBeZero (need (cv = 0) .mustBeZero (need (a < 32) .mustBeZero (noLong long (.vldc (BitVec.ofNat 5 g) (BitVec.ofNat 5 a) (BitVec.ofNat 6 d)))))
    | 1 => if long then .ok (.vamoAddLong (cv == 1) (mk == 1) false (BitVec.ofNat 5 g) (BitVec.ofNat 6 a) (BitVec.ofNat 6 d) (BitVec.ofNat 32 hi)) else .ok (.vamoAdd (cv == 1) (mk == 1) false (BitVec.ofNat 5 g) (BitVec.ofNat 6 a) (BitVec.ofNat 6 d))
    | 2 => if long then .ok (.vamoMaxLong (cv == 1) (mk == 1) false (BitVec.ofNat 5 g) (BitVec.ofNat 6 a) (BitVec.ofNat 6 d) (BitVec.ofNat 32 hi)) else .ok (.vamoMax (cv == 1) (mk == 1) false (BitVec.ofNat 5 g) (BitVec.ofNat 6 a) (BitVec.ofNat 6 d))
    | 3 => if long then .ok (.vamoMinLong (cv == 1) (mk == 1) false (BitVec.ofNat 5 g) (BitVec.ofNat 6 a) (BitVec.ofNat 6 d) (BitVec.ofNat 32 hi)) else .ok (.vamoMin (cv == 1) (mk == 1) false (BitVec.ofNat 5 g) (BitVec.ofNat 6 a) (BitVec.ofNat 6 d))
    | 4 => if long then .ok (.vamoSwapLong (cv == 1) (mk == 1) false (BitVec.ofNat 5 g) (BitVec.ofNat 6 a) (BitVec.ofNat 6 d) (BitVec.ofNat 32 hi)) else .ok (.vamoSwap (cv == 1) (mk == 1) false (BitVec.ofNat 5 g) (BitVec.ofNat 6 a) (BitVec.ofNat 6 d))
    | 8 => noLong long (.vmcast (cv == 1) (mk == 1) (BitVec.ofNat 5 g) (BitVec.ofNat 6 a) (BitVec.ofNat 6 d))
    | 9 => need (d = 0) .mustBeZero (need (a = 0) .mustBeZero (need (mk = 0) .mustBeZero (need (cv = 0) .mustBeZero (noLong long (.vsave (BitVec.ofNat 5 g))))))
    | 10 => need (d = 0) .mustBeZero (need (a = 0) .mustBeZero (need (mk = 0) .mustBeZero (need (cv = 0) .mustBeZero (noLong long (.vrest (BitVec.ofNat 5 g))))))
    | 17 => if long then .ok (.vamoAddLong (cv == 1) (mk == 1) true (BitVec.ofNat 5 g) (BitVec.ofNat 6 a) (BitVec.ofNat 6 d) (BitVec.ofNat 32 hi)) else .ok (.vamoAdd (cv == 1) (mk == 1) true (BitVec.ofNat 5 g) (BitVec.ofNat 6 a) (BitVec.ofNat 6 d))
    | 18 => if long then .ok (.vamoMaxLong (cv == 1) (mk == 1) true (BitVec.ofNat 5 g) (BitVec.ofNat 6 a) (BitVec.ofNat 6 d) (BitVec.ofNat 32 hi)) else .ok (.vamoMax (cv == 1) (mk == 1) true (BitVec.ofNat 5 g) (BitVec.ofNat 6 a) (BitVec.ofNat 6 d))
    | 19 => if long then .ok (.vamoMinLong (cv == 1) (mk == 1) true (BitVec.ofNat 5 g) (BitVec.ofNat 6 a) (BitVec.ofNat 6 d) (BitVec.ofNat 32 hi)) else .ok (.vamoMin (cv == 1) (mk == 1) true (BitVec.ofNat 5 g) (BitVec.ofNat 6 a) (BitVec.ofNat 6 d))
    | 20 => if long then .ok (.vamoSwapLong (cv == 1) (mk == 1) true (BitVec.ofNat 5 g) (BitVec.ofNat 6 a) (BitVec.ofNat 6 d) (BitVec.ofNat 32 hi)) else .ok (.vamoSwap (cv == 1) (mk == 1) true (BitVec.ofNat 5 g) (BitVec.ofNat 6 a) (BitVec.ofNat 6 d))
    | _ => .error .unassignedFn
  | _ => .error .unassignedMaj

/-- MAJ 0x23. -/
noncomputable def decodeMaj23 (w _hi : Nat) (long : Bool) : Except Reject Instr :=
  match unpack layVX w with
  | [_, _, d, a, g, fn, mk, cv] =>
    match fn with
    | 0 => need (g = 0) .mustBeZero (noLong long (.vpop (cv == 1) (mk == 1) (BitVec.ofNat 6 a) (BitVec.ofNat 6 d)))
    | 1 => need (g = 0) .mustBeZero (noLong long (.vpush (cv == 1) (mk == 1) (BitVec.ofNat 6 a) (BitVec.ofNat 6 d)))
    | _ => .error .unassignedFn
  | _ => .error .unassignedMaj

/-- MAJ 0x24 FN 6, `vnext` (R264). -/
noncomputable def decodeVnext (w _hi : Nat) (long : Bool) : Except Reject Instr :=
  match unpack layVN w with
  | [_, _, off, _, mk, cv] =>
    need (mk = 0) .mustBeZero (need (cv = 0) .mustBeZero (noLong long (.vnext (BitVec.ofNat 17 off))))
  | _ => .error .unassignedMaj

/-- MAJ 0x24 (R264). -/
noncomputable def decodeMaj24 (w hi : Nat) (long : Bool) : Except Reject Instr :=
  match unpack layVX w with
  | [_, _, d, a, g, fn, mk, cv] =>
    match fn with
    | 0 => need (mk = 0) .mustBeZero (need (cv = 0) .mustBeZero (need (d = 0) .mustBeZero (need (a = 0) .mustBeZero (noLong long (.vcfg (BitVec.ofNat 5 g))))))
    | 1 => need (mk = 0) .mustBeZero (need (cv = 0) .mustBeZero (need (g = 0) .mustBeZero (need (a < 32) .mustBeZero (noLong long (.vtag (BitVec.ofNat 5 a) (BitVec.ofNat 6 d))))))
    | 2 => need (mk = 0) .mustBeZero (need (cv = 0) .mustBeZero (need (a = 0) .mustBeZero (noLong long (.vwinV (BitVec.ofNat 5 g) (BitVec.ofNat 6 d)))))
    | 3 => need (mk = 0) .mustBeZero (need (cv = 0) .mustBeZero (need (a = 0) .mustBeZero (noLong long (.vwinM (BitVec.ofNat 5 g) (BitVec.ofNat 6 d)))))
    | 4 => need (mk = 0) .mustBeZero (need (cv = 0) .mustBeZero (need (a = 0) .mustBeZero (need (d < 32) .mustBeZero (noLong long (.vsetl (BitVec.ofNat 5 g) (BitVec.ofNat 5 d))))))
    | 5 => need (mk = 0) .mustBeZero (need (cv = 0) .mustBeZero (need (d = 0) .mustBeZero (need (a = 0) .mustBeZero (noLong long (.vloop (BitVec.ofNat 5 g))))))
    | 6 => decodeVnext w hi long
    | 7 => need (mk = 0) .mustBeZero (need (cv = 0) .mustBeZero (need (a = 0) .mustBeZero (need (d < 32) .mustBeZero (need (d % 2 = 0) .mustBeZero (noLong long (.vflat (BitVec.ofNat 5 g) (BitVec.ofNat 5 d)))))))
    | 8 => need (mk = 0) .mustBeZero (need (cv = 0) .mustBeZero (need (g = 0) .mustBeZero (need (d < 32) .mustBeZero (noLong long (.vrgn (BitVec.ofNat 6 a) (BitVec.ofNat 5 d))))))
    | _ => .error .unassignedFn
  | _ => .error .unassignedMaj

/-- MAJ 0x25. -/
noncomputable def decodeMaj25 (w hi : Nat) (long : Bool) : Except Reject Instr :=
  match unpack layVX w with
  | [_, _, d, a, g, fn, mk, cv] =>
    match fn with
    | 0 => need (mk = 0) .mustBeZero (need (cv = 0) .mustBeZero (need (a = 0) .mustBeZero (noLong long (.winset (BitVec.ofNat 5 g) (BitVec.ofNat 6 d)))))
    | 1 => need (mk = 0) .mustBeZero (need (cv = 0) .mustBeZero (need (a = 0) .mustBeZero (need (g = 0) .mustBeZero (noLong long (.winclr (BitVec.ofNat 6 d))))))
    | 2 => need (mk = 0) .mustBeZero (need (cv = 0) .mustBeZero (need (a = 0) .mustBeZero (need (g = 0) .mustBeZero (noLong long (.winclrD (BitVec.ofNat 6 d))))))
    | 3 => need (mk = 0) .mustBeZero (need (cv = 0) .mustBeZero (need (a = 0) .mustBeZero (need (g = 0) .mustBeZero (noLong long (.winwait (BitVec.ofNat 6 d))))))
    | 4 => need (mk = 0) .mustBeZero (need (cv = 0) .mustBeZero (need (a = 0) .mustBeZero (need (g = 0) .mustBeZero (noLong long (.winflush (BitVec.ofNat 6 d))))))
    | 5 => if long then need (mk = 0) .mustBeZero (need (cv = 0) .mustBeZero (.ok (.lcsetLong (BitVec.ofNat 5 g) (BitVec.ofNat 6 a) (BitVec.ofNat 6 d) (BitVec.ofNat 32 hi)))) else need (mk = 0) .mustBeZero (need (cv = 0) .mustBeZero (.ok (.lcset (BitVec.ofNat 5 g) (BitVec.ofNat 6 a) (BitVec.ofNat 6 d))))
    | 6 => if long then need (mk = 0) .mustBeZero (need (cv = 0) .mustBeZero (.ok (.lcadvLong (BitVec.ofNat 5 g) (BitVec.ofNat 6 a) (BitVec.ofNat 6 d) (BitVec.ofNat 32 hi)))) else need (mk = 0) .mustBeZero (need (cv = 0) .mustBeZero (.ok (.lcadv (BitVec.ofNat 5 g) (BitVec.ofNat 6 a) (BitVec.ofNat 6 d))))
    | 7 => need (mk = 0) .mustBeZero (need (cv = 0) .mustBeZero (need (g = 0) .mustBeZero (need (d < 32) .mustBeZero (noLong long (.lcrd (BitVec.ofNat 6 a) (BitVec.ofNat 5 d))))))
    | 8 => need (mk = 0) .mustBeZero (need (cv = 0) .mustBeZero (need (g = 0) .mustBeZero (need (d < 32) .mustBeZero (noLong long (.winq (BitVec.ofNat 6 a) (BitVec.ofNat 5 d))))))
    | _ => .error .unassignedFn
  | _ => .error .unassignedMaj

/-- MAJ 0x26. -/
noncomputable def decodeMaj26 (w _hi : Nat) (long : Bool) : Except Reject Instr :=
  match unpack layVX w with
  | [_, _, d, a, g, fn, mk, cv] =>
    match fn with
    | 0 => noLong long (.vldw (cv == 1) (mk == 1) (BitVec.ofNat 2 0) (BitVec.ofNat 5 g) (BitVec.ofNat 6 a) (BitVec.ofNat 6 d))
    | 1 => noLong long (.vldw (cv == 1) (mk == 1) (BitVec.ofNat 2 1) (BitVec.ofNat 5 g) (BitVec.ofNat 6 a) (BitVec.ofNat 6 d))
    | 2 => noLong long (.vldw (cv == 1) (mk == 1) (BitVec.ofNat 2 2) (BitVec.ofNat 5 g) (BitVec.ofNat 6 a) (BitVec.ofNat 6 d))
    | 3 => noLong long (.vldw (cv == 1) (mk == 1) (BitVec.ofNat 2 3) (BitVec.ofNat 5 g) (BitVec.ofNat 6 a) (BitVec.ofNat 6 d))
    | 16 => noLong long (.vstw (cv == 1) (mk == 1) (BitVec.ofNat 2 0) (BitVec.ofNat 5 g) (BitVec.ofNat 6 a) (BitVec.ofNat 6 d))
    | 17 => noLong long (.vstw (cv == 1) (mk == 1) (BitVec.ofNat 2 1) (BitVec.ofNat 5 g) (BitVec.ofNat 6 a) (BitVec.ofNat 6 d))
    | 18 => noLong long (.vstw (cv == 1) (mk == 1) (BitVec.ofNat 2 2) (BitVec.ofNat 5 g) (BitVec.ofNat 6 a) (BitVec.ofNat 6 d))
    | 19 => noLong long (.vstw (cv == 1) (mk == 1) (BitVec.ofNat 2 3) (BitVec.ofNat 5 g) (BitVec.ofNat 6 a) (BitVec.ofNat 6 d))
    | _ => .error .unassignedFn
  | _ => .error .unassignedMaj

/-- MAJ 0x27. -/
noncomputable def decodeMaj27 (w _hi : Nat) (long : Bool) : Except Reject Instr :=
  match unpack layVX w with
  | [_, _, d, a, g, fn, mk, cv] =>
    match fn with
    | 0 => need (a = 0) .mustBeZero (need (mk = 0) .mustBeZero (need (cv = 0) .mustBeZero (noLong long (.sbind (BitVec.ofNat 5 g) (BitVec.ofNat 6 d)))))
    | 1 => need (a = 0) .mustBeZero (need (g = 0) .mustBeZero (need (mk = 0) .mustBeZero (need (cv = 0) .mustBeZero (noLong long (.sfree (BitVec.ofNat 6 d))))))
    | _ => .error .unassignedFn
  | _ => .error .unassignedMaj

/-- MAJ 0x28. -/
noncomputable def decodeMaj28 (w _hi : Nat) (long : Bool) : Except Reject Instr :=
  match unpack layVV w with
  | [_, _, d, a, b, fn, mk, cv] =>
    match fn with
    | 0 => noLong long (.vscmpLt (cv == 1) (mk == 1) (BitVec.ofNat 6 b) (BitVec.ofNat 6 a) (BitVec.ofNat 6 d))
    | 1 => noLong long (.vscmpLe (cv == 1) (mk == 1) (BitVec.ofNat 6 b) (BitVec.ofNat 6 a) (BitVec.ofNat 6 d))
    | 2 => noLong long (.vscmpGt (cv == 1) (mk == 1) (BitVec.ofNat 6 b) (BitVec.ofNat 6 a) (BitVec.ofNat 6 d))
    | 3 => noLong long (.vscmpGe (cv == 1) (mk == 1) (BitVec.ofNat 6 b) (BitVec.ofNat 6 a) (BitVec.ofNat 6 d))
    | 4 => noLong long (.pandInd (cv == 1) (mk == 1) (BitVec.ofNat 6 b) (BitVec.ofNat 6 a) (BitVec.ofNat 6 d))
    | 5 => noLong long (.pandPos (cv == 1) (mk == 1) (BitVec.ofNat 6 b) (BitVec.ofNat 6 a) (BitVec.ofNat 6 d))
    | 6 => noLong long (.pandNeg (cv == 1) (mk == 1) (BitVec.ofNat 6 b) (BitVec.ofNat 6 a) (BitVec.ofNat 6 d))
    | 8 => noLong long (.porInd (cv == 1) (mk == 1) (BitVec.ofNat 6 b) (BitVec.ofNat 6 a) (BitVec.ofNat 6 d))
    | 9 => noLong long (.porPos (cv == 1) (mk == 1) (BitVec.ofNat 6 b) (BitVec.ofNat 6 a) (BitVec.ofNat 6 d))
    | 10 => noLong long (.porNeg (cv == 1) (mk == 1) (BitVec.ofNat 6 b) (BitVec.ofNat 6 a) (BitVec.ofNat 6 d))
    | 12 => noLong long (.pnot (cv == 1) (mk == 1) (BitVec.ofNat 6 b) (BitVec.ofNat 6 a) (BitVec.ofNat 6 d))
    | 13 => need (mk = 1) .mustBeZero (noLong long (.pblendM (cv == 1) (BitVec.ofNat 6 b) (BitVec.ofNat 6 a) (BitVec.ofNat 6 d)))
    | _ => .error .unassignedFn
  | _ => .error .unassignedMaj

/-- MAJ 0x29. -/
noncomputable def decodeMaj29 (w _hi : Nat) (long : Bool) : Except Reject Instr :=
  match unpack layVV w with
  | [_, _, d, a, b, fn, mk, cv] =>
    match fn with
    | 0 => need (b = 0) .mustBeZero (noLong long (.pcoll (cv == 1) (mk == 1) (BitVec.ofNat 6 a) (BitVec.ofNat 6 d)))
    | 1 => need (b = 0) .mustBeZero (noLong long (.pthr (cv == 1) (mk == 1) (BitVec.ofNat 6 a) (BitVec.ofNat 6 d)))
    | 2 => need (b = 0) .mustBeZero (noLong long (.pgrad (cv == 1) (mk == 1) (BitVec.ofNat 6 a) (BitVec.ofNat 6 d)))
    | 3 => need (b = 0) .mustBeZero (noLong long (.pgradSt (cv == 1) (mk == 1) (BitVec.ofNat 6 a) (BitVec.ofNat 6 d)))
    | 4 => noLong long (.pbgrad (cv == 1) (mk == 1) (BitVec.ofNat 6 b) (BitVec.ofNat 6 a) (BitVec.ofNat 6 d))
    | 5 => need (b = 0) .mustBeZero (noLong long (.pmovV (cv == 1) (mk == 1) (BitVec.ofNat 6 a) (BitVec.ofNat 6 d)))
    | 6 => need (b = 0) .mustBeZero (noLong long (.pmovM (cv == 1) (mk == 1) (BitVec.ofNat 6 a) (BitVec.ofNat 6 d)))
    | _ => .error .unassignedFn
  | _ => .error .unassignedMaj

/-- MAJ 0x2A. -/
noncomputable def decodeMaj2A (w _hi : Nat) (long : Bool) : Except Reject Instr :=
  match unpack layXP w with
  | [_, _, d, a, b, op, pa, pb, mk, cv] =>
    match op with
    | 0 => need (pa = 0 ∨ a < 32) .mustBeZero (need (pb = 0 ∨ b < 32) .mustBeZero (need (cv = 0 ∨ pa = 0 ∨ pb = 0) .mustBeZero (noLong long (.xpa (cv == 1) (mk == 1) (pb == 1) (pa == 1) (BitVec.ofNat 6 b) (BitVec.ofNat 6 a) (BitVec.ofNat 6 d)))))
    | 1 => need (pa = 0 ∨ a < 32) .mustBeZero (need (pb = 0 ∨ b < 32) .mustBeZero (need (cv = 0 ∨ pa = 0 ∨ pb = 0) .mustBeZero (noLong long (.xps (cv == 1) (mk == 1) (pb == 1) (pa == 1) (BitVec.ofNat 6 b) (BitVec.ofNat 6 a) (BitVec.ofNat 6 d)))))
    | 2 => need (pa = 0 ∨ a < 32) .mustBeZero (need (pb = 0 ∨ b < 32) .mustBeZero (need (cv = 0 ∨ pa = 0 ∨ pb = 0) .mustBeZero (noLong long (.xpaI (cv == 1) (mk == 1) (pb == 1) (pa == 1) (BitVec.ofNat 6 b) (BitVec.ofNat 6 a) (BitVec.ofNat 6 d)))))
    | 3 => need (pa = 0) .unassignedFn (need (pb = 0) .unassignedFn (noLong long (.xpaS (cv == 1) (mk == 1) (BitVec.ofNat 6 b) (BitVec.ofNat 6 a) (BitVec.ofNat 6 d))))
    | _ => .error .unassignedFn
  | _ => .error .unassignedMaj

/-- MAJ 0x2B. -/
noncomputable def decodeMaj2B (w _hi : Nat) (long : Bool) : Except Reject Instr :=
  match unpack layVX w with
  | [_, _, d, a, g, fn, mk, cv] =>
    match fn with
    | 0 => need (mk = 0) .mustBeZero (need (cv = 0) .mustBeZero (need (d = 0) .mustBeZero (need (a = 0) .mustBeZero (noLong long (.mxon (BitVec.ofNat 5 g))))))
    | 1 => need (mk = 0) .mustBeZero (need (cv = 0) .mustBeZero (need (d = 0) .mustBeZero (need (a = 0) .mustBeZero (need (g = 0) .mustBeZero (noLong long (.mxoff))))))
    | 2 => need (mk = 0) .mustBeZero (need (cv = 0) .mustBeZero (need (a = 0) .mustBeZero (need (g = 0) .mustBeZero (noLong long (.mzero (BitVec.ofNat 6 d))))))
    | 3 => need (cv = 0) .mustBeZero (noLong long (.mrdV (mk == 1) (BitVec.ofNat 5 g) (BitVec.ofNat 6 a) (BitVec.ofNat 6 d)))
    | 4 => need (mk = 0) .mustBeZero (need (cv = 0) .mustBeZero (need (d < 32) .mustBeZero (noLong long (.mrdG (BitVec.ofNat 5 g) (BitVec.ofNat 6 a) (BitVec.ofNat 5 d)))))
    | 5 => need (cv = 0) .mustBeZero (noLong long (.mwr (mk == 1) (BitVec.ofNat 5 g) (BitVec.ofNat 6 a) (BitVec.ofNat 6 d)))
    | 6 => need (mk = 0) .mustBeZero (need (cv = 0) .mustBeZero (need (a < 32) .mustBeZero (noLong long (.mld (BitVec.ofNat 5 g) (BitVec.ofNat 5 a) (BitVec.ofNat 6 d)))))
    | 7 => need (mk = 0) .mustBeZero (need (cv = 0) .mustBeZero (need (a < 32) .mustBeZero (noLong long (.mst (BitVec.ofNat 5 g) (BitVec.ofNat 5 a) (BitVec.ofNat 6 d)))))
    | _ => .error .unassignedFn
  | _ => .error .unassignedMaj

/-- MAJ 0x2C. -/
noncomputable def decodeMaj2C (w _hi : Nat) (long : Bool) : Except Reject Instr :=
  match unpack layVX w with
  | [_, _, d, a, g, fn, mk, cv] =>
    match fn with
    | 0 => need (cv = 0) .mustBeZero (need (g = 0) .mustBeZero (noLong long (.enq (mk == 1) (BitVec.ofNat 6 a) (BitVec.ofNat 6 d))))
    | _ => .error .unassignedFn
  | _ => .error .unassignedMaj

/-- FN[3:2] of MAJ 0x26 must be zero (R84, R16): a nonzero value is a must-be-zero field, not an unassigned FN. -/
noncomputable def decodeMaj26z (w hi : Nat) (long : Bool) : Except Reject Instr :=
  match unpack layVX w with
  | [_, _, _, _, _, fn, _, _] => need (fn / 4 % 4 = 0) .mustBeZero (decodeMaj26 w hi long)
  | _ => .error .unassignedMaj

/-- The low word of a 32-bit or 64-bit instruction, by MAJ (R10, R19). -/
noncomputable def decodeLow (w hi : Nat) (long : Bool) : Except Reject Instr :=
  match w / 4 % 64 with
  | 0 => decodeMaj00 w hi long
  | 1 => decodeMaj01 w hi long
  | 2 => decodeMaj02 w hi long
  | 3 => decodeMaj03 w hi long
  | 4 => decodeMaj04 w hi long
  | 5 => decodeMaj05 w hi long
  | 6 => decodeMaj06 w hi long
  | 7 => decodeMaj07 w hi long
  | 8 => decodeMaj08 w hi long
  | 12 => decodeMaj0C w hi long
  | 13 => decodeMaj0D w hi long
  | 14 => decodeMaj0E w hi long
  | 15 => decodeMaj0F w hi long
  | 16 => decodeMaj10 w hi long
  | 17 => decodeMaj11 w hi long
  | 18 => decodeMaj12 w hi long
  | 19 => decodeMaj13 w hi long
  | 20 => decodeMaj14 w hi long
  | 21 => decodeMaj15 w hi long
  | 22 => decodeMaj16 w hi long
  | 23 => decodeMaj17 w hi long
  | 24 => decodeMaj18 w hi long
  | 28 => decodeMaj1C w hi long
  | 29 => decodeMaj1D w hi long
  | 30 => decodeMaj1E w hi long
  | 31 => decodeMaj1F w hi long
  | 32 => decodeMaj20 w hi long
  | 33 => decodeMaj21 w hi long
  | 34 => decodeMaj22 w hi long
  | 35 => decodeMaj23 w hi long
  | 36 => decodeMaj24 w hi long
  | 37 => decodeMaj25 w hi long
  | 38 => decodeMaj26z w hi long
  | 39 => decodeMaj27 w hi long
  | 40 => decodeMaj28 w hi long
  | 41 => decodeMaj29 w hi long
  | 42 => decodeMaj2A w hi long
  | 43 => decodeMaj2B w hi long
  | 44 => decodeMaj2C w hi long
  | _ => .error .unassignedMaj

/-- C16 (R17, R18). -/
noncomputable def decodeCompact (w : Nat) : Except Reject Instr :=
  match unpack [1, 4, 6, 5] w with
  | [_, op, d, b] =>
    match op with
    | 0 => .ok (.cVadd (BitVec.ofNat 5 b) (BitVec.ofNat 6 d))
    | 1 => .ok (.cVsub (BitVec.ofNat 5 b) (BitVec.ofNat 6 d))
    | 2 => .ok (.cVmul (BitVec.ofNat 5 b) (BitVec.ofNat 6 d))
    | 3 => .ok (.cVfma (BitVec.ofNat 5 b) (BitVec.ofNat 6 d))
    | 4 => .ok (.cVmin (BitVec.ofNat 5 b) (BitVec.ofNat 6 d))
    | 5 => .ok (.cVmax (BitVec.ofNat 5 b) (BitVec.ofNat 6 d))
    | 6 => .ok (.cVand (BitVec.ofNat 5 b) (BitVec.ofNat 6 d))
    | 7 => .ok (.cVor (BitVec.ofNat 5 b) (BitVec.ofNat 6 d))
    | 8 => .ok (.cVxor (BitVec.ofNat 5 b) (BitVec.ofNat 6 d))
    | 9 => .ok (.cVmov (BitVec.ofNat 5 b) (BitVec.ofNat 6 d))
    | 10 => .ok (.cVabs (BitVec.ofNat 5 b) (BitVec.ofNat 6 d))
    | 11 => .ok (.cVneg (BitVec.ofNat 5 b) (BitVec.ofNat 6 d))
    | 12 => .ok (.cVsadd (BitVec.ofNat 5 b) (BitVec.ofNat 6 d))
    | 13 => .ok (.cVssub (BitVec.ofNat 5 b) (BitVec.ofNat 6 d))
    | 14 => .ok (.cVavg (BitVec.ofNat 5 b) (BitVec.ofNat 6 d))
    | _ => .error .reservedCompact
  | _ => .error .reservedCompact

/-- Length in bytes, from the first halfword (R8). -/
def lengthOf (w : Nat) : Nat := if w % 2 = 0 then 2 else if w % 4 = 1 then 4 else 8

/-- Decodes the instruction whose bits are the low bits of `w` (bit 0 the first halfword's bit 0; at least 64 bits are looked at). -/
noncomputable def decodeWord (w : Nat) : Except Reject Instr :=
  if w % 2 = 0 then decodeCompact (w % 2 ^ 16)
  else decodeLow (w % 2 ^ 32) (w / 2 ^ 32 % 2 ^ 32) (w % 4 = 3)

/-- Little-endian value of bytes (R6). -/
def leValue : List Byte → Nat
  | [] => 0
  | b :: bs => b.toNat + 256 * leValue bs

/-- The n low bytes of a value, little-endian. -/
def leBytes : Nat → Nat → List Byte
  | 0, _ => []
  | n + 1, v => BitVec.ofNat 8 v :: leBytes n (v / 256)

/-- Decodes the instruction at the head of a byte stream: the instruction and the rest. Total; rejects by name. -/
noncomputable def decode (bs : List Byte) : Except Reject (Instr × List Byte) :=
  match bs with
  | b0 :: b1 :: _ =>
    let n := lengthOf (b0.toNat + 256 * b1.toNat)
    if bs.length < n then .error .truncated
    else match decodeWord (leValue (bs.take n)) with
      | .ok i => .ok (i, bs.drop n)
      | .error e => .error e
  | _ => .error .truncated

/-- The instruction the decoder reads from a table word (bits numbered as the opcode table numbers them; bits above `nbits` are 0). -/
noncomputable def decodeTableWord (nbits w : Nat) : Option Instr :=
  match decode (leBytes 8 (w % 2 ^ nbits)) with
  | .ok (i, _) => some i
  | .error _ => none

/-- A one-bit field. -/
def bit (b : Bool) : Nat := if b then 1 else 0

/-- The encoder: (length in bits, bits) of an encoded instruction; (0, 0) for a step of another agent, which has no word. -/
def encode : Instr → Nat × Nat
  | .add b a d => (32, pack [(2, 1), (6, 0), (5, d.toNat), (5, a.toNat), (5, b.toNat), (9, 0)])
  | .sub b a d => (32, pack [(2, 1), (6, 0), (5, d.toNat), (5, a.toNat), (5, b.toNat), (9, 1)])
  | .and b a d => (32, pack [(2, 1), (6, 0), (5, d.toNat), (5, a.toNat), (5, b.toNat), (9, 2)])
  | .or b a d => (32, pack [(2, 1), (6, 0), (5, d.toNat), (5, a.toNat), (5, b.toNat), (9, 3)])
  | .xor b a d => (32, pack [(2, 1), (6, 0), (5, d.toNat), (5, a.toNat), (5, b.toNat), (9, 4)])
  | .sll b a d => (32, pack [(2, 1), (6, 0), (5, d.toNat), (5, a.toNat), (5, b.toNat), (9, 5)])
  | .srl b a d => (32, pack [(2, 1), (6, 0), (5, d.toNat), (5, a.toNat), (5, b.toNat), (9, 6)])
  | .sra b a d => (32, pack [(2, 1), (6, 0), (5, d.toNat), (5, a.toNat), (5, b.toNat), (9, 7)])
  | .slt b a d => (32, pack [(2, 1), (6, 0), (5, d.toNat), (5, a.toNat), (5, b.toNat), (9, 8)])
  | .sltu b a d => (32, pack [(2, 1), (6, 0), (5, d.toNat), (5, a.toNat), (5, b.toNat), (9, 9)])
  | .min b a d => (32, pack [(2, 1), (6, 0), (5, d.toNat), (5, a.toNat), (5, b.toNat), (9, 10)])
  | .max b a d => (32, pack [(2, 1), (6, 0), (5, d.toNat), (5, a.toNat), (5, b.toNat), (9, 11)])
  | .minu b a d => (32, pack [(2, 1), (6, 0), (5, d.toNat), (5, a.toNat), (5, b.toNat), (9, 12)])
  | .maxu b a d => (32, pack [(2, 1), (6, 0), (5, d.toNat), (5, a.toNat), (5, b.toNat), (9, 13)])
  | .mul b a d => (32, pack [(2, 1), (6, 0), (5, d.toNat), (5, a.toNat), (5, b.toNat), (9, 16)])
  | .mulh b a d => (32, pack [(2, 1), (6, 0), (5, d.toNat), (5, a.toNat), (5, b.toNat), (9, 17)])
  | .mulhu b a d => (32, pack [(2, 1), (6, 0), (5, d.toNat), (5, a.toNat), (5, b.toNat), (9, 18)])
  | .div b a d => (32, pack [(2, 1), (6, 0), (5, d.toNat), (5, a.toNat), (5, b.toNat), (9, 20)])
  | .divu b a d => (32, pack [(2, 1), (6, 0), (5, d.toNat), (5, a.toNat), (5, b.toNat), (9, 21)])
  | .rem b a d => (32, pack [(2, 1), (6, 0), (5, d.toNat), (5, a.toNat), (5, b.toNat), (9, 22)])
  | .remu b a d => (32, pack [(2, 1), (6, 0), (5, d.toNat), (5, a.toNat), (5, b.toNat), (9, 23)])
  | .clz a d => (32, pack [(2, 1), (6, 0), (5, d.toNat), (5, a.toNat), (5, 0), (9, 32)])
  | .ctz a d => (32, pack [(2, 1), (6, 0), (5, d.toNat), (5, a.toNat), (5, 0), (9, 33)])
  | .popc a d => (32, pack [(2, 1), (6, 0), (5, d.toNat), (5, a.toNat), (5, 0), (9, 34)])
  | .addi imm a d => (32, pack [(2, 1), (6, 1), (5, d.toNat), (5, a.toNat), (14, imm.toNat)])
  | .addiLong a d imm32 => (64, pack [(2, 3), (6, 1), (5, d.toNat), (5, a.toNat), (14, 0)] + 2 ^ 32 * imm32.toNat)
  | .andi imm a d => (32, pack [(2, 1), (6, 2), (5, d.toNat), (5, a.toNat), (14, imm.toNat)])
  | .andiLong a d imm32 => (64, pack [(2, 3), (6, 2), (5, d.toNat), (5, a.toNat), (14, 0)] + 2 ^ 32 * imm32.toNat)
  | .ori imm a d => (32, pack [(2, 1), (6, 3), (5, d.toNat), (5, a.toNat), (14, imm.toNat)])
  | .oriLong a d imm32 => (64, pack [(2, 3), (6, 3), (5, d.toNat), (5, a.toNat), (14, 0)] + 2 ^ 32 * imm32.toNat)
  | .xori imm a d => (32, pack [(2, 1), (6, 4), (5, d.toNat), (5, a.toNat), (14, imm.toNat)])
  | .xoriLong a d imm32 => (64, pack [(2, 3), (6, 4), (5, d.toNat), (5, a.toNat), (14, 0)] + 2 ^ 32 * imm32.toNat)
  | .slti imm a d => (32, pack [(2, 1), (6, 5), (5, d.toNat), (5, a.toNat), (14, imm.toNat)])
  | .sltiLong a d imm32 => (64, pack [(2, 3), (6, 5), (5, d.toNat), (5, a.toNat), (14, 0)] + 2 ^ 32 * imm32.toNat)
  | .slli sh a d => (32, pack [(2, 1), (6, 6), (5, d.toNat), (5, a.toNat), (6, sh.toNat), (6, 0), (2, 0)])
  | .srli sh a d => (32, pack [(2, 1), (6, 6), (5, d.toNat), (5, a.toNat), (6, sh.toNat), (6, 0), (2, 1)])
  | .srai sh a d => (32, pack [(2, 1), (6, 6), (5, d.toNat), (5, a.toNat), (6, sh.toNat), (6, 0), (2, 2)])
  | .lih imm d => (32, pack [(2, 1), (6, 7), (5, d.toNat), (5, 0), (14, imm.toNat)])
  | .lihLong d imm32 => (64, pack [(2, 3), (6, 7), (5, d.toNat), (5, 0), (14, 0)] + 2 ^ 32 * imm32.toNat)
  | .liw imm a d => (32, pack [(2, 1), (6, 8), (5, d.toNat), (5, a.toNat), (14, imm.toNat)])
  | .liwLong a d imm32 => (64, pack [(2, 3), (6, 8), (5, d.toNat), (5, a.toNat), (14, 0)] + 2 ^ 32 * imm32.toNat)
  | .ldB imm a d => (32, pack [(2, 1), (6, 12), (5, d.toNat), (5, a.toNat), (4, 0), (10, imm.toNat)])
  | .ldBLong a d imm32 => (64, pack [(2, 3), (6, 12), (5, d.toNat), (5, a.toNat), (4, 0), (10, 0)] + 2 ^ 32 * imm32.toNat)
  | .ldBu imm a d => (32, pack [(2, 1), (6, 12), (5, d.toNat), (5, a.toNat), (4, 1), (10, imm.toNat)])
  | .ldBuLong a d imm32 => (64, pack [(2, 3), (6, 12), (5, d.toNat), (5, a.toNat), (4, 1), (10, 0)] + 2 ^ 32 * imm32.toNat)
  | .ldH imm a d => (32, pack [(2, 1), (6, 12), (5, d.toNat), (5, a.toNat), (4, 2), (10, imm.toNat)])
  | .ldHLong a d imm32 => (64, pack [(2, 3), (6, 12), (5, d.toNat), (5, a.toNat), (4, 2), (10, 0)] + 2 ^ 32 * imm32.toNat)
  | .ldHu imm a d => (32, pack [(2, 1), (6, 12), (5, d.toNat), (5, a.toNat), (4, 3), (10, imm.toNat)])
  | .ldHuLong a d imm32 => (64, pack [(2, 3), (6, 12), (5, d.toNat), (5, a.toNat), (4, 3), (10, 0)] + 2 ^ 32 * imm32.toNat)
  | .ldW imm a d => (32, pack [(2, 1), (6, 12), (5, d.toNat), (5, a.toNat), (4, 4), (10, imm.toNat)])
  | .ldWLong a d imm32 => (64, pack [(2, 3), (6, 12), (5, d.toNat), (5, a.toNat), (4, 4), (10, 0)] + 2 ^ 32 * imm32.toNat)
  | .ldWu imm a d => (32, pack [(2, 1), (6, 12), (5, d.toNat), (5, a.toNat), (4, 5), (10, imm.toNat)])
  | .ldWuLong a d imm32 => (64, pack [(2, 3), (6, 12), (5, d.toNat), (5, a.toNat), (4, 5), (10, 0)] + 2 ^ 32 * imm32.toNat)
  | .ldD imm a d => (32, pack [(2, 1), (6, 12), (5, d.toNat), (5, a.toNat), (4, 6), (10, imm.toNat)])
  | .ldDLong a d imm32 => (64, pack [(2, 3), (6, 12), (5, d.toNat), (5, a.toNat), (4, 6), (10, 0)] + 2 ^ 32 * imm32.toNat)
  | .ldDA8 imm a d => (32, pack [(2, 1), (6, 12), (5, d.toNat), (5, a.toNat), (4, 7), (10, imm.toNat)])
  | .ldDA8Long a d imm32 => (64, pack [(2, 3), (6, 12), (5, d.toNat), (5, a.toNat), (4, 7), (10, 0)] + 2 ^ 32 * imm32.toNat)
  | .stB imm a d => (32, pack [(2, 1), (6, 12), (5, d.toNat), (5, a.toNat), (4, 8), (10, imm.toNat)])
  | .stBLong a d imm32 => (64, pack [(2, 3), (6, 12), (5, d.toNat), (5, a.toNat), (4, 8), (10, 0)] + 2 ^ 32 * imm32.toNat)
  | .stH imm a d => (32, pack [(2, 1), (6, 12), (5, d.toNat), (5, a.toNat), (4, 9), (10, imm.toNat)])
  | .stHLong a d imm32 => (64, pack [(2, 3), (6, 12), (5, d.toNat), (5, a.toNat), (4, 9), (10, 0)] + 2 ^ 32 * imm32.toNat)
  | .stW imm a d => (32, pack [(2, 1), (6, 12), (5, d.toNat), (5, a.toNat), (4, 10), (10, imm.toNat)])
  | .stWLong a d imm32 => (64, pack [(2, 3), (6, 12), (5, d.toNat), (5, a.toNat), (4, 10), (10, 0)] + 2 ^ 32 * imm32.toNat)
  | .stD imm a d => (32, pack [(2, 1), (6, 12), (5, d.toNat), (5, a.toNat), (4, 11), (10, imm.toNat)])
  | .stDLong a d imm32 => (64, pack [(2, 3), (6, 12), (5, d.toNat), (5, a.toNat), (4, 11), (10, 0)] + 2 ^ 32 * imm32.toNat)
  | .stDA8 imm a d => (32, pack [(2, 1), (6, 12), (5, d.toNat), (5, a.toNat), (4, 12), (10, imm.toNat)])
  | .stDA8Long a d imm32 => (64, pack [(2, 3), (6, 12), (5, d.toNat), (5, a.toNat), (4, 12), (10, 0)] + 2 ^ 32 * imm32.toNat)
  | .ldQA16 imm a d => (32, pack [(2, 1), (6, 12), (5, d.toNat), (5, a.toNat), (4, 13), (10, imm.toNat)])
  | .ldQA16Long a d imm32 => (64, pack [(2, 3), (6, 12), (5, d.toNat), (5, a.toNat), (4, 13), (10, 0)] + 2 ^ 32 * imm32.toNat)
  | .stQA16 imm a d => (32, pack [(2, 1), (6, 12), (5, d.toNat), (5, a.toNat), (4, 14), (10, imm.toNat)])
  | .stQA16Long a d imm32 => (64, pack [(2, 3), (6, 12), (5, d.toNat), (5, a.toNat), (4, 14), (10, 0)] + 2 ^ 32 * imm32.toNat)
  | .ldA sz sc a d => (32, pack [(2, 1), (6, 13), (5, d.toNat), (5, a.toNat), (5, 0), (3, sc.toNat), (2, 0), (3, sz.toNat), (1, 0)])
  | .ldALong sz sc a d imm32 => (64, pack [(2, 3), (6, 13), (5, d.toNat), (5, a.toNat), (5, 0), (3, sc.toNat), (2, 0), (3, sz.toNat), (1, 0)] + 2 ^ 32 * imm32.toNat)
  | .stR sz sc a d => (32, pack [(2, 1), (6, 13), (5, d.toNat), (5, a.toNat), (5, 0), (3, sc.toNat), (2, 0), (3, sz.toNat), (1, 1)])
  | .stRLong sz sc a d imm32 => (64, pack [(2, 3), (6, 13), (5, d.toNat), (5, a.toNat), (5, 0), (3, sc.toNat), (2, 0), (3, sz.toNat), (1, 1)] + 2 ^ 32 * imm32.toNat)
  | .amoAdd od sc b a d wide => (32, pack [(2, 1), (6, 14 + bit wide), (5, d.toNat), (5, a.toNat), (5, b.toNat), (3, sc.toNat), (2, od.toNat), (4, 0)])
  | .amoAddLong od sc b a d wide imm32 => (64, pack [(2, 3), (6, 14 + bit wide), (5, d.toNat), (5, a.toNat), (5, b.toNat), (3, sc.toNat), (2, od.toNat), (4, 0)] + 2 ^ 32 * imm32.toNat)
  | .amoAnd od sc b a d wide => (32, pack [(2, 1), (6, 14 + bit wide), (5, d.toNat), (5, a.toNat), (5, b.toNat), (3, sc.toNat), (2, od.toNat), (4, 1)])
  | .amoAndLong od sc b a d wide imm32 => (64, pack [(2, 3), (6, 14 + bit wide), (5, d.toNat), (5, a.toNat), (5, b.toNat), (3, sc.toNat), (2, od.toNat), (4, 1)] + 2 ^ 32 * imm32.toNat)
  | .amoOr od sc b a d wide => (32, pack [(2, 1), (6, 14 + bit wide), (5, d.toNat), (5, a.toNat), (5, b.toNat), (3, sc.toNat), (2, od.toNat), (4, 2)])
  | .amoOrLong od sc b a d wide imm32 => (64, pack [(2, 3), (6, 14 + bit wide), (5, d.toNat), (5, a.toNat), (5, b.toNat), (3, sc.toNat), (2, od.toNat), (4, 2)] + 2 ^ 32 * imm32.toNat)
  | .amoXor od sc b a d wide => (32, pack [(2, 1), (6, 14 + bit wide), (5, d.toNat), (5, a.toNat), (5, b.toNat), (3, sc.toNat), (2, od.toNat), (4, 3)])
  | .amoXorLong od sc b a d wide imm32 => (64, pack [(2, 3), (6, 14 + bit wide), (5, d.toNat), (5, a.toNat), (5, b.toNat), (3, sc.toNat), (2, od.toNat), (4, 3)] + 2 ^ 32 * imm32.toNat)
  | .amoMin od sc b a d wide => (32, pack [(2, 1), (6, 14 + bit wide), (5, d.toNat), (5, a.toNat), (5, b.toNat), (3, sc.toNat), (2, od.toNat), (4, 4)])
  | .amoMinLong od sc b a d wide imm32 => (64, pack [(2, 3), (6, 14 + bit wide), (5, d.toNat), (5, a.toNat), (5, b.toNat), (3, sc.toNat), (2, od.toNat), (4, 4)] + 2 ^ 32 * imm32.toNat)
  | .amoMax od sc b a d wide => (32, pack [(2, 1), (6, 14 + bit wide), (5, d.toNat), (5, a.toNat), (5, b.toNat), (3, sc.toNat), (2, od.toNat), (4, 5)])
  | .amoMaxLong od sc b a d wide imm32 => (64, pack [(2, 3), (6, 14 + bit wide), (5, d.toNat), (5, a.toNat), (5, b.toNat), (3, sc.toNat), (2, od.toNat), (4, 5)] + 2 ^ 32 * imm32.toNat)
  | .amoMinu od sc b a d wide => (32, pack [(2, 1), (6, 14 + bit wide), (5, d.toNat), (5, a.toNat), (5, b.toNat), (3, sc.toNat), (2, od.toNat), (4, 6)])
  | .amoMinuLong od sc b a d wide imm32 => (64, pack [(2, 3), (6, 14 + bit wide), (5, d.toNat), (5, a.toNat), (5, b.toNat), (3, sc.toNat), (2, od.toNat), (4, 6)] + 2 ^ 32 * imm32.toNat)
  | .amoMaxu od sc b a d wide => (32, pack [(2, 1), (6, 14 + bit wide), (5, d.toNat), (5, a.toNat), (5, b.toNat), (3, sc.toNat), (2, od.toNat), (4, 7)])
  | .amoMaxuLong od sc b a d wide imm32 => (64, pack [(2, 3), (6, 14 + bit wide), (5, d.toNat), (5, a.toNat), (5, b.toNat), (3, sc.toNat), (2, od.toNat), (4, 7)] + 2 ^ 32 * imm32.toNat)
  | .amoSwap od sc b a d wide => (32, pack [(2, 1), (6, 14 + bit wide), (5, d.toNat), (5, a.toNat), (5, b.toNat), (3, sc.toNat), (2, od.toNat), (4, 8)])
  | .amoSwapLong od sc b a d wide imm32 => (64, pack [(2, 3), (6, 14 + bit wide), (5, d.toNat), (5, a.toNat), (5, b.toNat), (3, sc.toNat), (2, od.toNat), (4, 8)] + 2 ^ 32 * imm32.toNat)
  | .amoCas od sc b a d wide => (32, pack [(2, 1), (6, 14 + bit wide), (5, d.toNat), (5, a.toNat), (5, b.toNat), (3, sc.toNat), (2, od.toNat), (4, 9)])
  | .amoCasLong od sc b a d wide imm32 => (64, pack [(2, 3), (6, 14 + bit wide), (5, d.toNat), (5, a.toNat), (5, b.toNat), (3, sc.toNat), (2, od.toNat), (4, 9)] + 2 ^ 32 * imm32.toNat)
  | .amoSwapA16 od sc b a d => (32, pack [(2, 1), (6, 15), (5, d.toNat), (5, a.toNat), (5, b.toNat), (3, sc.toNat), (2, od.toNat), (4, 10)])
  | .amoSwapA16Long od sc b a d imm32 => (64, pack [(2, 3), (6, 15), (5, d.toNat), (5, a.toNat), (5, b.toNat), (3, sc.toNat), (2, od.toNat), (4, 10)] + 2 ^ 32 * imm32.toNat)
  | .amoCasA16 od sc b a d => (32, pack [(2, 1), (6, 15), (5, d.toNat), (5, a.toNat), (5, b.toNat), (3, sc.toNat), (2, od.toNat), (4, 11)])
  | .amoCasA16Long od sc b a d imm32 => (64, pack [(2, 3), (6, 15), (5, d.toNat), (5, a.toNat), (5, b.toNat), (3, sc.toNat), (2, od.toNat), (4, 11)] + 2 ^ 32 * imm32.toNat)
  | .fence sc => (32, pack [(2, 1), (6, 19), (5, 0), (5, 0), (5, 0), (3, 0), (3, sc.toNat), (3, 0)])
  | .fenceX sc after before => (32, pack [(2, 1), (6, 19), (1, 0), (7, before.toNat), (7, after.toNat), (3, 0), (3, sc.toNat), (3, 1)])
  | .wfm sc b a d => (32, pack [(2, 1), (6, 19), (5, d.toNat), (5, a.toNat), (5, b.toNat), (3, 0), (3, sc.toNat), (3, 2)])
  | .wfmWake => (0, 0)
  | .waitq qm => (32, pack [(2, 1), (6, 19), (5, qm.toNat), (5, 0), (5, 0), (3, 0), (3, 0), (3, 3)])
  | .beq off a => (32, pack [(2, 1), (6, 16), (5, a.toNat), (5, 0), (14, off.toNat)])
  | .beqLong off a c => (64, pack [(2, 3), (6, 16), (5, a.toNat), (5, 0), (14, off.toNat)] + 2 ^ 32 * c.toNat)
  | .bne off a => (32, pack [(2, 1), (6, 16), (5, a.toNat), (5, 1), (14, off.toNat)])
  | .bneLong off a c => (64, pack [(2, 3), (6, 16), (5, a.toNat), (5, 1), (14, off.toNat)] + 2 ^ 32 * c.toNat)
  | .blt off a => (32, pack [(2, 1), (6, 16), (5, a.toNat), (5, 2), (14, off.toNat)])
  | .bltLong off a c => (64, pack [(2, 3), (6, 16), (5, a.toNat), (5, 2), (14, off.toNat)] + 2 ^ 32 * c.toNat)
  | .bge off a => (32, pack [(2, 1), (6, 16), (5, a.toNat), (5, 3), (14, off.toNat)])
  | .bgeLong off a c => (64, pack [(2, 3), (6, 16), (5, a.toNat), (5, 3), (14, off.toNat)] + 2 ^ 32 * c.toNat)
  | .bltu off a => (32, pack [(2, 1), (6, 16), (5, a.toNat), (5, 4), (14, off.toNat)])
  | .bltuLong off a c => (64, pack [(2, 3), (6, 16), (5, a.toNat), (5, 4), (14, off.toNat)] + 2 ^ 32 * c.toNat)
  | .bgeu off a => (32, pack [(2, 1), (6, 16), (5, a.toNat), (5, 5), (14, off.toNat)])
  | .bgeuLong off a c => (64, pack [(2, 3), (6, 16), (5, a.toNat), (5, 5), (14, off.toNat)] + 2 ^ 32 * c.toNat)
  | .jalr off a => (32, pack [(2, 1), (6, 16), (5, a.toNat), (5, 6), (14, off.toNat)])
  | .jalrLong off a c => (64, pack [(2, 3), (6, 16), (5, a.toNat), (5, 6), (14, off.toNat)] + 2 ^ 32 * c.toNat)
  | .jal off d => (32, pack [(2, 1), (6, 17), (5, d.toNat), (19, off.toNat)])
  | .csrw csr a d => (32, pack [(2, 1), (6, 18), (5, d.toNat), (5, a.toNat), (12, csr.toNat), (2, 1)])
  | .csrs csr a d => (32, pack [(2, 1), (6, 18), (5, d.toNat), (5, a.toNat), (12, csr.toNat), (2, 2)])
  | .csrc csr a d => (32, pack [(2, 1), (6, 18), (5, d.toNat), (5, a.toNat), (12, csr.toNat), (2, 3)])
  | .ecall => (32, pack [(2, 1), (6, 18), (5, 0), (5, 0), (5, 0), (7, 0), (2, 0)])
  | .tret => (32, pack [(2, 1), (6, 18), (5, 0), (5, 0), (5, 0), (7, 1), (2, 0)])
  | .brk code => (32, pack [(2, 1), (6, 18), (5, 0), (5, 0), (5, code.toNat), (7, 2), (2, 0)])
  | .halt => (32, pack [(2, 1), (6, 18), (5, 0), (5, 0), (5, 0), (7, 3), (2, 0)])
  | .yield => (32, pack [(2, 1), (6, 18), (5, 0), (5, 0), (5, 0), (7, 4), (2, 0)])
  | .glaunch a d => (32, pack [(2, 1), (6, 18), (5, d.toNat), (5, a.toNat), (5, 0), (7, 8), (2, 0)])
  | .gexit => (32, pack [(2, 1), (6, 18), (5, 0), (5, 0), (5, 0), (7, 9), (2, 0)])
  | .gbar => (32, pack [(2, 1), (6, 18), (5, 0), (5, 0), (5, 0), (7, 10), (2, 0)])
  | .tlbiVa b a => (32, pack [(2, 1), (6, 18), (5, 0), (5, a.toNat), (5, b.toNat), (7, 16), (2, 0)])
  | .tlbiAs b => (32, pack [(2, 1), (6, 18), (5, 1), (5, 0), (5, b.toNat), (7, 16), (2, 0)])
  | .tlbiAll => (32, pack [(2, 1), (6, 18), (5, 2), (5, 0), (5, 0), (7, 16), (2, 0)])
  | .vaddVv cv mk b a d => (32, pack [(2, 1), (6, 20), (6, d.toNat), (6, a.toNat), (6, b.toNat), (4, 0), (1, bit mk), (1, bit cv)])
  | .vaddVx cv mk g a d => (32, pack [(2, 1), (6, 21), (6, d.toNat), (6, a.toNat), (5, g.toNat), (5, 0), (1, bit mk), (1, bit cv)])
  | .vsubVv cv mk b a d => (32, pack [(2, 1), (6, 20), (6, d.toNat), (6, a.toNat), (6, b.toNat), (4, 1), (1, bit mk), (1, bit cv)])
  | .vsubVx cv mk g a d => (32, pack [(2, 1), (6, 21), (6, d.toNat), (6, a.toNat), (5, g.toNat), (5, 1), (1, bit mk), (1, bit cv)])
  | .vmulVv cv mk b a d => (32, pack [(2, 1), (6, 20), (6, d.toNat), (6, a.toNat), (6, b.toNat), (4, 2), (1, bit mk), (1, bit cv)])
  | .vmulVx cv mk g a d => (32, pack [(2, 1), (6, 21), (6, d.toNat), (6, a.toNat), (5, g.toNat), (5, 2), (1, bit mk), (1, bit cv)])
  | .vminVv cv mk b a d => (32, pack [(2, 1), (6, 20), (6, d.toNat), (6, a.toNat), (6, b.toNat), (4, 3), (1, bit mk), (1, bit cv)])
  | .vminVx cv mk g a d => (32, pack [(2, 1), (6, 21), (6, d.toNat), (6, a.toNat), (5, g.toNat), (5, 3), (1, bit mk), (1, bit cv)])
  | .vmaxVv cv mk b a d => (32, pack [(2, 1), (6, 20), (6, d.toNat), (6, a.toNat), (6, b.toNat), (4, 4), (1, bit mk), (1, bit cv)])
  | .vmaxVx cv mk g a d => (32, pack [(2, 1), (6, 21), (6, d.toNat), (6, a.toNat), (5, g.toNat), (5, 4), (1, bit mk), (1, bit cv)])
  | .vandVv cv mk b a d => (32, pack [(2, 1), (6, 20), (6, d.toNat), (6, a.toNat), (6, b.toNat), (4, 5), (1, bit mk), (1, bit cv)])
  | .vandVx cv mk g a d => (32, pack [(2, 1), (6, 21), (6, d.toNat), (6, a.toNat), (5, g.toNat), (5, 5), (1, bit mk), (1, bit cv)])
  | .vorVv cv mk b a d => (32, pack [(2, 1), (6, 20), (6, d.toNat), (6, a.toNat), (6, b.toNat), (4, 6), (1, bit mk), (1, bit cv)])
  | .vorVx cv mk g a d => (32, pack [(2, 1), (6, 21), (6, d.toNat), (6, a.toNat), (5, g.toNat), (5, 6), (1, bit mk), (1, bit cv)])
  | .vxorVv cv mk b a d => (32, pack [(2, 1), (6, 20), (6, d.toNat), (6, a.toNat), (6, b.toNat), (4, 7), (1, bit mk), (1, bit cv)])
  | .vxorVx cv mk g a d => (32, pack [(2, 1), (6, 21), (6, d.toNat), (6, a.toNat), (5, g.toNat), (5, 7), (1, bit mk), (1, bit cv)])
  | .vsllVv cv mk b a d => (32, pack [(2, 1), (6, 20), (6, d.toNat), (6, a.toNat), (6, b.toNat), (4, 8), (1, bit mk), (1, bit cv)])
  | .vsllVx cv mk g a d => (32, pack [(2, 1), (6, 21), (6, d.toNat), (6, a.toNat), (5, g.toNat), (5, 8), (1, bit mk), (1, bit cv)])
  | .vsrlVv cv mk b a d => (32, pack [(2, 1), (6, 20), (6, d.toNat), (6, a.toNat), (6, b.toNat), (4, 9), (1, bit mk), (1, bit cv)])
  | .vsrlVx cv mk g a d => (32, pack [(2, 1), (6, 21), (6, d.toNat), (6, a.toNat), (5, g.toNat), (5, 9), (1, bit mk), (1, bit cv)])
  | .vsraVv cv mk b a d => (32, pack [(2, 1), (6, 20), (6, d.toNat), (6, a.toNat), (6, b.toNat), (4, 10), (1, bit mk), (1, bit cv)])
  | .vsraVx cv mk g a d => (32, pack [(2, 1), (6, 21), (6, d.toNat), (6, a.toNat), (5, g.toNat), (5, 10), (1, bit mk), (1, bit cv)])
  | .vmulhVv cv mk b a d => (32, pack [(2, 1), (6, 20), (6, d.toNat), (6, a.toNat), (6, b.toNat), (4, 11), (1, bit mk), (1, bit cv)])
  | .vmulhVx cv mk g a d => (32, pack [(2, 1), (6, 21), (6, d.toNat), (6, a.toNat), (5, g.toNat), (5, 11), (1, bit mk), (1, bit cv)])
  | .vsaddVv cv mk b a d => (32, pack [(2, 1), (6, 20), (6, d.toNat), (6, a.toNat), (6, b.toNat), (4, 12), (1, bit mk), (1, bit cv)])
  | .vsaddVx cv mk g a d => (32, pack [(2, 1), (6, 21), (6, d.toNat), (6, a.toNat), (5, g.toNat), (5, 12), (1, bit mk), (1, bit cv)])
  | .vssubVv cv mk b a d => (32, pack [(2, 1), (6, 20), (6, d.toNat), (6, a.toNat), (6, b.toNat), (4, 13), (1, bit mk), (1, bit cv)])
  | .vssubVx cv mk g a d => (32, pack [(2, 1), (6, 21), (6, d.toNat), (6, a.toNat), (5, g.toNat), (5, 13), (1, bit mk), (1, bit cv)])
  | .vavgVv cv mk b a d => (32, pack [(2, 1), (6, 20), (6, d.toNat), (6, a.toNat), (6, b.toNat), (4, 14), (1, bit mk), (1, bit cv)])
  | .vavgVx cv mk g a d => (32, pack [(2, 1), (6, 21), (6, d.toNat), (6, a.toNat), (5, g.toNat), (5, 14), (1, bit mk), (1, bit cv)])
  | .vdivVv cv mk b a d => (32, pack [(2, 1), (6, 20), (6, d.toNat), (6, a.toNat), (6, b.toNat), (4, 15), (1, bit mk), (1, bit cv)])
  | .vdivVx cv mk g a d => (32, pack [(2, 1), (6, 21), (6, d.toNat), (6, a.toNat), (5, g.toNat), (5, 15), (1, bit mk), (1, bit cv)])
  | .vsplat cv mk g d => (32, pack [(2, 1), (6, 21), (6, d.toNat), (6, 0), (5, g.toNat), (5, 16), (1, bit mk), (1, bit cv)])
  | .vfma cv mk b a d => (32, pack [(2, 1), (6, 22), (6, d.toNat), (6, a.toNat), (6, b.toNat), (4, 0), (1, bit mk), (1, bit cv)])
  | .vfms cv mk b a d => (32, pack [(2, 1), (6, 22), (6, d.toNat), (6, a.toNat), (6, b.toNat), (4, 1), (1, bit mk), (1, bit cv)])
  | .vfnma cv mk b a d => (32, pack [(2, 1), (6, 22), (6, d.toNat), (6, a.toNat), (6, b.toNat), (4, 2), (1, bit mk), (1, bit cv)])
  | .vsqrt cv mk b x d => (32, pack [(2, 1), (6, 22), (6, d.toNat), (6, x.toNat), (6, b.toNat), (4, 3), (1, bit mk), (1, bit cv)])
  | .vrcp cv mk b x d => (32, pack [(2, 1), (6, 22), (6, d.toNat), (6, x.toNat), (6, b.toNat), (4, 4), (1, bit mk), (1, bit cv)])
  | .vrsq cv mk b x d => (32, pack [(2, 1), (6, 22), (6, d.toNat), (6, x.toNat), (6, b.toNat), (4, 5), (1, bit mk), (1, bit cv)])
  | .vexp cv mk b x d => (32, pack [(2, 1), (6, 22), (6, d.toNat), (6, x.toNat), (6, b.toNat), (4, 6), (1, bit mk), (1, bit cv)])
  | .vlog2 cv mk b x d => (32, pack [(2, 1), (6, 22), (6, d.toNat), (6, x.toNat), (6, b.toNat), (4, 7), (1, bit mk), (1, bit cv)])
  | .vabs cv mk b x d => (32, pack [(2, 1), (6, 22), (6, d.toNat), (6, x.toNat), (6, b.toNat), (4, 8), (1, bit mk), (1, bit cv)])
  | .vneg cv mk b x d => (32, pack [(2, 1), (6, 22), (6, d.toNat), (6, x.toNat), (6, b.toNat), (4, 9), (1, bit mk), (1, bit cv)])
  | .vnot cv mk b x d => (32, pack [(2, 1), (6, 22), (6, d.toNat), (6, x.toNat), (6, b.toNat), (4, 10), (1, bit mk), (1, bit cv)])
  | .vmov cv mk b x d => (32, pack [(2, 1), (6, 22), (6, d.toNat), (6, x.toNat), (6, b.toNat), (4, 11), (1, bit mk), (1, bit cv)])
  | .vcmpEqVv cv mk b a d => (32, pack [(2, 1), (6, 23), (6, d.toNat), (6, a.toNat), (6, b.toNat), (4, 0), (1, bit mk), (1, bit cv)])
  | .vcmpNeVv cv mk b a d => (32, pack [(2, 1), (6, 23), (6, d.toNat), (6, a.toNat), (6, b.toNat), (4, 1), (1, bit mk), (1, bit cv)])
  | .vcmpLtVv cv mk b a d => (32, pack [(2, 1), (6, 23), (6, d.toNat), (6, a.toNat), (6, b.toNat), (4, 2), (1, bit mk), (1, bit cv)])
  | .vcmpLeVv cv mk b a d => (32, pack [(2, 1), (6, 23), (6, d.toNat), (6, a.toNat), (6, b.toNat), (4, 3), (1, bit mk), (1, bit cv)])
  | .vcmpGtVv cv mk b a d => (32, pack [(2, 1), (6, 23), (6, d.toNat), (6, a.toNat), (6, b.toNat), (4, 4), (1, bit mk), (1, bit cv)])
  | .vcmpGeVv cv mk b a d => (32, pack [(2, 1), (6, 23), (6, d.toNat), (6, a.toNat), (6, b.toNat), (4, 5), (1, bit mk), (1, bit cv)])
  | .vcmpEqVx cv mk g a d => (32, pack [(2, 1), (6, 24), (6, d.toNat), (6, a.toNat), (5, g.toNat), (5, 0), (1, bit mk), (1, bit cv)])
  | .vcmpNeVx cv mk g a d => (32, pack [(2, 1), (6, 24), (6, d.toNat), (6, a.toNat), (5, g.toNat), (5, 1), (1, bit mk), (1, bit cv)])
  | .vcmpLtVx cv mk g a d => (32, pack [(2, 1), (6, 24), (6, d.toNat), (6, a.toNat), (5, g.toNat), (5, 2), (1, bit mk), (1, bit cv)])
  | .vcmpLeVx cv mk g a d => (32, pack [(2, 1), (6, 24), (6, d.toNat), (6, a.toNat), (5, g.toNat), (5, 3), (1, bit mk), (1, bit cv)])
  | .vcmpGtVx cv mk g a d => (32, pack [(2, 1), (6, 24), (6, d.toNat), (6, a.toNat), (5, g.toNat), (5, 4), (1, bit mk), (1, bit cv)])
  | .vcmpGeVx cv mk g a d => (32, pack [(2, 1), (6, 24), (6, d.toNat), (6, a.toNat), (5, g.toNat), (5, 5), (1, bit mk), (1, bit cv)])
  | .vwmacVv cv mk b a d => (32, pack [(2, 1), (6, 28), (6, d.toNat), (6, a.toNat), (6, b.toNat), (4, 0), (1, bit mk), (1, bit cv)])
  | .vsad cv mk b a d => (32, pack [(2, 1), (6, 28), (6, d.toNat), (6, a.toNat), (6, b.toNat), (4, 1), (1, bit mk), (1, bit cv)])
  | .vwmacVx cv mk g a d => (32, pack [(2, 1), (6, 29), (6, d.toNat), (6, a.toNat), (5, g.toNat), (5, 0), (1, bit mk), (1, bit cv)])
  | .vnshr cv mk g a d => (32, pack [(2, 1), (6, 29), (6, d.toNat), (6, a.toNat), (5, g.toNat), (5, 1), (1, bit mk), (1, bit cv)])
  | .vclip cv mk g a d => (32, pack [(2, 1), (6, 29), (6, d.toNat), (6, a.toNat), (5, g.toNat), (5, 2), (1, bit mk), (1, bit cv)])
  | .vredSum cv mk a d => (32, pack [(2, 1), (6, 30), (6, d.toNat), (6, a.toNat), (6, 0), (4, 0), (1, bit mk), (1, bit cv)])
  | .vredMax cv mk a d => (32, pack [(2, 1), (6, 30), (6, d.toNat), (6, a.toNat), (6, 0), (4, 1), (1, bit mk), (1, bit cv)])
  | .vredMin cv mk a d => (32, pack [(2, 1), (6, 30), (6, d.toNat), (6, a.toNat), (6, 0), (4, 2), (1, bit mk), (1, bit cv)])
  | .vredAnd cv mk a d => (32, pack [(2, 1), (6, 30), (6, d.toNat), (6, a.toNat), (6, 0), (4, 3), (1, bit mk), (1, bit cv)])
  | .vredOr cv mk a d => (32, pack [(2, 1), (6, 30), (6, d.toNat), (6, a.toNat), (6, 0), (4, 4), (1, bit mk), (1, bit cv)])
  | .vredoSum cv mk b a d => (32, pack [(2, 1), (6, 30), (6, d.toNat), (6, a.toNat), (6, b.toNat), (4, 5), (1, bit mk), (1, bit cv)])
  | .vscanAdd cv mk a d => (32, pack [(2, 1), (6, 30), (6, d.toNat), (6, a.toNat), (6, 0), (4, 6), (1, bit mk), (1, bit cv)])
  | .vscanMax cv mk a d => (32, pack [(2, 1), (6, 30), (6, d.toNat), (6, a.toNat), (6, 0), (4, 7), (1, bit mk), (1, bit cv)])
  | .vscanMin cv mk a d => (32, pack [(2, 1), (6, 30), (6, d.toNat), (6, a.toNat), (6, 0), (4, 8), (1, bit mk), (1, bit cv)])
  | .vrgather cv mk b a d => (32, pack [(2, 1), (6, 30), (6, d.toNat), (6, a.toNat), (6, b.toNat), (4, 9), (1, bit mk), (1, bit cv)])
  | .vcompress cv b a d => (32, pack [(2, 1), (6, 30), (6, d.toNat), (6, a.toNat), (6, b.toNat), (4, 10), (1, 0), (1, bit cv)])
  | .vexpand cv b a d => (32, pack [(2, 1), (6, 30), (6, d.toNat), (6, a.toNat), (6, b.toNat), (4, 11), (1, 0), (1, bit cv)])
  | .vmergeM cv b a d => (32, pack [(2, 1), (6, 30), (6, d.toNat), (6, a.toNat), (6, b.toNat), (4, 12), (1, 1), (1, bit cv)])
  | .vtrans8 cv d => (32, pack [(2, 1), (6, 30), (6, d.toNat), (6, 0), (6, 0), (4, 13), (1, 0), (1, bit cv)])
  | .vid cv mk d => (32, pack [(2, 1), (6, 31), (6, d.toNat), (6, 0), (5, 0), (5, 0), (1, bit mk), (1, bit cv)])
  | .viota cv mk a d => (32, pack [(2, 1), (6, 31), (6, d.toNat), (6, a.toNat), (5, 0), (5, 1), (1, bit mk), (1, bit cv)])
  | .vslideup cv mk g a d => (32, pack [(2, 1), (6, 31), (6, d.toNat), (6, a.toNat), (5, g.toNat), (5, 2), (1, bit mk), (1, bit cv)])
  | .vslidedn cv mk g a d => (32, pack [(2, 1), (6, 31), (6, d.toNat), (6, a.toNat), (5, g.toNat), (5, 3), (1, bit mk), (1, bit cv)])
  | .vext cv g a d => (32, pack [(2, 1), (6, 31), (6, d.toNat), (6, a.toNat), (5, g.toNat), (5, 4), (1, 0), (1, bit cv)])
  | .vins cv g a d => (32, pack [(2, 1), (6, 31), (6, d.toNat), (6, a.toNat), (5, g.toNat), (5, 5), (1, 0), (1, bit cv)])
  | .mpopc cv mk a d => (32, pack [(2, 1), (6, 31), (6, d.toNat), (6, a.toNat), (5, 0), (5, 6), (1, bit mk), (1, bit cv)])
  | .mfirst cv mk a d => (32, pack [(2, 1), (6, 31), (6, d.toNat), (6, a.toNat), (5, 0), (5, 7), (1, bit mk), (1, bit cv)])
  | .vld cv mk ord fm a8 g d => (32, pack [(2, 1), (6, 32), (6, d.toNat), (6, 0), (5, g.toNat), (1, bit a8), (1, bit fm), (1, bit ord), (2, 0), (1, bit mk), (1, bit cv)])
  | .vldLong cv mk ord fm a8 g d imm32 => (64, pack [(2, 3), (6, 32), (6, d.toNat), (6, 0), (5, g.toNat), (1, bit a8), (1, bit fm), (1, bit ord), (2, 0), (1, bit mk), (1, bit cv)] + 2 ^ 32 * imm32.toNat)
  | .vlds cv mk ord fm a8 g st d => (32, pack [(2, 1), (6, 32), (6, d.toNat), (6, st.toNat), (5, g.toNat), (1, bit a8), (1, bit fm), (1, bit ord), (2, 1), (1, bit mk), (1, bit cv)])
  | .vldsLong cv mk ord fm a8 g st d imm32 => (64, pack [(2, 3), (6, 32), (6, d.toNat), (6, st.toNat), (5, g.toNat), (1, bit a8), (1, bit fm), (1, bit ord), (2, 1), (1, bit mk), (1, bit cv)] + 2 ^ 32 * imm32.toNat)
  | .vldx cv mk ord fm a8 g a d => (32, pack [(2, 1), (6, 32), (6, d.toNat), (6, a.toNat), (5, g.toNat), (1, bit a8), (1, bit fm), (1, bit ord), (2, 2), (1, bit mk), (1, bit cv)])
  | .vldxLong cv mk ord fm a8 g a d imm32 => (64, pack [(2, 3), (6, 32), (6, d.toNat), (6, a.toNat), (5, g.toNat), (1, bit a8), (1, bit fm), (1, bit ord), (2, 2), (1, bit mk), (1, bit cv)] + 2 ^ 32 * imm32.toNat)
  | .vldseg cv mk ord fm a8 g nf d => (32, pack [(2, 1), (6, 32), (6, d.toNat), (6, nf.toNat), (5, g.toNat), (1, bit a8), (1, bit fm), (1, bit ord), (2, 3), (1, bit mk), (1, bit cv)])
  | .vldsegLong cv mk ord fm a8 g nf d imm32 => (64, pack [(2, 3), (6, 32), (6, d.toNat), (6, nf.toNat), (5, g.toNat), (1, bit a8), (1, bit fm), (1, bit ord), (2, 3), (1, bit mk), (1, bit cv)] + 2 ^ 32 * imm32.toNat)
  | .vst cv mk ord fm a8 g d => (32, pack [(2, 1), (6, 33), (6, d.toNat), (6, 0), (5, g.toNat), (1, bit a8), (1, bit fm), (1, bit ord), (2, 0), (1, bit mk), (1, bit cv)])
  | .vstLong cv mk ord fm a8 g d imm32 => (64, pack [(2, 3), (6, 33), (6, d.toNat), (6, 0), (5, g.toNat), (1, bit a8), (1, bit fm), (1, bit ord), (2, 0), (1, bit mk), (1, bit cv)] + 2 ^ 32 * imm32.toNat)
  | .vsts cv mk ord fm a8 g st d => (32, pack [(2, 1), (6, 33), (6, d.toNat), (6, st.toNat), (5, g.toNat), (1, bit a8), (1, bit fm), (1, bit ord), (2, 1), (1, bit mk), (1, bit cv)])
  | .vstsLong cv mk ord fm a8 g st d imm32 => (64, pack [(2, 3), (6, 33), (6, d.toNat), (6, st.toNat), (5, g.toNat), (1, bit a8), (1, bit fm), (1, bit ord), (2, 1), (1, bit mk), (1, bit cv)] + 2 ^ 32 * imm32.toNat)
  | .vstx cv mk ord fm a8 g a d => (32, pack [(2, 1), (6, 33), (6, d.toNat), (6, a.toNat), (5, g.toNat), (1, bit a8), (1, bit fm), (1, bit ord), (2, 2), (1, bit mk), (1, bit cv)])
  | .vstxLong cv mk ord fm a8 g a d imm32 => (64, pack [(2, 3), (6, 33), (6, d.toNat), (6, a.toNat), (5, g.toNat), (1, bit a8), (1, bit fm), (1, bit ord), (2, 2), (1, bit mk), (1, bit cv)] + 2 ^ 32 * imm32.toNat)
  | .vstseg cv mk ord fm a8 g nf d => (32, pack [(2, 1), (6, 33), (6, d.toNat), (6, nf.toNat), (5, g.toNat), (1, bit a8), (1, bit fm), (1, bit ord), (2, 3), (1, bit mk), (1, bit cv)])
  | .vstsegLong cv mk ord fm a8 g nf d imm32 => (64, pack [(2, 3), (6, 33), (6, d.toNat), (6, nf.toNat), (5, g.toNat), (1, bit a8), (1, bit fm), (1, bit ord), (2, 3), (1, bit mk), (1, bit cv)] + 2 ^ 32 * imm32.toNat)
  | .vldc g a d => (32, pack [(2, 1), (6, 34), (6, d.toNat), (6, a.toNat), (5, g.toNat), (5, 0), (1, 0), (1, 0)])
  | .vamoAdd cv mk ord g a d => (32, pack [(2, 1), (6, 34), (6, d.toNat), (6, a.toNat), (5, g.toNat), (5, 1 + 16 * bit ord), (1, bit mk), (1, bit cv)])
  | .vamoAddLong cv mk ord g a d imm32 => (64, pack [(2, 3), (6, 34), (6, d.toNat), (6, a.toNat), (5, g.toNat), (5, 1 + 16 * bit ord), (1, bit mk), (1, bit cv)] + 2 ^ 32 * imm32.toNat)
  | .vamoMax cv mk ord g a d => (32, pack [(2, 1), (6, 34), (6, d.toNat), (6, a.toNat), (5, g.toNat), (5, 2 + 16 * bit ord), (1, bit mk), (1, bit cv)])
  | .vamoMaxLong cv mk ord g a d imm32 => (64, pack [(2, 3), (6, 34), (6, d.toNat), (6, a.toNat), (5, g.toNat), (5, 2 + 16 * bit ord), (1, bit mk), (1, bit cv)] + 2 ^ 32 * imm32.toNat)
  | .vamoMin cv mk ord g a d => (32, pack [(2, 1), (6, 34), (6, d.toNat), (6, a.toNat), (5, g.toNat), (5, 3 + 16 * bit ord), (1, bit mk), (1, bit cv)])
  | .vamoMinLong cv mk ord g a d imm32 => (64, pack [(2, 3), (6, 34), (6, d.toNat), (6, a.toNat), (5, g.toNat), (5, 3 + 16 * bit ord), (1, bit mk), (1, bit cv)] + 2 ^ 32 * imm32.toNat)
  | .vamoSwap cv mk ord g a d => (32, pack [(2, 1), (6, 34), (6, d.toNat), (6, a.toNat), (5, g.toNat), (5, 4 + 16 * bit ord), (1, bit mk), (1, bit cv)])
  | .vamoSwapLong cv mk ord g a d imm32 => (64, pack [(2, 3), (6, 34), (6, d.toNat), (6, a.toNat), (5, g.toNat), (5, 4 + 16 * bit ord), (1, bit mk), (1, bit cv)] + 2 ^ 32 * imm32.toNat)
  | .vmcast cv mk g a d => (32, pack [(2, 1), (6, 34), (6, d.toNat), (6, a.toNat), (5, g.toNat), (5, 8), (1, bit mk), (1, bit cv)])
  | .vsave g => (32, pack [(2, 1), (6, 34), (6, 0), (6, 0), (5, g.toNat), (5, 9), (1, 0), (1, 0)])
  | .vrest g => (32, pack [(2, 1), (6, 34), (6, 0), (6, 0), (5, g.toNat), (5, 10), (1, 0), (1, 0)])
  | .vpop cv mk a d => (32, pack [(2, 1), (6, 35), (6, d.toNat), (6, a.toNat), (5, 0), (5, 0), (1, bit mk), (1, bit cv)])
  | .vpush cv mk a d => (32, pack [(2, 1), (6, 35), (6, d.toNat), (6, a.toNat), (5, 0), (5, 1), (1, bit mk), (1, bit cv)])
  | .sbind g d => (32, pack [(2, 1), (6, 39), (6, d.toNat), (6, 0), (5, g.toNat), (5, 0), (1, 0), (1, 0)])
  | .sfree d => (32, pack [(2, 1), (6, 39), (6, d.toNat), (6, 0), (5, 0), (5, 1), (1, 0), (1, 0)])
  | .streamReadAhead _ _ => (0, 0)
  | .vcfg g => (32, pack [(2, 1), (6, 36), (6, 0), (6, 0), (5, g.toNat), (5, 0), (1, 0), (1, 0)])
  | .vtag t d => (32, pack [(2, 1), (6, 36), (6, d.toNat), (6, t.toNat), (5, 0), (5, 1), (1, 0), (1, 0)])
  | .vwinV g d => (32, pack [(2, 1), (6, 36), (6, d.toNat), (6, 0), (5, g.toNat), (5, 2), (1, 0), (1, 0)])
  | .vwinM g d => (32, pack [(2, 1), (6, 36), (6, d.toNat), (6, 0), (5, g.toNat), (5, 3), (1, 0), (1, 0)])
  | .vsetl g d => (32, pack [(2, 1), (6, 36), (6, d.toNat), (6, 0), (5, g.toNat), (5, 4), (1, 0), (1, 0)])
  | .vloop g => (32, pack [(2, 1), (6, 36), (6, 0), (6, 0), (5, g.toNat), (5, 5), (1, 0), (1, 0)])
  | .vnext off => (32, pack [(2, 1), (6, 36), (17, off.toNat), (5, 6), (1, 0), (1, 0)])
  | .vflat g d => (32, pack [(2, 1), (6, 36), (6, d.toNat), (6, 0), (5, g.toNat), (5, 7), (1, 0), (1, 0)])
  | .vrgn a n => (32, pack [(2, 1), (6, 36), (6, n.toNat), (6, a.toNat), (5, 0), (5, 8), (1, 0), (1, 0)])
  | .winset g d => (32, pack [(2, 1), (6, 37), (6, d.toNat), (6, 0), (5, g.toNat), (5, 0), (1, 0), (1, 0)])
  | .winclr d => (32, pack [(2, 1), (6, 37), (6, d.toNat), (6, 0), (5, 0), (5, 1), (1, 0), (1, 0)])
  | .winclrD d => (32, pack [(2, 1), (6, 37), (6, d.toNat), (6, 0), (5, 0), (5, 2), (1, 0), (1, 0)])
  | .winwait d => (32, pack [(2, 1), (6, 37), (6, d.toNat), (6, 0), (5, 0), (5, 3), (1, 0), (1, 0)])
  | .winflush d => (32, pack [(2, 1), (6, 37), (6, d.toNat), (6, 0), (5, 0), (5, 4), (1, 0), (1, 0)])
  | .lcset g imm d => (32, pack [(2, 1), (6, 37), (6, d.toNat), (6, imm.toNat), (5, g.toNat), (5, 5), (1, 0), (1, 0)])
  | .lcsetLong g imm d imm32 => (64, pack [(2, 3), (6, 37), (6, d.toNat), (6, imm.toNat), (5, g.toNat), (5, 5), (1, 0), (1, 0)] + 2 ^ 32 * imm32.toNat)
  | .lcadv g imm d => (32, pack [(2, 1), (6, 37), (6, d.toNat), (6, imm.toNat), (5, g.toNat), (5, 6), (1, 0), (1, 0)])
  | .lcadvLong g imm d imm32 => (64, pack [(2, 3), (6, 37), (6, d.toNat), (6, imm.toNat), (5, g.toNat), (5, 6), (1, 0), (1, 0)] + 2 ^ 32 * imm32.toNat)
  | .advance => (0, 0)
  | .lcrd a d => (32, pack [(2, 1), (6, 37), (6, d.toNat), (6, a.toNat), (5, 0), (5, 7), (1, 0), (1, 0)])
  | .winq a d => (32, pack [(2, 1), (6, 37), (6, d.toNat), (6, a.toNat), (5, 0), (5, 8), (1, 0), (1, 0)])
  | .vldw cv mk dim g a d => (32, pack [(2, 1), (6, 38), (6, d.toNat), (6, a.toNat), (5, g.toNat), (5, 0 + dim.toNat), (1, bit mk), (1, bit cv)])
  | .vstw cv mk dim g a d => (32, pack [(2, 1), (6, 38), (6, d.toNat), (6, a.toNat), (5, g.toNat), (5, 16 + dim.toNat), (1, bit mk), (1, bit cv)])
  | .lineArrival _ _ => (0, 0)
  | .residencyPrefetch _ _ => (0, 0)
  | .earlyWriteback _ _ => (0, 0)
  | .vscmpLt cv mk b a d => (32, pack [(2, 1), (6, 40), (6, d.toNat), (6, a.toNat), (6, b.toNat), (4, 0), (1, bit mk), (1, bit cv)])
  | .vscmpLe cv mk b a d => (32, pack [(2, 1), (6, 40), (6, d.toNat), (6, a.toNat), (6, b.toNat), (4, 1), (1, bit mk), (1, bit cv)])
  | .vscmpGt cv mk b a d => (32, pack [(2, 1), (6, 40), (6, d.toNat), (6, a.toNat), (6, b.toNat), (4, 2), (1, bit mk), (1, bit cv)])
  | .vscmpGe cv mk b a d => (32, pack [(2, 1), (6, 40), (6, d.toNat), (6, a.toNat), (6, b.toNat), (4, 3), (1, bit mk), (1, bit cv)])
  | .pandInd cv mk b a d => (32, pack [(2, 1), (6, 40), (6, d.toNat), (6, a.toNat), (6, b.toNat), (4, 4), (1, bit mk), (1, bit cv)])
  | .pandPos cv mk b a d => (32, pack [(2, 1), (6, 40), (6, d.toNat), (6, a.toNat), (6, b.toNat), (4, 5), (1, bit mk), (1, bit cv)])
  | .pandNeg cv mk b a d => (32, pack [(2, 1), (6, 40), (6, d.toNat), (6, a.toNat), (6, b.toNat), (4, 6), (1, bit mk), (1, bit cv)])
  | .porInd cv mk b a d => (32, pack [(2, 1), (6, 40), (6, d.toNat), (6, a.toNat), (6, b.toNat), (4, 8), (1, bit mk), (1, bit cv)])
  | .porPos cv mk b a d => (32, pack [(2, 1), (6, 40), (6, d.toNat), (6, a.toNat), (6, b.toNat), (4, 9), (1, bit mk), (1, bit cv)])
  | .porNeg cv mk b a d => (32, pack [(2, 1), (6, 40), (6, d.toNat), (6, a.toNat), (6, b.toNat), (4, 10), (1, bit mk), (1, bit cv)])
  | .pnot cv mk b x d => (32, pack [(2, 1), (6, 40), (6, d.toNat), (6, x.toNat), (6, b.toNat), (4, 12), (1, bit mk), (1, bit cv)])
  | .pblendM cv b a d => (32, pack [(2, 1), (6, 40), (6, d.toNat), (6, a.toNat), (6, b.toNat), (4, 13), (1, 1), (1, bit cv)])
  | .pcoll cv mk a d => (32, pack [(2, 1), (6, 41), (6, d.toNat), (6, a.toNat), (6, 0), (4, 0), (1, bit mk), (1, bit cv)])
  | .pthr cv mk a d => (32, pack [(2, 1), (6, 41), (6, d.toNat), (6, a.toNat), (6, 0), (4, 1), (1, bit mk), (1, bit cv)])
  | .pgrad cv mk a d => (32, pack [(2, 1), (6, 41), (6, d.toNat), (6, a.toNat), (6, 0), (4, 2), (1, bit mk), (1, bit cv)])
  | .pgradSt cv mk a d => (32, pack [(2, 1), (6, 41), (6, d.toNat), (6, a.toNat), (6, 0), (4, 3), (1, bit mk), (1, bit cv)])
  | .pbgrad cv mk b a d => (32, pack [(2, 1), (6, 41), (6, d.toNat), (6, a.toNat), (6, b.toNat), (4, 4), (1, bit mk), (1, bit cv)])
  | .pmovV cv mk a d => (32, pack [(2, 1), (6, 41), (6, d.toNat), (6, a.toNat), (6, 0), (4, 5), (1, bit mk), (1, bit cv)])
  | .pmovM cv mk a d => (32, pack [(2, 1), (6, 41), (6, d.toNat), (6, a.toNat), (6, 0), (4, 6), (1, bit mk), (1, bit cv)])
  | .xpa cv mk pb pa b a d => (32, pack [(2, 1), (6, 42), (6, d.toNat), (6, a.toNat), (6, b.toNat), (2, 0), (1, bit pa), (1, bit pb), (1, bit mk), (1, bit cv)])
  | .xps cv mk pb pa b a d => (32, pack [(2, 1), (6, 42), (6, d.toNat), (6, a.toNat), (6, b.toNat), (2, 1), (1, bit pa), (1, bit pb), (1, bit mk), (1, bit cv)])
  | .xpaI cv mk pb pa b a d => (32, pack [(2, 1), (6, 42), (6, d.toNat), (6, a.toNat), (6, b.toNat), (2, 2), (1, bit pa), (1, bit pb), (1, bit mk), (1, bit cv)])
  | .xpaS cv mk b a d => (32, pack [(2, 1), (6, 42), (6, d.toNat), (6, a.toNat), (6, b.toNat), (2, 3), (1, 0), (1, 0), (1, bit mk), (1, bit cv)])
  | .mxon g => (32, pack [(2, 1), (6, 43), (6, 0), (6, 0), (5, g.toNat), (5, 0), (1, 0), (1, 0)])
  | .matrixAcquire => (0, 0)
  | .mxoff => (32, pack [(2, 1), (6, 43), (6, 0), (6, 0), (5, 0), (5, 1), (1, 0), (1, 0)])
  | .mzero d => (32, pack [(2, 1), (6, 43), (6, d.toNat), (6, 0), (5, 0), (5, 2), (1, 0), (1, 0)])
  | .mrdV mk g a d => (32, pack [(2, 1), (6, 43), (6, d.toNat), (6, a.toNat), (5, g.toNat), (5, 3), (1, bit mk), (1, 0)])
  | .mrdG g a d => (32, pack [(2, 1), (6, 43), (6, d.toNat), (6, a.toNat), (5, g.toNat), (5, 4), (1, 0), (1, 0)])
  | .mwr mk g a d => (32, pack [(2, 1), (6, 43), (6, d.toNat), (6, a.toNat), (5, g.toNat), (5, 5), (1, bit mk), (1, 0)])
  | .mld g a d => (32, pack [(2, 1), (6, 43), (6, d.toNat), (6, a.toNat), (5, g.toNat), (5, 6), (1, 0), (1, 0)])
  | .mst g a d => (32, pack [(2, 1), (6, 43), (6, d.toNat), (6, a.toNat), (5, g.toNat), (5, 7), (1, 0), (1, 0)])
  | .enq mk a d => (32, pack [(2, 1), (6, 44), (6, d.toNat), (6, a.toNat), (5, 0), (5, 0), (1, bit mk), (1, 0)])
  | .cVadd b d => (16, pack [(1, 0), (4, 0), (6, d.toNat), (5, b.toNat)])
  | .cVsub b d => (16, pack [(1, 0), (4, 1), (6, d.toNat), (5, b.toNat)])
  | .cVmul b d => (16, pack [(1, 0), (4, 2), (6, d.toNat), (5, b.toNat)])
  | .cVfma b d => (16, pack [(1, 0), (4, 3), (6, d.toNat), (5, b.toNat)])
  | .cVmin b d => (16, pack [(1, 0), (4, 4), (6, d.toNat), (5, b.toNat)])
  | .cVmax b d => (16, pack [(1, 0), (4, 5), (6, d.toNat), (5, b.toNat)])
  | .cVand b d => (16, pack [(1, 0), (4, 6), (6, d.toNat), (5, b.toNat)])
  | .cVor b d => (16, pack [(1, 0), (4, 7), (6, d.toNat), (5, b.toNat)])
  | .cVxor b d => (16, pack [(1, 0), (4, 8), (6, d.toNat), (5, b.toNat)])
  | .cVmov b d => (16, pack [(1, 0), (4, 9), (6, d.toNat), (5, b.toNat)])
  | .cVabs b d => (16, pack [(1, 0), (4, 10), (6, d.toNat), (5, b.toNat)])
  | .cVneg b d => (16, pack [(1, 0), (4, 11), (6, d.toNat), (5, b.toNat)])
  | .cVsadd b d => (16, pack [(1, 0), (4, 12), (6, d.toNat), (5, b.toNat)])
  | .cVssub b d => (16, pack [(1, 0), (4, 13), (6, d.toNat), (5, b.toNat)])
  | .cVavg b d => (16, pack [(1, 0), (4, 14), (6, d.toNat), (5, b.toNat)])
  | .pageWalk _ _ => (0, 0)
  | .copy _ => (0, 0)
  | .copyt _ => (0, 0)
  | .fprint _ => (0, 0)
  | .decode _ => (0, 0)
  | .decodeWatchdogCut _ _ _ => (0, 0)
  | .topk _ => (0, 0)
  | .ring _ => (0, 0)
  | .srd _ => (0, 0)
  | .swr _ => (0, 0)
  | .flcfg _ => (0, 0)
  | .flcfgEmpty _ => (0, 0)
  | .flrun _ => (0, 0)
  | .gangReady _ => (0, 0)
  | .gangPlace _ => (0, 0)
  | .nextPreload _ => (0, 0)
  | .priorityAging _ => (0, 0)
  | .priorityRise _ => (0, 0)
  | .budgetOverrun _ => (0, 0)
  | .hartHalt _ => (0, 0)
  | .kill _ => (0, 0)
  | .rerun _ => (0, 0)
  | .resume _ => (0, 0)
  | .patrolScrub _ _ => (0, 0)
  | .errorLogRead _ _ => (0, 0)
  | .persistentFault _ _ _ _ => (0, 0)
  | .noiseHealthFailure _ _ => (0, 0)
  | .hostPostedWrite _ _ => (0, 0)
  | .hostRead _ _ => (0, 0)
  | .startSupervisor _ => (0, 0)
  | .diesChange _ _ => (0, 0)
  | .partitionBlockWrite _ _ _ => (0, 0)
  | .powerOn _ => (0, 0)
  | .bootWatchdog => (0, 0)
  | .firmwareWrite _ => (0, 0)
  | .startRequest _ => (0, 0)
  | .attestation _ => (0, 0)
  | .clockThrottle _ _ => (0, 0)
  | .linkFailure _ => (0, 0)
  | .illegalEncoding _ _ => (0, 0)
  | .fetchFault _ _ => (0, 0)
  | .peerAccess _ _ _ _ => (0, 0)
  | .driveCompletion _ _ _ => (0, 0)

/-- The bytes of an encoded instruction, as they lie in memory (R6, R9). -/
def encodeBytes (i : Instr) : List Byte := leBytes ((encode i).1 / 8) (encode i).2

end Sys2Proof
end

