-- ==== Sys2Proof/Machine/System.lean ====
section
/-! DEFINITION. Control-register and system instructions of MAJ 0x12 that concern one hart (R245-R253, R257, R258). -/
namespace Sys2Proof.Machine

/-! Control registers (R245-R247). -/

/-- The word of a control-register instruction (R245). -/
def lowCsr (grp : Nat) (csr : BitVec 12) (a d : GReg) : W32 :=
  BitVec.ofNat 32 (0x49 + d.toNat * 0x100 + a.toNat * 0x2000 + csr.toNat * 0x40000 + grp * 0x40000000)

/-- How the mode of a hart reaches a control register, and ILLEGAL or PRIV where it does not (R246). -/
def csrGate (low : W32) (csr : Nat) (write : Bool) : M Unit := do
  let h ← getH
  match csrAccess csr with
  | none => raise (illegalTrap 2 low)
  | some (u, v) =>
    match if h.sup then v else u with
    | .none => raise (trap causePriv (BitVec.ofNat 64 (2 + 256 * csr)))
    | .ro => check (!write) (illegalTrap 2 low)
    | .rw => pure ()

/-- A control-register instruction (R246): the checks, the write of `f old` where there is one, and the old value to g[D]. (DEDUCED, log 19.) -/
def csrInstr (low : W32) (csr : BitVec 12) (d : GReg) (write : Bool) (f : W64 → W64) (s : State) : Host.Outcome State Fault Refusal :=
  runInstr 4 (do
    csrGate low csr.toNat write
    let old := (← getS).csrVal csr.toNat
    if write then csrWrite csr.toNat (f old) else pure ()
    writeG d old
    return .seq) s

/-- csrw gD, csr, gA (R245). (DEDUCED, log 18.) -/
def execCsrw (csr : BitVec 12) (a d : GReg) (s : State) : Host.Outcome State Fault Refusal :=
  csrInstr (lowCsr 1 csr a d) csr d true (fun _ => s.gr a) s

/-- csrs gD, csr, gA (R245). (DEDUCED, log 19.) -/
def execCsrs (csr : BitVec 12) (a d : GReg) (s : State) : Host.Outcome State Fault Refusal :=
  csrInstr (lowCsr 2 csr a d) csr d (a != 0) (fun old => old ||| s.gr a) s

/-- csrc gD, csr, gA (R245). -/
def execCsrc (csr : BitVec 12) (a d : GReg) (s : State) : Host.Outcome State Fault Refusal :=
  csrInstr (lowCsr 3 csr a d) csr d (a != 0) (fun old => old &&& ~~~(s.gr a)) s

/-! ecall, brk, tret (R250, R251). -/

/-- ecall (R250). -/
def execEcall (s : State) : Host.Outcome State Fault Refusal := .next (s.endWrites.takeTrap (trap causeEcall 0))

/-- brk code (R250). -/
def execBrk (code : BitVec 5) (s : State) : Host.Outcome State Fault Refusal := .next (s.endWrites.takeTrap (trap causeBreak (code.setWidth 64)))

/-- What tret does in supervisor mode (R251): the return, then the residency engine's resume (R81), or ALIGN at an odd TPC in the restored state. -/
def State.trapReturn (s : State) : State :=
  let t := s.setHart s.hart.trapReturn
  if t.hart.pc.getLsbD 0 then t.takeTrap (trap causeAlign t.hart.pc) else t.settle

/-- tret (R251). -/
def execTret (s : State) : Host.Outcome State Fault Refusal :=
  .next (if s.hart.sup then s.trapReturn.endWrites else s.endWrites.takeTrap (trap causePriv 1))

/-! halt and yield (R252, R253). -/

/-- halt (R252): the hart stops fetching, with PC at the next instruction. -/
def execHalt (s : State) : Host.Outcome State Fault Refusal :=
  .next (if s.hart.sup then (s.advance 4).setHart { (s.advance 4).hart with status := .halted } else s.endWrites.takeTrap (trap causePriv 1))

/-- yield (R253). (DESIGN CHOICE, log 20.) -/
def execYield (s : State) : Host.Outcome State Fault Refusal := .next (s.advance 4)

/-! tlbi (R257, R258). -/

/-- Whether an entry translates a VA for an ASID of a partition. -/
def TlbEntry.translates (e : TlbEntry) (part asid va : Nat) : Bool :=
  e.part == part && (e.asid == asid || pteG e.pte) && e.va == va / e.size * e.size

/-- The translations a test picks, removed from every die TLB and every micro-TLB (R257). -/
def State.dropTlb (s : State) (pick : TlbEntry → Bool) : State :=
  { s with tlb := s.tlb.filter (fun e => !pick e), utlb := s.utlb.filter (fun e => !pick e) }

/-- A tlbi: supervisor only; it waits until every earlier access of the hart has been performed (R258). -/
def tlbiInstr (pick : TlbEntry → Bool) (s : State) : Host.Outcome State Fault Refusal :=
  runInstr 4 (do
    needSup
    if (← getS).owes allPaths then return .wait .order
    else
      modify (fun s => s.dropTlb pick)
      return .seq) s

/-- tlbi.va gA, gB (R257). -/
def execTlbiVa (b a : GReg) (s : State) : Host.Outcome State Fault Refusal :=
  tlbiInstr (fun e => canonical (s.gr a).toNat && e.translates s.hart.part (bits (s.gr b).toNat 0 16) (s.gr a).toNat) s

/-- tlbi.as gB (R257). -/
def execTlbiAs (b : GReg) (s : State) : Host.Outcome State Fault Refusal :=
  tlbiInstr (fun e => e.part == s.hart.part && e.asid == bits (s.gr b).toNat 0 16 && !pteG e.pte) s

/-- tlbi.all (R257). -/
def execTlbiAll (s : State) : Host.Outcome State Fault Refusal := tlbiInstr (fun e => e.part == s.hart.part) s

end Sys2Proof.Machine
end

