-- ==== Sys2Proof/Machine/Fetch.lean ====
section
/-! DEFINITION. Fetching an instruction's bytes and the traps of a fetch (R8, R9, R20), and the page-table walk of a TLB miss (R35-R38). -/
namespace Sys2Proof.Machine

/-- ILLEGAL_ENCODING (R20): the ILLEGAL trap of bytes that encode no instruction. -/
def execIllegalEncoding (sub : Byte) (low : W32) (s : State) : Host.Outcome State Fault Refusal := .next (s.endWrites.takeTrap (illegalTrap sub.toNat low))

/-- FETCH_FAULT (R9). -/
def execFetchFault (cause : Byte) (tval : W64) (s : State) : Host.Outcome State Fault Refusal := .next (s.endWrites.takeTrap (trap cause tval))

/-- How the focus hart fetches (R39, R40). -/
def Hart.fetchAcc (h : Hart) : Acc := h.acc .fetch true

/-- The bytes of a part of an instruction, translated and free of poison. -/
def fetchPart (va : W64) (n : Nat) : M (List Byte) := do
  let ks ← resolveClean (← getH).fetchAcc va n qFront
  readKeys ks

/-- The bytes of the instruction at the PC (R8, R9). (DEDUCED, log 12.) -/
def fetchBytes : M (List Byte) := do
  let pc := (← getH).pc
  check (!pc.getLsbD 0) (trap causeAlign pc)
  let first ← fetchPart pc 2
  let n := lengthOf (leNat first)
  if n = 2 then return first else fetchPart pc n

/-- The low 32 bits of an instruction, or its halfword (R391). -/
def lowOf (bs : List Byte) : W32 := BitVec.ofNat 32 (leNat (bs.take 4))

/-- Whether a control-register word that has no 64-bit form also names a register it may not reach (R20, R246: the lower subcode is reported). -/
def Hart.csrBad (h : Hart) (w : Nat) : Bool :=
  let grp := bits w 30 2
  let write := grp == 1 || bits w 13 5 != 0
  bits w 2 6 == 0x12 && grp != 0 && (match csrAccess (bits w 18 12) with
    | none => true
    | some (u, v) => (if h.sup then v else u) == .ro && write)

/-- The ILLEGAL subcode of bytes that do not decode. -/
def Hart.rejectSub (h : Hart) (r : Reject) (bs : List Byte) : Byte :=
  if r = .noLongForm ∧ h.csrBad (leNat (bs.take 4)) then 2 else BitVec.ofNat 8 (rejectSubcode r)

/-- A list of entries with one of those a test picks replaced, where `n` are there already; which one is a free choice. (DESIGN CHOICE, log 8.) -/
def makeRoom (n c : Nat) (pick : TlbEntry → Bool) (l : List TlbEntry) : List TlbEntry :=
  let mine := l.filter pick
  if mine.length < n then l
  else match mine[c % mine.length]? with
    | some e => l.erase e
    | none => l

/-- The entries of a TLB without that of a page. -/
def withoutPage (e : TlbEntry) (l : List TlbEntry) : List TlbEntry :=
  l.filter (fun x => !(x.home == e.home && x.part == e.part && x.asid == e.asid && x.va == e.va && x.size == e.size))

/-- An entry placed in its die TLB: 8,192 entries, of which at most 768 hold 1 GiB pages (R36). -/
def State.fillTlb (s : State) (e : TlbEntry) : State :=
  let (c, s) := s.choose
  let huge := fun (x : TlbEntry) => x.home == e.home && x.size == 0x40000000
  let l := withoutPage e s.tlb
  let l := if e.size = 0x40000000 then makeRoom 768 c huge l else l
  { s with tlb := e :: makeRoom 8192 c (fun x => x.home == e.home) l }

/-- An entry placed in its core's micro-TLB of 128 entries (R36). -/
def State.fillMicro (s : State) (e : TlbEntry) : State :=
  let (c, s) := s.choose
  { s with utlb := e :: makeRoom 128 c (fun x => x.home == e.home) (withoutPage e s.utlb) }

/-- PAGE_WALK (R35-R38): a micro-TLB miss of the focus hart looks up the die TLB, and a miss there walks the tables, whose entries' bit errors and wrong checks are met (R51); a translation found is cached. A and D are set by
the access itself. (DEDUCED, log 13.) -/
def execPageWalk (va : W64) (write : Bool) (s : State) : Host.Outcome State Fault Refusal :=
  let h := s.hart
  let a := h.acc (if write then .write else .read) true
  .next (if !canonical va.toNat || inAperture va.toNat then s
    else match s.tlb.find? (fun e => e.home == h.die && e.matches a va.toNat && pteA e.pte && !needsDirty a e.pte) with
    | some e => s.fillMicro { e with home := h.core }
    | none =>
      let s := s.meetWalk a va.toNat
      match s.walk a.part a.asid va.toNat with
      | .error _ => s
      | .ok l0 =>
        let (l, s) := s.groupLeaf l0
        let size := leafBytes l.level (ptePs l0.pte)
        match entryFault l.level l.pte, s.leafCheck a l.pte (leafPa l.pte size va.toNat) with
        | none, none =>
          let e : TlbEntry := { home := h.die, part := a.part, asid := a.asid, va := va.toNat / size * size, size := size, pte := l.pte }
          (s.fillTlb e).fillMicro { e with home := h.core }
        | _, _ => s)

end Sys2Proof.Machine
end

