-- ==== Sys2Proof/Machine/Flow.lean ====
section
/-! DEFINITION. Flowstone commands: FLCFG (R355, R356, R362, R364) and FLRUN (R355, R367, R368). -/
namespace Sys2Proof.Machine

/-! FLCFG. -/

/-- The controllers an FLCFG record names (R355). -/
def cfgCtrls (c : Command) : List Nat := if c.fld 0x19 1 = 0xFF then [0, 1, 2, 3] else [c.fld 0x19 1]

/-- The slots an FLCFG record names, emptied (R356, R362). -/
def State.emptySlots (s : State) (c : Command) : State :=
  { s with flow := s.flow.filter (fun f => !(f.die == c.fld 0x18 1 && (cfgCtrls c).contains f.ctrl && f.slot == c.fld 0x1A 1)) }

/-- A graph loaded in the named slots, each bound to the pages its own controller serves (R364). -/
def State.loadSlots (s : State) (c : Command) (g : Graph) (pages : List Nat) : State :=
  let s := s.emptySlots c
  let one := fun (k : Nat) =>
    ({ die := c.fld 0x18 1, ctrl := k, slot := c.fld 0x1A 1, graph := { g with bound := (pages.filter (fun p => ctrlOf p == k)).map (fun p => (p, 4096)) } } : FSlot)
  { s with flow := (cfgCtrls c).map one ++ s.flow }

/-- The pages of the named die in a range, each translated once as the command's access of a kind (R364). -/
def flowPages (c : Command) (kind : AKind) : Nat → W64 → EM (List Nat)
  | 0, _ => pure []
  | n + 1, va => do
    let ks ← eKeys c kind va 4096
    let r ← flowPages c kind n (va + 4096)
    return match ks with
      | k :: _ => if k / 2 ^ 41 = 0 ∧ bits k 35 6 = c.fld 0x18 1 then k :: r else r
      | [] => r

/-- Whether another slot of an array the record names already binds one of the pages in the same direction (R364). -/
def State.clash (s : State) (c : Command) (kind : Nat) (pages : List Nat) : Bool :=
  s.flow.any (fun f => f.die == c.fld 0x18 1 && (cfgCtrls c).contains f.ctrl && f.slot != c.fld 0x1A 1 && f.graph.kind == kind
    && f.graph.bound.any (fun r => pages.any (fun p => decide (r.1 < p + 4096) && decide (p < r.1 + r.2))))

/-- An ENGINE failure of a completion word (R368). -/
def engineFail (sub aux : Nat) : EFail := faultFail causeEngine sub aux

/-- The checks of an FLCFG record (R355). -/
def flcfgChecks (c : Command) : EM Unit := do
  let s := (← get).s
  let ctrl := c.fld 0x19 1
  c.checks [(0x10, c.fld 0x10 8 % 64 == 0), (0x18, decide (c.fld 0x18 1 < 64) && s.ownsDie c.part (c.fld 0x18 1)), (0x19, decide (ctrl ≤ 3) || ctrl == 0xFF),
    (0x1A, decide (c.fld 0x1A 1 ≤ 7)), (0x1B, c.fld 0x1B 37 == 0)]

/-- COUNT is the number of arrays whose slot is loaded or emptied, and AUX is 0 (R411). -/
def flcfgBody (c : Command) : EM (Option Nat × Option Nat) := do
  flcfgChecks c
  if c.fld 0x10 8 = 0 then modify (fun r => { r with s := r.s.emptySlots c })
  else do
    let bs ← eRead c pathFL (c.va 0x10) 8192
    match imageBad bs with
    | some o => eFail (engineFail 0x11 o)
    | none => do
      let g := parseGraph bs
      let pages ← if g.kind = 0 then pure []
        else flowPages c (if g.kind = 1 then .read else .write) (fieldAt bs 0x10 8 / 4096) (BitVec.ofNat 64 (fieldAt bs 8 8))
      let r ← get
      if r.s.clash c g.kind pages then eFail (engineFail 0x14 (Config.freeResult (2 * r.s.freeCtr + 1)))
      else modify (fun r => { r with s := r.s.loadSlots c g pages })
  return (some (if c.fld 0x19 1 = 0xFF then 4 else 1), some 0)

/-- FLCFG (R362, R364). -/
def execFlcfg (c : Command) (s : State) : Host.Outcome State Fault Refusal := .next (c.run pathFL c.site (flcfgBody c) s).endWrites

/-- The same with nothing to load. -/
def flcfgEmptyBody (c : Command) : EM (Option Nat × Option Nat) := do
  flcfgChecks c
  modify (fun r => { r with s := r.s.emptySlots c })
  return (some (if c.fld 0x19 1 = 0xFF then 4 else 1), some 0)

/-- FLCFG with IMG = 0 (R362). -/
def execFlcfgEmpty (c : Command) (s : State) : Host.Outcome State Fault Refusal := .next (c.run pathFL c.site (flcfgEmptyBody c) s).endWrites

/-! FLRUN. -/

end Sys2Proof.Machine
namespace Sys2Proof
open Machine
/-- The VA of row r of a row set (R367). -/
def Command.row (c : Command) (off r : Nat) : W64 := c.va off + BitVec.ofInt 64 ((r : Int) * c.sfld 0x20)
end Sys2Proof
namespace Sys2Proof.Machine

/-- Whether no row of a set crosses an aligned 4 KiB block (R355). -/
def rowsInBlocks (c : Command) (off : Nat) : Bool :=
  let n := c.fld 0x18 4
  let b := c.fld 0x1C 4
  decide (2 ^ 24 < n) || decide (4096 < b) || (List.range n).all (fun r => decide ((c.row off r).toNat % 4096 + b ≤ 4096))

/-- The checks of an FLRUN record that need no graph (R355, R367). (DEDUCED, log 61.) -/
def flrunChecks (c : Command) : EM Unit :=
  let n := c.fld 0x18 4
  let b := c.fld 0x1C 4
  c.checks [(0x10, rowsInBlocks c 0x10), (0x18, decide (1 ≤ n) && decide (n ≤ 2 ^ 24)), (0x1C, b % 4 == 0 && decide (4 ≤ b) && decide (b ≤ 4096)),
    (0x20, decide (n ≤ 1) || decide (b ≤ (c.sfld 0x20).natAbs)), (0x28, decide (c.fld 0x28 1 ≤ 7)), (0x29, decide (c.fld 0x29 1 ≤ 1)), (0x2A, c.fld 0x2A 6 == 0),
    (0x30, c.fld 0x30 8 == 0 || rowsInBlocks c 0x30), (0x38, c.fld 0x38 8 == 0 || rowsInBlocks c 0x38)]

/-- The array (die, controller) whose controller homes a key; none for a byte no Gallery bank of the module homes. -/
def arrayOf (k : Nat) : Option (Nat × Nat) := if k / 2 ^ 41 = 0 then some (bits k 35 6, ctrlOf k) else none

/-- The graph in a slot of an array. -/
def State.slotGraph (s : State) (a : Option (Nat × Nat)) (slot : Nat) : Option Graph :=
  match a with
  | none => none
  | some (d, k) => (s.flow.find? (fun f => f.die == d && f.ctrl == k && f.slot == slot)).map FSlot.graph

/-- Whether a graph uses the P1 row, and whether P0 or P1 is missing, or P1 written over W (R367). -/
def Graph.usesP1 (g : Graph) : Bool := g.reads 0x42 || g.out1.isSome
def Graph.needsP0 (g : Graph) (c : Command) : Bool := g.reads 0x41 && c.fld 0x30 8 == 0
def Graph.needsP1 (g : Graph) (c : Command) : Bool := g.usesP1 && c.fld 0x38 8 == 0
def Graph.overW (g : Graph) (c : Command) : Bool := g.out1.isSome && c.fld 0x38 8 == c.fld 0x10 8

/-- The checks made before any row against the graph of row 0's array (R367). -/
def flrunGraphChecks (c : Command) (g : Option Graph) : EM Unit :=
  match g with
  | none => pure ()
  | some g =>
    if g.kind ≠ 0 then pure ()
    else if g.needsP0 c then eFail (recordFail 0x30)
    else if g.needsP1 c || g.overW c then eFail (recordFail 0x38)
    else pure ()

/-- Runs a part of row r; a stop reports the VA of its W row (R368). -/
def atRow {α : Type} (c : Command) (r : Nat) (m : EM α) : EM α := fun x =>
  match m x with
  | .ok a x => .ok a x
  | .error f x => .error (if f.status = 4 then f else { f with aux := (c.row 0x10 r).toNat }) x

/-- The keys of an operand row where the graph uses it. -/
def operandRow (c : Command) (use : Bool) (kind : AKind) (off r : Nat) : EM (List Nat) :=
  if use then eKeys c kind (c.row off r) (c.fld 0x1C 4) else pure []

/-- The element codes of a row of bytes. -/
def rowCodes (w : Nat) (bs : List Byte) : List Nat := (List.range (bs.length / w)).map (fun j => fieldAt bs (j * w) w)

/-- Runs a part of a command that leaves the machine as it was where it fails, A and D too (R35), but for the errors met. -/
def eWhole {α : Type} (m : EM α) : EM α := fun x =>
  match m x with
  | .ok a y => .ok a y
  | .error f y => .error f { x with s := x.s.withErrors y.s }

/-- The keys of one row: its W row, its operand rows P0 and P1, and what it writes of P1. -/
structure RowKeys where
  w : List Nat
  p0 : List Nat
  p1 : List Nat
  out1 : List Nat
deriving DecidableEq, Repr

/-- A row translated and its reads free of poison (R367, R368): its graph and its keys. -/
def rowStart (c : Command) (r : Nat) : EM (Graph × RowKeys) := eWhole do
  let ks ← eKeys c .read (c.row 0x10 r) (c.fld 0x1C 4)
  let home := ks.head?.bind arrayOf
  match (← get).s.slotGraph home (c.fld 0x28 1) with
  | none => eFail (engineFail 0x13 0)
  | some g =>
    if g.kind ≠ 0 then eFail (engineFail 0x12 0)
    else if g.needsP0 c || g.needsP1 c || g.overW c then eFail (engineFail 0x15 0)
    else do
      let k0 ← operandRow c (g.reads 0x41) .read 0x30 r
      let k1 ← operandRow c (g.reads 0x42) .read 0x38 r
      let x1 ← get
      let p1 ← operandRow c g.out1.isSome .write 0x38 r
      let away := fun (l : List Nat) => match l.head? with | some k => arrayOf k != home | none => false
      if away k0 || away k1 || away p1 then eFail (engineFail 0x10 0)
      else do
        set x1
        let met := fun (s : State) (d : Nat) => ((s.eMeet c d pathFL (c.row 0x10 r) ks).eMeet c d pathFL (c.row 0x30 r) k0).eMeet c d pathFL (c.row 0x38 r) k1
        modify (fun x => { x with s := met x.s x.die })
        if ((← get).s.firstPoison 0 (ks ++ k0 ++ k1)).isSome then eFail (faultFail causePoison 0 0)
        else
          let w1 ← operandRow c g.out1.isSome .write 0x38 r
          let wk ← eKeys c .write (c.row 0x10 r) (c.fld 0x1C 4)
          return (g, { w := wk, p0 := k0, p1 := k1, out1 := w1 })

/-- The machine as an isolated row's read sees it, the writes that its events precede, and the machine it leaves (R124); without ISOL the reads are events of their own. -/
def State.rowLook (s : State) (c : Command) (isol : Bool) (k : RowKeys) : List Nat × State × State :=
  match isol, s.issuer c pathFL with
  | true, some m =>
    let (late, v, s) := s.rmwRead { m with split := .one, grouped := false } .row (k.w ++ k.p0 ++ k.p1 ++ k.out1)
    (late, v, s.afterRead (k.w ++ k.p0 ++ k.p1))
  | _, _ => ([], s.eLook c pathFL (k.w ++ k.p0 ++ k.p1))

/-- What a row writes: one event of an isolated row, which no other access of its hart parts from its read, or events of their own. -/
def State.rowStore (s : State) (c : Command) (isol : Bool) (late : List Nat) (ks : List Nat) (bs : List Byte) : State :=
  match isol, s.issuer c pathFL with
  | true, some m => s.storeCut { m with split := .one, grouped := false } .row (fun s => s.storeKeys true) [(ks, late)] ks bs
  | _, m => s.storeBy m true ks bs

/-- One row of an FLRUN: its checks, its elements, its writes; the saturated elements and the NaN among OUTW (R367, R368). Under ISOL its reads are one event and its
writes another, with nothing of its hart between (R124, R369). (DEDUCED, log 61.) -/
def flrunRow (c : Command) (r : Nat) : EM (Nat × Nat) := do
  let isol := c.fld 0x29 1 == 1
  let (g, k) ← rowStart c r
  let w := g.mfmt.bytes
  let x ← get
  let (late, v, s) := x.s.rowLook c isol k
  let xs := rowCodes w (v.keyBytes k.w)
  let ps := rowCodes w (v.keyBytes k.p0)
  let qs := rowCodes w (v.keyBytes k.p1)
  let envs := (List.range xs.length).map (fun j => ({ x := xs.getD j 0, p0 := ps.getD j 0, p1 := qs.getD j 0, r := r, j := j, vals := [] } : FEnv))
  let out := g.evalRow [] envs
  let ow := out.map (fun e => e.1.vals.getD g.outw 0)
  let s := { s with groups := [] }.beforeWrite (c.acc x.die .write) (c.row 0x10 r) k.w
  let s := if k.out1.isEmpty then s else s.beforeWrite (c.acc x.die .write) (c.row 0x38 r) k.out1
  let bs := ow.flatMap (leBytes w)
  let b1 := match g.out1 with | some n => out.flatMap (fun e => leBytes w (e.1.vals.getD n 0)) | none => []
  set { x with s := s.rowStore c isol late (k.w ++ k.out1) (bs ++ b1) }
  eCount 1
  return ((out.filter (fun e => e.2)).length, (ow.filter (fun v => !g.mfmt.isInt && (g.mfmt.decode false v).isNan)).length)

/-- Listed rows of an FLRUN, up to the first that stops it. (DEDUCED, log 61.) -/
def flrunLoop (c : Command) : List Nat → Nat → Nat → EM (Nat × Nat)
  | [], sat, nan => pure (sat, nan)
  | r :: rs, sat, nan => do
    let (a, b) ← atRow c r (flrunRow c r)
    flrunLoop c rs (sat + a) (nan + b)

/-- The rows of an FLRUN in the order they run in, which is free (R367, R369): ascending where no choice is given. (DESIGN CHOICE, log 8.) -/
def flrunRows (c : Command) : EM (List Nat) := fun r =>
  let n := c.fld 0x18 4
  let (k, s) := r.s.choose
  .ok (if k = 0 then List.range n else elemOrder k 0 n) { r with s := s }

def flrunBody (c : Command) : EM (Option Nat × Option Nat) := do
  flrunChecks c
  let x ← get
  atRow c 0 (eWhole do
    let ks ← eKeys c .read (c.row 0x10 0) (c.fld 0x1C 4)
    flrunGraphChecks c ((← get).s.slotGraph (ks.head?.bind arrayOf) (c.fld 0x28 1)))
  modify (fun y => { y with s := x.s.withErrors y.s })
  let (sat, nan) ← flrunLoop c (← flrunRows c) 0 0
  return (some (c.fld 0x18 4), some (sat % 2 ^ 32 + nan % 2 ^ 32 * 2 ^ 32))

/-- FLRUN (R367, R368). -/
def execFlrun (c : Command) (s : State) : Host.Outcome State Fault Refusal := .next (c.run pathFL c.die (flrunBody c) s).endWrites

end Sys2Proof.Machine
end

