-- ==== Sys2Proof/Machine/HostEv.lean ====
section
/-! DEFINITION. The outside of the module: the host link (R120, R412), management and partition blocks (R414-R416), start-up (R417, R418), attestation (R419), power
(R420), Grehal links and peers (R413, R365). -/
namespace Sys2Proof.Machine

/-! Partition blocks. -/

/-- The block of a partition replaced. -/
def State.setPblock (s : State) (p : Nat) (b : PBlock) : State := { s with parts := (p, b) :: s.parts.filter (fun x => x.1 != p) }

/-- Bytes measured (R419). (DEDUCED, log 60.) -/
def State.measure (s : State) (bs : List Byte) : State := { s with measured := s.measured ++ [.data bs] }

/-- The digest an entry of the measurement log stands for (R419). -/
def Measured.digest : Measured → List Byte
  | .rom => Config.romDigest
  | .data bs => sha256 bs

/-- PSTAT of a partition (R415). -/
def State.setPstat (s : State) (p code : Nat) : State := s.setPblock p { s.pblock p with pstat := BitVec.ofNat 32 code }

/-- Whether the module is in minimal mode (R417, R418). -/
def State.minimal (s : State) : Bool := s.bootstat.getLsbD 0

/-- Whether a partition's supervisor gang is still queued or placed. -/
def State.supervised (s : State) (p : Nat) : Bool := s.gangs.any (fun g => g.part == p && g.supervisor && g.status.live)

/-- A write of 1 to CMD (R416): the record at SREC launched as the supervisor gang. Errors in the record are met as any read meets them (R60), and it is launched from its
bytes as they then stand: R416 names no code for them. (DESIGN CHOICE, log 80.) -/
def State.startPart (s : State) (p : Nat) : State :=
  if s.minimal || s.supervised p then s.setPstat p 6
  else
    let ks := (List.range 128).map (fun j => (s.pblock p).srec.toNat + j)
    let s := s.inspect 1 ks ks
    let bs := s.keyBytes ks
    let r := parseGang bs
    let s := s.measure bs
    if r.asid ≠ 0 ∨ !r.supv then s.setPstat p 1
    else
      let code := s.launchCode p 0 false bs
      let s := s.setPstat p code
      if code = 0 then s.queueGang p true r else s

/-- START_SUPERVISOR (R416). -/
def execStartSupervisor (part : Nat) (s : State) : Host.Outcome State Fault Refusal := .next (if part < 64 then s.startPart part else s)

/-- The Flowstone slots of dies emptied (R356). (DEDUCED, log 59.) -/
def State.emptyDies (s : State) (dies : Nat → Bool) : State := { s with flow := s.flow.filter (fun f => !dies f.die) }

/-- A change of DIES (R416, R356): gangs on dies that leave end with status 3, and the slots of dies that leave or join are emptied. (DEDUCED, log 59.) -/
def State.changeDies (s : State) (p : Nat) (mask : W64) : State :=
  let old := (s.pblock p).dies
  let leaves := fun (d : Nat) => old.getLsbD d && !mask.getLsbD d
  let s := (s.gangs.filter (fun g => g.part == p && g.status.live && g.record.dies.any leaves)).foldl (fun s g => s.endGang g.id 3 0) s
  let s := s.emptyDies (fun d => old.getLsbD d != mask.getLsbD d)
  s.setPblock p { s.pblock p with dies := mask }

/-- DIES_CHANGE (R416). -/
def execDiesChange (part : Nat) (mask : W64) (s : State) : Host.Outcome State Fault Refusal :=
  .next (if part < 64 then ((s.changeDies part mask).measure ((s.changeDies part mask).pblock part).bytes).endWrites else s)

/-- Bytes laid over a list from an offset; what falls outside is dropped. -/
def overlay (l : List Byte) (off : Nat) (data : List Byte) : List Byte :=
  (l.zip (List.range l.length)).map (fun x => if off ≤ x.2 ∧ x.2 < off + data.length then data.getD (x.2 - off) 0 else x.1)

/-- A write of management to a partition block (R415, R416): DIES changes as a whole, a 1 written to CMD starts the supervisor, PSTAT is kept. (DEDUCED, log 59.) -/
def State.writePblock (s : State) (p off : Nat) (data : List Byte) : State :=
  let bs := overlay (s.pblock p).bytes off data
  let s := if fieldAt bs 0 8 = (s.pblock p).dies.toNat then s else s.changeDies p (BitVec.ofNat 64 (fieldAt bs 0 8))
  let s := s.setPblock p { s.pblock p with
    astb := BitVec.ofNat 64 (fieldAt bs 8 8), ctxp := BitVec.ofNat 64 (fieldAt bs 0x10 8), srec := BitVec.ofNat 64 (fieldAt bs 0x18 8)
    ns := BitVec.ofNat 64 (fieldAt bs 0x20 8), share := BitVec.ofNat 32 (fieldAt bs 0x28 4) }
  let s := s.measure (s.pblock p).bytes
  if fieldAt bs 0x2C 4 = 1 then s.startPart p else s

/-- A write of management from an offset among the partition blocks, block by block: what lies at the offsets 0x34 to 0xFF of one is dropped (R414). -/
def State.writeBlocks (s : State) : Nat → Nat → List Byte → State
  | 0, _, _ => s
  | f + 1, at', data =>
    if data.isEmpty ∨ 0x4000 ≤ at' then s
    else
      let o := at' % 0x100
      let s := if o < 0x34 then s.writePblock (at' / 0x100) o (data.take (0x34 - o)) else s
      s.writeBlocks f (at' + (0x100 - o)) (data.drop (0x100 - o))

/-- PARTITION_BLOCK_WRITE (R415). -/
def execPartitionBlockWrite (part off : Nat) (data : List Byte) (s : State) : Host.Outcome State Fault Refusal :=
  .next (if part < 64 ∧ off < 0x34 then (s.writePblock part off (data.take (0x34 - off))).endWrites else s)

/-! The host link. -/

/-- The base of a host function's BAR2 window (R412); 0 until management sets it. (DESIGN CHOICE, log 6.) -/
def State.bar2Base (s : State) (function : Nat) : Nat :=
  match s.bar2.find? (fun x => x.1 == function) with
  | some x => x.2
  | none => 0

/-- Management sets the base of a function's window, at a multiple of 64 GiB (R412). -/
def State.setBar2 (s : State) (function base : Nat) : State :=
  { s with bar2 := (function, base / 0x1000000000 * 0x1000000000) :: s.bar2.filter (fun x => x.1 != function) }

/-- Whether bytes lie in local DRAM that is in service; of die 0 only in minimal mode (R28, R395, R417). -/
def State.reachable (s : State) (ks : List Nat) : Bool := ks.all (fun k => decide (k / 2 ^ 41 = 0) && s.populated k && !(s.minimal && bits k 35 6 != 0))

/-- Whether bytes lie in a function's BAR2 window and in the module's DRAM (R412). (DESIGN CHOICE, log 6.) -/
def State.inBar2 (s : State) (function pa n : Nat) : Bool :=
  decide (s.bar2Base function ≤ pa) && decide (pa + n ≤ s.bar2Base function + 0x1000000000) && s.reachable ((List.range n).map (fun j => pa + j))

/-- Bytes that leave the module by a port: bit errors are met, checks verified, and poison is indicated (R51, R59, R60). -/
def State.sendOut (s : State) (point : Nat) (path : Nat) (ks : List Nat) : State :=
  let s := s.inspect point ks ks
  { s with hostReply := s.pathBytes path ks, hostPoison := ks.any (fun k => s.poisoned k || s.mismatch k) }

/-- Bytes that enter the module by a port and are written at their home, whose bank reads the lines they change: whether they arrive as whole units is a free choice, which only poison can show (R51, R59).
(DESIGN CHOICE, log 8.) -/
def State.takeIn (s : State) (path : Nat) (ks : List Nat) (bs : List Byte) : State :=
  let (c, s) := s.choose
  ((s.inspect 1 ks ks).storeOn none path (c % 2 == 1) ks bs).endWrites

/-- A write of the host through BAR0 (R378, R412, R414, R415): SCMD whole, a partition block as management, or nothing. -/
def State.hostReg (s : State) (pa40 : Nat) (data : List Byte) : State :=
  let base := 0x10000000000
  if pa40 < base then
    if pa40 % 0x10000000 = 0 ∧ pa40 / 0x10000000 < 64 ∧ data.length = 16 then s.writeScmd (pa40 / 0x10000000) (leNat data) none else s
  else if pa40 < base + 0x4000 then s.writeBlocks (data.length / 0x100 + 2) (pa40 - base) data
  else s

/-- HOST_POSTED_WRITE (R120, R412): performed at its home as one release on path LS. (DESIGN CHOICE, log 11; DEDUCED, log 55.) -/
def execHostPostedWrite (at' : OuterAddr) (data : List Byte) (s : State) : Host.Outcome State Fault Refusal :=
  .next (if isRegSpace at'.pa then (s.hostReg (bits at'.pa 0 41) data).endWrites
    else if s.inBar2 at'.via at'.pa data.length then s.takeIn pathLS ((List.range data.length).map (fun j => at'.pa + j)) data
    else s)

/-- HOST_READ (R412): what the host receives; register bytes assigned to nothing read as zero. (DEDUCED, log 55; DESIGN CHOICE, log 56.) -/
def execHostRead (at' : OuterAddr) (n : Nat) (s : State) : Host.Outcome State Fault Refusal :=
  let ks := (List.range n).map (fun j => at'.pa + j)
  .next (if ks.all isRegSpace then { (s.touch ks) with hostReply := s.keyBytes ks, hostPoison := false }
    else if s.inBar2 at'.via at'.pa n then s.sendOut 4 pathLS ks
    else s)

/-! Peers. -/

/-- PEER_ACCESS (R365, R413): a read or write on any path but WN that arrives over a Grehal link, at its home Gallery bank. In minimal mode no link is in use (R417).
(DEDUCED, log 55.) -/
def execPeerAccess (write : Bool) (at' : OuterAddr) (n : Nat) (data : List Byte) (s : State) : Host.Outcome State Fault Refusal :=
  let path := at'.via
  let ks := (List.range (if write then data.length else n)).map (fun j => at'.pa + j)
  .next (if path < 7 ∧ path ≠ pathWN ∧ !s.minimal ∧ s.reachable ks then (if write then s.takeIn path ks data else s.sendOut 6 path ks) else s)

/-- A link that fails ends its outstanding accesses (R413): of the commands that have been accepted and have not ended, a free choice says which had some on it; what they
have still to do in a peer module ends with ACCESS REGION. (DESIGN CHOICE, log 77.) -/
def State.cutCommands (s : State) : State :=
  let (c, s) := s.choose
  let cut := fun (at' : Nat) (l : List Command) => (l.zip (List.range l.length)).map (fun x => if bit c (at' + x.2) then { x.1 with cut := true } else x.1)
  { s with engines := cut 0 s.engines, drives := cut s.engines.length s.drives }

/-- LINK_FAILURE (R413): a Grehal link fails and stays down until it is trained again; where it was the last of a peer's, accesses to the peer end with ACCESS REGION from
now on. -/
def execLinkFailure (link : Nat) (s : State) : Host.Outcome State Fault Refusal :=
  .next (if s.down.contains link then s
    else
      let s := if s.peers.any (fun p => p.2.contains link) then s.cutCommands else s
      { s with down := link :: s.down })

/-- The peer route table binds a peer to some of the sixteen links (R413); one that is down carries nothing. -/
def State.setRoute (s : State) (peer : Nat) (links : List Nat) : State :=
  { s with peers := (peer, (links.filter (fun l => decide (l < 16))).eraseDups) :: s.peers.filter (fun p => p.1 != peer) }

/-! Start-up (R417, R418). -/

/-- The parts that a start finds faulty (R394, R417), each as its record names it (R393): those the report names, and a part of every other die, stack or core that it
lists. (DESIGN CHOICE, log 58.) -/
def bootParts (b : BootReport) : List FailedPart :=
  let named := b.failed.filter (fun p => partOk p.die p.core p.point p.addr)
  named ++ (b.badStacks.filter (fun d => decide (d < 64) && !named.any (fun p => p.die == d && p.core == none && p.point == 2))).map (fun d => { die := d, core := none, point := 2, addr := 0 })
    ++ (b.badDies.filter (fun d => decide (d < 64) && !named.any (fun p => p.die == d && p.core == none))).map (fun d => { die := d, core := none, point := 9, addr := 0 })
    ++ (b.badCores.filter (fun c => decide (c < 1024) && !named.any (fun p => p.die == c / 16 && p.core == some (c % 16)))).map (fun c => { die := c / 16, core := some (c % 16), point := 10, addr := 0 })

/-- Whether a die goes out of service at a start. -/
def bootDieOut (b : BootReport) (d : Nat) : Bool := (bootParts b).any (fun p => p.die == d && p.core == none)

/-- The first fault of a start but the watchdog's: REASON and DIE (R417). (DESIGN CHOICE, log 58.) -/
def bootFault (b : BootReport) : Option (Nat × Nat) :=
  if !b.signatureOk then some (1, 0xFF)
  else if !b.versionOk then some (2, 0xFF)
  else if (bootParts b).any (fun p => p.die == 0 && p.core == none && p.point != 2) then some (3, 0)
  else if bootDieOut b 0 then some (4, 0)
  else if b.badHostLink then some (5, 0xFF)
  else (b.badMesh.find? (fun l => !bootDieOut b l.1 && !bootDieOut b l.2)).map (fun l => (5, Nat.min l.1 l.2))

/-- FAILS of BOOTSTAT. -/
def State.fails (s : State) : Nat := bits s.bootstat.toNat 4 4

/-- BOOTSTAT (R418). (DESIGN CHOICE, log 58.) -/
def bootWord (die reason fails : Nat) : W64 :=
  BitVec.ofNat 64 (die * 0x10000 + reason * 0x100 + fails * 0x10 + (if 3 ≤ fails then 1 else 0))

/-- The module as a start leaves it: the reset state with what persists (R417): the module's number, its routes, its namespaces, its BAR2 bases, and the parts out
of service, which only a start that tests them returns. The ROM and the image are measured (R419). (DESIGN CHOICE, log 5; DESIGN CHOICE, log 6; DESIGN CHOICE, log 58.) -/
def State.rebooted (s : State) (image : List Byte) : State :=
  { State.reset with moduleNo := s.moduleNo, peers := s.peers, namespaces := s.namespaces, bar2 := s.bar2, down := s.down, bootstat := s.bootstat, firmware := image
                     measured := [.rom, .data image], deadDies := s.deadDies, deadCores := s.deadCores
                     turns := s.turns, choices := s.choices, freeCtr := s.freeCtr }

/-- A start that fails (R417): FAILS rises, up to 15, and from 3 on the module is in minimal mode. (DESIGN CHOICE, log 58.) -/
def State.failStart (s : State) (reason die : Nat) : State :=
  { (s.rebooted s.firmware) with bootstat := bootWord die reason (Nat.min (s.fails + 1) 15) }

/-- A full start (R417): the parts found faulty stay or go out of service, a core's but on a die that is out; every other part is returned, the Grehal links that fail
training are left down, and FAILS is cleared. (DESIGN CHOICE, log 58.) -/
def State.fullStart (s : State) (b : BootReport) : State :=
  let s := { (s.rebooted b.image) with bootstat := bootWord 0xFF 0 0, deadDies := [], deadCores := [], down := b.badGrehal.eraseDups }
  ((bootParts b).filter (fun p => p.core == none || !bootDieOut b p.die)).foldl (fun s p => s.takeOut p.die p.core p.point p.addr) s

/-- A start with what it meets; one that does not complete is still under way when the firmware watchdog expires. -/
def State.start (s : State) (b : BootReport) : State :=
  match bootFault b with
  | some (reason, die) => s.failStart reason die
  | none => if b.watchdog then { (s.rebooted s.firmware) with starting := true } else s.fullStart b

/-- POWER_ON (R417). -/
def execPowerOn (b : BootReport) (s : State) : Host.Outcome State Fault Refusal := .next (s.start b)

/-- BOOT_WATCHDOG (R417): it expires only before a start completes. -/
def execBootWatchdog (s : State) : Host.Outcome State Fault Refusal := .next (if s.starting then s.failStart 6 0xFF else s)

/-- FIRMWARE_WRITE (R418): in minimal mode only. -/
def execFirmwareWrite (image : List Byte) (s : State) : Host.Outcome State Fault Refusal := .next (if s.minimal then { s with firmware := image } else s)

/-- START_REQUEST (R418): in minimal mode only, with the firmware the host has written. -/
def execStartRequest (b : BootReport) (s : State) : Host.Outcome State Fault Refusal :=
  .next (if s.minimal then s.start { b with image := s.firmware } else s)

/-- ATTESTATION (R419): the log, and a signature over the digest of the nonce followed by it. (DESIGN CHOICE, log 56; DEDUCED, log 60.) -/
def execAttestation (nonce : List Byte) (s : State) : Host.Outcome State Fault Refusal :=
  let log := s.measured.flatMap Measured.digest
  .next (if nonce.length = 32 then { s with hostReply := log ++ Config.sign (sha256 (nonce ++ log)), hostPoison := false } else s)

/-- CLOCK_THROTTLE (R420): an island's clock in kHz, at most nominal; timing only. -/
def execClockThrottle (island khz : Nat) (s : State) : Host.Outcome State Fault Refusal :=
  .next { s with islands := s.islands.set island (Nat.min khz 1250000) }

end Sys2Proof.Machine
end

