-- ==== Sys2Proof/Machine/Prob.lean ====
section
/-! DEFINITION. Probability predicates, MAJ 0x28 and 0x29 (R298-R313). -/
namespace Sys2Proof.Machine

/-- A mask code as a fraction of 0x8000 (R298). -/
def fracOf (code : Nat) : Nat := Nat.min code 0x8000

/-- The value of a fraction. -/
def fracVal (p : Nat) : Val := .num false p (-15) false

/-- The fraction of an active mask element. -/
def readFrac (j i : Nat) : M Nat := do return fracOf (← readMask j i)

/-- An element-wise instruction from masks to a mask (R298, R259). -/
def fromMasks (m : Nat) (mk : Bool) (js : List Nat) (f : Nat → M Nat) : M Unit := do
  check (← getH).maskOk (operandTrap qVq)
  maskwise m mk (js.map Src.mask) f

/-- RNE of n / 0x8000 (R304). -/
def rne15 (n : Nat) : Nat := (roundUnits { mode := 0, ieee := false, ftz := false, draw := 0 } false n (-15) 0 false).1

/-! Soft compares (R301, R302). -/

/-- The roundings of a soft compare: to nearest even, overflow to infinity, no flush. -/
def softRnd : Rnd := { mode := 0, ieee := true, ftz := false, draw := 0 }

/-- A value rounded to FP32 on the way. -/
def softRound (v : Val) : Val := ff32.decode false (ff32.round softRnd v).code

/-- TEMP as a value. -/
def Csr.tempVal (c : Csr) : Val := ff32.decode false (bits c.temp.toNat 0 32)

/-- The code of a soft compare of two values that are not NaN: `less` for lt and le. -/
def softCode (rel : Int → Bool) (less : Bool) (t a b : Val) : Nat :=
  let c := Val.cmp a b
  if t.isZero then (if rel c then 0x8000 else 0)
  else if c = 0 || t.isInf then 0x4000
  else
    let d := softRound (a.add false b.neg).1
    let z := softRound ((if less then d.neg else d).div t).1
    (roundP16 softRnd (softRound z.logistic)).code

/-- vscmp (R301). -/
def softCompare (rel : Int → Bool) (less : Bool) (mk : Bool) (d a b : Fld6) : M Ctl := do
  let h ← getH
  let A := h.vop a
  let B := h.vop b
  let t := h.opTag A
  check (h.opTag B == t && srcOk true true t && h.groupOk A t && h.groupOk B t && h.maskOk) (operandTrap qVq)
  maskwise d.toNat mk (vecSrcs [(A, t), (B, t)]) (fun i => do
    let c := (← getH).csr
    let x := t.decode c.ftz (← readCode A t i)
    let y := t.decode c.ftz (← readCode B t i)
    if x.isNan || y.isNan then
      orFlags flNV
      return 0
    else return softCode rel less c.tempVal x y)
  return .seq

/-! Combining (R304, R305). -/

def pandInd (p q : Nat) : Nat := rne15 (p * q)
def pandPos (p q : Nat) : Nat := Nat.min p q
def pandNeg (p q : Nat) : Nat := p + q - 0x8000
def porInd (p q : Nat) : Nat := rne15 ((p + q) * 0x8000 - p * q)
def porPos (p q : Nat) : Nat := Nat.max p q
def porNeg (p q : Nat) : Nat := Nat.min 0x8000 (p + q)

/-- pand and por; `ind` for the IND rule, whose two fields naming one register set PDEP where an element is active (R305), as m0 was before the instruction
wrote it: an active element sets it with its own write, which may be of m0. -/
def combineM (f : Nat → Nat → Nat) (ind : Bool) (mk : Bool) (d a b : Fld6) : M Ctl := do
  let n := (← getH).csr.vlN
  let on ← collect (fun i => if mk then do return activeCode (← peekMask 0 i) else pure true) n 0
  fromMasks d.toNat mk [a.toNat, b.toNat] (fun i => do
    let p ← readFrac a.toNat i
    let q ← readFrac b.toNat i
    if ind && a == b then orFlags flPDEP else pure ()
    return f p q)
  whenFull (if ind && a == b && on.any id then orFlags flPDEP else pure ())
  return .seq

/-- pnot (R304). -/
def pnotM (mk : Bool) (d b : Fld6) : M Ctl := do
  fromMasks d.toNat mk [b.toNat] (fun i => do return 0x8000 - (← readFrac b.toNat i))
  return .seq

/-! Blending (R306). -/

/-- A blend with 0 < P < 0x8000, rounded once to FP32; where the destination is not FP32 it is rounded to nearest even and converted. -/
def blendOut (c : Csr) (t dt : Tag) (p x y k : Nat) : Rounded :=
  let (u, f1) := (fracVal p).mul (t.decode c.ftz x)
  let (w, f2) := (fracVal (0x8000 - p)).mul (t.decode c.ftz y)
  let (v, f3) := u.add (c.mode == 2) w
  (EOut.ofVal v (f1 ||| f2 ||| f3)).convert c .f32 dt k

/-- pblend.m (R306). -/
def blendV (d a b : Fld6) : M Ctl := do
  let h ← getH
  let A := h.vop a
  let B := h.vop b
  let D := h.vop d
  let t := h.opTag A
  let dt := h.opTag D
  check (h.opTag B == t && srcOk true true t && srcOk true true dt && dstOk D dt t && h.operandsOk D dt [(A, t), (B, t)] false && h.maskOk) (operandTrap qVq)
  maskedLoop (.vec D dt) false (.mask 0 :: vecSrcs [(A, t), (B, t)]) (fun i => do
    let p ← readFrac 0 i
    let x ← readCode A t i
    let y ← readCode B t i
    let k ← drawIf true
    if p = 0x8000 ∨ p = 0 then
      writeRounded D dt i ((EOut.ofCode (if p = 0 then y else x)).convert (← getH).csr t dt k)
    else writeRounded D dt i (blendOut (← getH).csr t dt p x y k)) (inactiveElem D dt) (tailFrom D dt h.csr.vlN)
  return .seq

/-! Collapsing (R307, R308). -/

/-- pcoll (R307): one draw for every element, active or not. -/
def collapseM (mk : Bool) (d a : Fld6) : M Ctl := do
  check (← getH).maskOk (operandTrap qVq)
  withSources mk [.mask a.toNat] do
    elementLoop (fun i => do
      if ← activeM mk i then
        let p ← readFrac a.toNat i
        let u ← draw16 qVq
        writeMask d.toNat i (if u % 0x8000 < p then 0x8000 else 0)
      else
        let _ ← draw16 qVq
        inactiveMask d.toNat i)
    whenFull (do maskTailFrom d.toNat (← getH).csr.vlN)
  return .seq

/-- pthr (R308). -/
def thresholdM (mk : Bool) (d a : Fld6) : M Ctl := do
  fromMasks d.toNat mk [a.toNat] (fun i => do return if activeCode (← readFrac a.toNat i) then 0x8000 else 0)
  return .seq

/-! Gradients (R309, R310) and moves (R311). -/

/-- An element-wise instruction from a mask to a vector. -/
def fromMask (D : VOp) (dt : Tag) (mk : Bool) (j : Nat) (f : Nat → Nat → M Unit) (sat : Bool := true) : M Unit := do
  let h ← getH
  check (h.groupOk D dt && h.maskOk) (operandTrap qVq)
  maskedLoop (.vec D dt) mk [.mask j] (fun i => do
    let p ← readFrac j i
    f i p) (inactiveElem D dt) (tailFrom D dt h.csr.vlN) (sat := sat)

/-- The destinations of pgrad (R309). -/
def gradTag (t : Tag) : Bool := t == .f16 || t == .bf16 || t == .f32 || t == .f64

/-- p(1 − p)/T, exact. -/
def gradVal (c : Csr) (p : Nat) : Val × W64 := (Val.num false (p * (0x8000 - p)) (-30) false).div c.tempVal

/-- pgrad (R309). (DEDUCED, log 35.) -/
def gradV (mk : Bool) (d a : Fld6) : M Ctl := do
  let h ← getH
  let D := h.vop d
  let dt := h.opTag D
  check (gradTag dt) (operandTrap qVq)
  fromMask D dt mk a.toNat (fun i p => do
    let c := (← getH).csr
    if c.tempVal.isZero || c.tempVal.isInf then writeCode D dt i 0
    else
      let (v, f) := gradVal c p
      writeOut D dt dt i (EOut.ofVal v f))
  return .seq

/-- pgrad.st (R309). -/
def gradStV (mk : Bool) (d a : Fld6) : M Ctl := do
  let h ← getH
  let D := h.vop d
  let dt := h.opTag D
  check (gradTag dt) (operandTrap qVq)
  fromMask D dt mk a.toNat (fun i _ => writeCode D dt i (dt.fmt.round softRnd (.ofInt 1)).code) (sat := false)
  return .seq

/-- pbgrad of two codes: an exact difference with one rounding (R310). -/
def bgradOut (c : Csr) (t dt : Tag) (x y k : Nat) : Rounded :=
  if t.isInt then (EOut.ofInt (t.intOf x - t.intOf y)).convert c t dt k
  else
    let (v, f) := (t.decode c.ftz x).add (c.mode == 2) (t.decode c.ftz y).neg
    let r := dt.round (c.rnd k) v
    { r with flags := r.flags ||| f }

/-- pbgrad (R310). (DEDUCED, log 35.) -/
def bgradV (mk : Bool) (d a b : Fld6) : M Ctl := do
  let h ← getH
  let A := h.vop a
  let B := h.vop b
  let D := h.vop d
  let t := h.opTag A
  let dt := h.opTag D
  check (h.opTag B == t && srcOk true true t && srcOk true true dt && dstOk D dt t && h.operandsOk D dt [(A, t), (B, t)] false) (operandTrap qVq)
  maskedLoop (.vec D dt) mk (vecSrcs [(A, t), (B, t)]) (fun i => do
    let x ← readCode A t i
    let y ← readCode B t i
    let k ← drawIf (!(t.isInt && dt.isInt))
    writeRounded D dt i (bgradOut (← getH).csr t dt x y k)) (inactiveElem D dt) (tailFrom D dt h.csr.vlN)
  return .seq

/-- The tags of pmov (R311). -/
def pmovTag (t : Tag) : Bool := t.isInt || t.isFloat || t == .p16

/-- pmov.v (R311). -/
def pmovToV (mk : Bool) (d a : Fld6) : M Ctl := do
  let h ← getH
  let D := h.vop d
  let dt := h.opTag D
  check (pmovTag dt) (operandTrap qVq)
  fromMask D dt mk a.toNat (fun i p => do writeRounded D dt i (← convertCode .p16 dt p))
  return .seq

/-- pmov.m (R311): where OVFM names mD itself the saturation's write follows the element's own. -/
def pmovToM (mk : Bool) (d a : Fld6) : M Ctl := do
  let h ← getH
  let A := h.vop a
  let t := h.opTag A
  check (pmovTag t && h.groupOk A t && h.maskOk) (operandTrap qVq)
  maskedLoop (.mask d.toNat) mk [.vec A t] (fun i => do
    let x ← readCode A t i
    let r ← if t = .p16 then pure { code := fracOf x, flags := 0, sat := false } else convertCode t .p16 x
    writeMask d.toNat i r.code
    orFlags r.flags
    if r.sat then saturate i else pure ()) (inactiveMask d.toNat) (maskTailFrom d.toNat h.csr.vlN)
  return .seq

/-- What issue needs to know of an instruction from masks to a vector. -/
def Hart.fromMaskInfo (h : Hart) (low : W32) (cv mk : Bool) (d a : Fld6) : VInfo :=
  { cls := some .arithA, cv := cv, low := low, len := 4, ill := fieldIll (h.vfld d) (decide (a.toNat < h.nm)), dest := some d
    reads := maskCode a.toNat :: (if mk then [maskCode 0] else []), writes := (h.vop d).regs, gReads := [], gWrite := none, bx := false, queue := qVq }

/-! The instructions. -/

/-- vscmp.lt mD, vA, vB: what issue needs to know. -/
def vscmpLtInfo (cv mk : Bool) (b a d : Fld6) (h : Hart) : VInfo :=
  h.maskInfo .arithA (lowVV 0x28 0 cv mk d a b) cv mk d [a, b] [] [] false
/-- vscmp.lt mD, vA, vB (R301). -/
def execVscmpLt (cv mk : Bool) (b a d : Fld6) (s : State) : Host.Outcome State Fault Refusal := runVector (vscmpLtInfo cv mk b a d s.hart) false (softCompare relLt true mk d a b) s

/-- vscmp.le mD, vA, vB: what issue needs to know. -/
def vscmpLeInfo (cv mk : Bool) (b a d : Fld6) (h : Hart) : VInfo :=
  h.maskInfo .arithA (lowVV 0x28 1 cv mk d a b) cv mk d [a, b] [] [] false
/-- vscmp.le mD, vA, vB (R301). -/
def execVscmpLe (cv mk : Bool) (b a d : Fld6) (s : State) : Host.Outcome State Fault Refusal := runVector (vscmpLeInfo cv mk b a d s.hart) false (softCompare relLe true mk d a b) s

/-- vscmp.gt mD, vA, vB: what issue needs to know. -/
def vscmpGtInfo (cv mk : Bool) (b a d : Fld6) (h : Hart) : VInfo :=
  h.maskInfo .arithA (lowVV 0x28 2 cv mk d a b) cv mk d [a, b] [] [] false
/-- vscmp.gt mD, vA, vB (R301). -/
def execVscmpGt (cv mk : Bool) (b a d : Fld6) (s : State) : Host.Outcome State Fault Refusal := runVector (vscmpGtInfo cv mk b a d s.hart) false (softCompare relGt false mk d a b) s

/-- vscmp.ge mD, vA, vB: what issue needs to know. -/
def vscmpGeInfo (cv mk : Bool) (b a d : Fld6) (h : Hart) : VInfo :=
  h.maskInfo .arithA (lowVV 0x28 3 cv mk d a b) cv mk d [a, b] [] [] false
/-- vscmp.ge mD, vA, vB (R301). -/
def execVscmpGe (cv mk : Bool) (b a d : Fld6) (s : State) : Host.Outcome State Fault Refusal := runVector (vscmpGeInfo cv mk b a d s.hart) false (softCompare relGe false mk d a b) s

/-- pand.ind mD, mA, mB: what issue needs to know. -/
def pandIndInfo (cv mk : Bool) (b a d : Fld6) (h : Hart) : VInfo :=
  h.maskInfo .arithA (lowVV 0x28 4 cv mk d a b) cv mk d [] [a, b] [] false
/-- pand.ind mD, mA, mB (R304, R305). -/
def execPandInd (cv mk : Bool) (b a d : Fld6) (s : State) : Host.Outcome State Fault Refusal := runVector (pandIndInfo cv mk b a d s.hart) false (combineM pandInd true mk d a b) s

/-- pand.pos mD, mA, mB: what issue needs to know. -/
def pandPosInfo (cv mk : Bool) (b a d : Fld6) (h : Hart) : VInfo :=
  h.maskInfo .arithA (lowVV 0x28 5 cv mk d a b) cv mk d [] [a, b] [] false
/-- pand.pos mD, mA, mB (R304, R305). -/
def execPandPos (cv mk : Bool) (b a d : Fld6) (s : State) : Host.Outcome State Fault Refusal := runVector (pandPosInfo cv mk b a d s.hart) false (combineM pandPos false mk d a b) s

/-- pand.neg mD, mA, mB: what issue needs to know. -/
def pandNegInfo (cv mk : Bool) (b a d : Fld6) (h : Hart) : VInfo :=
  h.maskInfo .arithA (lowVV 0x28 6 cv mk d a b) cv mk d [] [a, b] [] false
/-- pand.neg mD, mA, mB (R304, R305). -/
def execPandNeg (cv mk : Bool) (b a d : Fld6) (s : State) : Host.Outcome State Fault Refusal := runVector (pandNegInfo cv mk b a d s.hart) false (combineM pandNeg false mk d a b) s

/-- por.ind mD, mA, mB: what issue needs to know. -/
def porIndInfo (cv mk : Bool) (b a d : Fld6) (h : Hart) : VInfo :=
  h.maskInfo .arithA (lowVV 0x28 8 cv mk d a b) cv mk d [] [a, b] [] false
/-- por.ind mD, mA, mB (R304, R305). -/
def execPorInd (cv mk : Bool) (b a d : Fld6) (s : State) : Host.Outcome State Fault Refusal := runVector (porIndInfo cv mk b a d s.hart) false (combineM porInd true mk d a b) s

/-- por.pos mD, mA, mB: what issue needs to know. -/
def porPosInfo (cv mk : Bool) (b a d : Fld6) (h : Hart) : VInfo :=
  h.maskInfo .arithA (lowVV 0x28 9 cv mk d a b) cv mk d [] [a, b] [] false
/-- por.pos mD, mA, mB (R304, R305). -/
def execPorPos (cv mk : Bool) (b a d : Fld6) (s : State) : Host.Outcome State Fault Refusal := runVector (porPosInfo cv mk b a d s.hart) false (combineM porPos false mk d a b) s

/-- por.neg mD, mA, mB: what issue needs to know. -/
def porNegInfo (cv mk : Bool) (b a d : Fld6) (h : Hart) : VInfo :=
  h.maskInfo .arithA (lowVV 0x28 10 cv mk d a b) cv mk d [] [a, b] [] false
/-- por.neg mD, mA, mB (R304, R305). -/
def execPorNeg (cv mk : Bool) (b a d : Fld6) (s : State) : Host.Outcome State Fault Refusal := runVector (porNegInfo cv mk b a d s.hart) false (combineM porNeg false mk d a b) s

/-- pnot mD, mB: what issue needs to know. -/
def pnotInfo (cv mk : Bool) (b x d : Fld6) (h : Hart) : VInfo :=
  h.maskInfo .arithA (lowVV 0x28 0xC cv mk d x b) cv mk d [] [b] [] false
/-- pnot mD, mB (R304). -/
def execPnot (cv mk : Bool) (b x d : Fld6) (s : State) : Host.Outcome State Fault Refusal := runVector (pnotInfo cv mk b x d s.hart) false (pnotM mk d b) s

/-- pblend.m vD, vA, vB: what issue needs to know. -/
def pblendMInfo (cv : Bool) (b a d : Fld6) (h : Hart) : VInfo :=
  (h.arithInfo .arithA (lowVV 0x28 0xD cv true d a b) 4 cv true d 1 false [(a, 1), (b, 1)] []).canSat h
/-- pblend.m vD, vA, vB (R306). -/
def execPblendM (cv : Bool) (b a d : Fld6) (s : State) : Host.Outcome State Fault Refusal := runVector (pblendMInfo cv b a d s.hart) false (blendV d a b) s

/-- pcoll mD, mA: what issue needs to know. -/
def pcollInfo (cv mk : Bool) (a d : Fld6) (h : Hart) : VInfo :=
  h.maskInfo .arithA (lowVV 0x29 0 cv mk d a 0) cv mk d [] [a] [] false
/-- pcoll mD, mA (R307). -/
def execPcoll (cv mk : Bool) (a d : Fld6) (s : State) : Host.Outcome State Fault Refusal := runVector (pcollInfo cv mk a d s.hart) false (collapseM mk d a) s

/-- pthr mD, mA: what issue needs to know. -/
def pthrInfo (cv mk : Bool) (a d : Fld6) (h : Hart) : VInfo :=
  h.maskInfo .arithA (lowVV 0x29 1 cv mk d a 0) cv mk d [] [a] [] false
/-- pthr mD, mA (R308). -/
def execPthr (cv mk : Bool) (a d : Fld6) (s : State) : Host.Outcome State Fault Refusal := runVector (pthrInfo cv mk a d s.hart) false (thresholdM mk d a) s

/-- pgrad vD, mA: what issue needs to know. -/
def pgradInfo (cv mk : Bool) (a d : Fld6) (h : Hart) : VInfo :=
  (h.fromMaskInfo (lowVV 0x29 2 cv mk d a 0) cv mk d a).canSat h
/-- pgrad vD, mA (R309). -/
def execPgrad (cv mk : Bool) (a d : Fld6) (s : State) : Host.Outcome State Fault Refusal := runVector (pgradInfo cv mk a d s.hart) false (gradV mk d a) s

/-- pgrad.st vD, mA: what issue needs to know. -/
def pgradStInfo (cv mk : Bool) (a d : Fld6) (h : Hart) : VInfo :=
  h.fromMaskInfo (lowVV 0x29 3 cv mk d a 0) cv mk d a
/-- pgrad.st vD, mA (R309). -/
def execPgradSt (cv mk : Bool) (a d : Fld6) (s : State) : Host.Outcome State Fault Refusal := runVector (pgradStInfo cv mk a d s.hart) false (gradStV mk d a) s

/-- pbgrad vD, vA, vB: what issue needs to know. -/
def pbgradInfo (cv mk : Bool) (b a d : Fld6) (h : Hart) : VInfo :=
  (h.arithInfo .arithA (lowVV 0x29 4 cv mk d a b) 4 cv mk d 1 false [(a, 1), (b, 1)] []).canSat h
/-- pbgrad vD, vA, vB (R310). -/
def execPbgrad (cv mk : Bool) (b a d : Fld6) (s : State) : Host.Outcome State Fault Refusal := runVector (pbgradInfo cv mk b a d s.hart) false (bgradV mk d a b) s

/-- pmov.v vD, mA: what issue needs to know. -/
def pmovVInfo (cv mk : Bool) (a d : Fld6) (h : Hart) : VInfo :=
  (h.fromMaskInfo (lowVV 0x29 5 cv mk d a 0) cv mk d a).canSat h
/-- pmov.v vD, mA (R311). -/
def execPmovV (cv mk : Bool) (a d : Fld6) (s : State) : Host.Outcome State Fault Refusal := runVector (pmovVInfo cv mk a d s.hart) false (pmovToV mk d a) s

/-- pmov.m mD, vA: what issue needs to know. -/
def pmovMInfo (cv mk : Bool) (a d : Fld6) (h : Hart) : VInfo :=
  h.maskInfo .arithA (lowVV 0x29 6 cv mk d a 0) cv mk d [a] [] [] true
/-- pmov.m mD, vA (R311). -/
def execPmovM (cv mk : Bool) (a d : Fld6) (s : State) : Host.Outcome State Fault Refusal := runVector (pmovMInfo cv mk a d s.hart) false (pmovToM mk d a) s

end Sys2Proof.Machine
end

