-- ==== Sys2Proof/Machine/Scalar.lean ====
section
/-! DEFINITION. Scalar integer and immediate instructions, MAJ 0x00 to 0x08 (R236-R240). -/
namespace Sys2Proof.Machine

/-- A scalar result written and the PC moved on (R236). -/
def State.scalarResult (s : State) (d : GReg) (v : W64) (len : Nat) : State := (s.setG d v).advance len

/-- 1 where a condition holds, else 0. -/
def ofCond (c : Bool) : W64 := if c then 1 else 0

/-- Signed division of R238. -/
def divSigned (a b : W64) : W64 := if b = 0 then 0xFFFFFFFFFFFFFFFF else a.sdiv b
/-- Signed remainder of R238. -/
def remSigned (a b : W64) : W64 := if b = 0 then a else a.srem b
/-- Unsigned division of R238. -/
def divUnsigned (a b : W64) : W64 := if b = 0 then 0xFFFFFFFFFFFFFFFF else a / b
/-- Unsigned remainder of R238. -/
def remUnsigned (a b : W64) : W64 := if b = 0 then a else a % b

/-- Leading zero bits of the low n bits, from the top. -/
def leadZeros (a : W64) : Nat → Nat
  | 0 => 0
  | n + 1 => if a.getLsbD n then 0 else 1 + leadZeros a n

/-- Trailing zero bits, looking at n bits from bit 64 - n up. -/
def trailZeros (a : W64) : Nat → Nat
  | 0 => 0
  | n + 1 => if a.getLsbD (63 - n) then 0 else 1 + trailZeros a n

/-- One bits among the low n bits. -/
def onesBelow (a : W64) : Nat → Nat
  | 0 => 0
  | n + 1 => (if a.getLsbD n then 1 else 0) + onesBelow a n

/-- The upper word placed over the lower word of a register (R239). -/
def overLow (hi : W64) (a : W64) : W64 := (hi <<< 32) ||| (a &&& 0xFFFFFFFF)

/-- ADD (R237). -/
def valAdd (a b : W64) : W64 := a + b
/-- add gD, gA, gB (R237). -/
def execAdd (b a d : GReg) (s : State) : Host.Outcome State Fault Refusal :=
  .next (s.scalarResult d (valAdd (s.gr a) (s.gr b)) 4)

/-- SUB (R237). -/
def valSub (a b : W64) : W64 := a - b
/-- sub gD, gA, gB (R237). -/
def execSub (b a d : GReg) (s : State) : Host.Outcome State Fault Refusal :=
  .next (s.scalarResult d (valSub (s.gr a) (s.gr b)) 4)

/-- AND (R237). -/
def valAnd (a b : W64) : W64 := a &&& b
/-- and gD, gA, gB (R237). -/
def execAnd (b a d : GReg) (s : State) : Host.Outcome State Fault Refusal :=
  .next (s.scalarResult d (valAnd (s.gr a) (s.gr b)) 4)

/-- OR (R237). -/
def valOr (a b : W64) : W64 := a ||| b
/-- or gD, gA, gB (R237). -/
def execOr (b a d : GReg) (s : State) : Host.Outcome State Fault Refusal :=
  .next (s.scalarResult d (valOr (s.gr a) (s.gr b)) 4)

/-- XOR (R237). -/
def valXor (a b : W64) : W64 := a ^^^ b
/-- xor gD, gA, gB (R237). -/
def execXor (b a d : GReg) (s : State) : Host.Outcome State Fault Refusal :=
  .next (s.scalarResult d (valXor (s.gr a) (s.gr b)) 4)

/-- SLL (R237). -/
def valSll (a b : W64) : W64 := a <<< (b.toNat % 64)
/-- sll gD, gA, gB (R237). -/
def execSll (b a d : GReg) (s : State) : Host.Outcome State Fault Refusal :=
  .next (s.scalarResult d (valSll (s.gr a) (s.gr b)) 4)

/-- SRL (R237). -/
def valSrl (a b : W64) : W64 := a >>> (b.toNat % 64)
/-- srl gD, gA, gB (R237). -/
def execSrl (b a d : GReg) (s : State) : Host.Outcome State Fault Refusal :=
  .next (s.scalarResult d (valSrl (s.gr a) (s.gr b)) 4)

/-- SRA (R237). -/
def valSra (a b : W64) : W64 := a.sshiftRight (b.toNat % 64)
/-- sra gD, gA, gB (R237). -/
def execSra (b a d : GReg) (s : State) : Host.Outcome State Fault Refusal :=
  .next (s.scalarResult d (valSra (s.gr a) (s.gr b)) 4)

/-- SLT (R237). -/
def valSlt (a b : W64) : W64 := ofCond (a.slt b)
/-- slt gD, gA, gB (R237). -/
def execSlt (b a d : GReg) (s : State) : Host.Outcome State Fault Refusal :=
  .next (s.scalarResult d (valSlt (s.gr a) (s.gr b)) 4)

/-- SLTU (R237). -/
def valSltu (a b : W64) : W64 := ofCond (a.ult b)
/-- sltu gD, gA, gB (R237). -/
def execSltu (b a d : GReg) (s : State) : Host.Outcome State Fault Refusal :=
  .next (s.scalarResult d (valSltu (s.gr a) (s.gr b)) 4)

/-- MIN (R237). -/
def valMinS (a b : W64) : W64 := if b.slt a then b else a
/-- min gD, gA, gB (R237). -/
def execMin (b a d : GReg) (s : State) : Host.Outcome State Fault Refusal :=
  .next (s.scalarResult d (valMinS (s.gr a) (s.gr b)) 4)

/-- MAX (R237). -/
def valMaxS (a b : W64) : W64 := if a.slt b then b else a
/-- max gD, gA, gB (R237). -/
def execMax (b a d : GReg) (s : State) : Host.Outcome State Fault Refusal :=
  .next (s.scalarResult d (valMaxS (s.gr a) (s.gr b)) 4)

/-- MINU (R237). -/
def valMinu (a b : W64) : W64 := if b.ult a then b else a
/-- minu gD, gA, gB (R237). -/
def execMinu (b a d : GReg) (s : State) : Host.Outcome State Fault Refusal :=
  .next (s.scalarResult d (valMinu (s.gr a) (s.gr b)) 4)

/-- MAXU (R237). -/
def valMaxu (a b : W64) : W64 := if a.ult b then b else a
/-- maxu gD, gA, gB (R237). -/
def execMaxu (b a d : GReg) (s : State) : Host.Outcome State Fault Refusal :=
  .next (s.scalarResult d (valMaxu (s.gr a) (s.gr b)) 4)

/-- MUL (R237). -/
def valMul (a b : W64) : W64 := a * b
/-- mul gD, gA, gB (R237). -/
def execMul (b a d : GReg) (s : State) : Host.Outcome State Fault Refusal :=
  .next (s.scalarResult d (valMul (s.gr a) (s.gr b)) 4)

/-- MULH (R237). -/
def valMulh (a b : W64) : W64 := BitVec.ofInt 64 (a.toInt * b.toInt / 18446744073709551616)
/-- mulh gD, gA, gB (R237). -/
def execMulh (b a d : GReg) (s : State) : Host.Outcome State Fault Refusal :=
  .next (s.scalarResult d (valMulh (s.gr a) (s.gr b)) 4)

/-- MULHU (R237). -/
def valMulhu (a b : W64) : W64 := BitVec.ofNat 64 (a.toNat * b.toNat / 18446744073709551616)
/-- mulhu gD, gA, gB (R237). -/
def execMulhu (b a d : GReg) (s : State) : Host.Outcome State Fault Refusal :=
  .next (s.scalarResult d (valMulhu (s.gr a) (s.gr b)) 4)

/-- DIV (R237). -/
def valDiv (a b : W64) : W64 := divSigned a b
/-- div gD, gA, gB (R237). -/
def execDiv (b a d : GReg) (s : State) : Host.Outcome State Fault Refusal :=
  .next (s.scalarResult d (valDiv (s.gr a) (s.gr b)) 4)

/-- DIVU (R237). -/
def valDivu (a b : W64) : W64 := divUnsigned a b
/-- divu gD, gA, gB (R237). -/
def execDivu (b a d : GReg) (s : State) : Host.Outcome State Fault Refusal :=
  .next (s.scalarResult d (valDivu (s.gr a) (s.gr b)) 4)

/-- REM (R237). -/
def valRem (a b : W64) : W64 := remSigned a b
/-- rem gD, gA, gB (R237). -/
def execRem (b a d : GReg) (s : State) : Host.Outcome State Fault Refusal :=
  .next (s.scalarResult d (valRem (s.gr a) (s.gr b)) 4)

/-- REMU (R237). -/
def valRemu (a b : W64) : W64 := remUnsigned a b
/-- remu gD, gA, gB (R237). -/
def execRemu (b a d : GReg) (s : State) : Host.Outcome State Fault Refusal :=
  .next (s.scalarResult d (valRemu (s.gr a) (s.gr b)) 4)

/-- clz of one source (R237). -/
def valClz (a : W64) : W64 := BitVec.ofNat 64 (leadZeros a 64)
/-- clz gD, gA (R237). -/
def execClz (a d : GReg) (s : State) : Host.Outcome State Fault Refusal :=
  .next (s.scalarResult d (valClz (s.gr a)) 4)

/-- ctz of one source (R237). -/
def valCtz (a : W64) : W64 := BitVec.ofNat 64 (trailZeros a 64)
/-- ctz gD, gA (R237). -/
def execCtz (a d : GReg) (s : State) : Host.Outcome State Fault Refusal :=
  .next (s.scalarResult d (valCtz (s.gr a)) 4)

/-- popc of one source (R237). -/
def valPopc (a : W64) : W64 := BitVec.ofNat 64 (onesBelow a 64)
/-- popc gD, gA (R237). -/
def execPopc (a d : GReg) (s : State) : Host.Outcome State Fault Refusal :=
  .next (s.scalarResult d (valPopc (s.gr a)) 4)

/-- addi gD, gA, imm (R239). -/
def execAddi (imm : BitVec 14) (a d : GReg) (s : State) : Host.Outcome State Fault Refusal :=
  .next (s.scalarResult d (valAdd (s.gr a) (imm.signExtend 64)) 4)

/-- The 64-bit form of addi: the immediate is IMM32 sign-extended (R239). -/
def execAddiLong (a d : GReg) (imm32 : W32) (s : State) : Host.Outcome State Fault Refusal :=
  .next (s.scalarResult d (valAdd (s.gr a) (imm32.signExtend 64)) 8)

/-- andi gD, gA, imm (R239). -/
def execAndi (imm : BitVec 14) (a d : GReg) (s : State) : Host.Outcome State Fault Refusal :=
  .next (s.scalarResult d (valAnd (s.gr a) (imm.signExtend 64)) 4)

/-- The 64-bit form of andi: the immediate is IMM32 sign-extended (R239). -/
def execAndiLong (a d : GReg) (imm32 : W32) (s : State) : Host.Outcome State Fault Refusal :=
  .next (s.scalarResult d (valAnd (s.gr a) (imm32.signExtend 64)) 8)

/-- ori gD, gA, imm (R239). -/
def execOri (imm : BitVec 14) (a d : GReg) (s : State) : Host.Outcome State Fault Refusal :=
  .next (s.scalarResult d (valOr (s.gr a) (imm.signExtend 64)) 4)

/-- The 64-bit form of ori: the immediate is IMM32 sign-extended (R239). -/
def execOriLong (a d : GReg) (imm32 : W32) (s : State) : Host.Outcome State Fault Refusal :=
  .next (s.scalarResult d (valOr (s.gr a) (imm32.signExtend 64)) 8)

/-- xori gD, gA, imm (R239). -/
def execXori (imm : BitVec 14) (a d : GReg) (s : State) : Host.Outcome State Fault Refusal :=
  .next (s.scalarResult d (valXor (s.gr a) (imm.signExtend 64)) 4)

/-- The 64-bit form of xori: the immediate is IMM32 sign-extended (R239). -/
def execXoriLong (a d : GReg) (imm32 : W32) (s : State) : Host.Outcome State Fault Refusal :=
  .next (s.scalarResult d (valXor (s.gr a) (imm32.signExtend 64)) 8)

/-- slti gD, gA, imm (R239). -/
def execSlti (imm : BitVec 14) (a d : GReg) (s : State) : Host.Outcome State Fault Refusal :=
  .next (s.scalarResult d (valSlt (s.gr a) (imm.signExtend 64)) 4)

/-- The 64-bit form of slti: the immediate is IMM32 sign-extended (R239). -/
def execSltiLong (a d : GReg) (imm32 : W32) (s : State) : Host.Outcome State Fault Refusal :=
  .next (s.scalarResult d (valSlt (s.gr a) (imm32.signExtend 64)) 8)

/-- liw gD, gA, imm (R239). -/
def execLiw (imm : BitVec 14) (a d : GReg) (s : State) : Host.Outcome State Fault Refusal :=
  .next (s.scalarResult d (overLow (imm.signExtend 64) (s.gr a)) 4)

/-- The 64-bit form of liw: the immediate is IMM32 sign-extended (R239). -/
def execLiwLong (a d : GReg) (imm32 : W32) (s : State) : Host.Outcome State Fault Refusal :=
  .next (s.scalarResult d (overLow (imm32.signExtend 64) (s.gr a)) 8)

/-- lih gD, imm (R239). -/
def execLih (imm : BitVec 14) (d : GReg) (s : State) : Host.Outcome State Fault Refusal :=
  .next (s.scalarResult d (imm.signExtend 64) 4)

/-- The 64-bit form of lih (R239). -/
def execLihLong (d : GReg) (imm32 : W32) (s : State) : Host.Outcome State Fault Refusal :=
  .next (s.scalarResult d (imm32.signExtend 64) 8)

/-- slli gD, gA, sh (R240). -/
def execSlli (sh : BitVec 6) (a d : GReg) (s : State) : Host.Outcome State Fault Refusal :=
  .next (s.scalarResult d (s.gr a <<< sh.toNat) 4)

/-- srli gD, gA, sh (R240). -/
def execSrli (sh : BitVec 6) (a d : GReg) (s : State) : Host.Outcome State Fault Refusal :=
  .next (s.scalarResult d (s.gr a >>> sh.toNat) 4)

/-- srai gD, gA, sh (R240). -/
def execSrai (sh : BitVec 6) (a d : GReg) (s : State) : Host.Outcome State Fault Refusal :=
  .next (s.scalarResult d ((s.gr a).sshiftRight sh.toNat) 4)

end Sys2Proof.Machine
end

