-- ==== Sys2Proof/Machine/Dispatch.lean ====
section
/-! DEFINITION. The meaning of every instruction and event: one direct call each. -/
namespace Sys2Proof.Machine

def exec (i : Instr) (s : State) : Host.Outcome State Fault Refusal :=
  match i with
  | .add b a d => Sys2Proof.Machine.execAdd b a d s
  | .sub b a d => Sys2Proof.Machine.execSub b a d s
  | .and b a d => Sys2Proof.Machine.execAnd b a d s
  | .or b a d => Sys2Proof.Machine.execOr b a d s
  | .xor b a d => Sys2Proof.Machine.execXor b a d s
  | .sll b a d => Sys2Proof.Machine.execSll b a d s
  | .srl b a d => Sys2Proof.Machine.execSrl b a d s
  | .sra b a d => Sys2Proof.Machine.execSra b a d s
  | .slt b a d => Sys2Proof.Machine.execSlt b a d s
  | .sltu b a d => Sys2Proof.Machine.execSltu b a d s
  | .min b a d => Sys2Proof.Machine.execMin b a d s
  | .max b a d => Sys2Proof.Machine.execMax b a d s
  | .minu b a d => Sys2Proof.Machine.execMinu b a d s
  | .maxu b a d => Sys2Proof.Machine.execMaxu b a d s
  | .mul b a d => Sys2Proof.Machine.execMul b a d s
  | .mulh b a d => Sys2Proof.Machine.execMulh b a d s
  | .mulhu b a d => Sys2Proof.Machine.execMulhu b a d s
  | .div b a d => Sys2Proof.Machine.execDiv b a d s
  | .divu b a d => Sys2Proof.Machine.execDivu b a d s
  | .rem b a d => Sys2Proof.Machine.execRem b a d s
  | .remu b a d => Sys2Proof.Machine.execRemu b a d s
  | .clz a d => Sys2Proof.Machine.execClz a d s
  | .ctz a d => Sys2Proof.Machine.execCtz a d s
  | .popc a d => Sys2Proof.Machine.execPopc a d s
  | .addi imm a d => Sys2Proof.Machine.execAddi imm a d s
  | .addiLong a d imm32 => Sys2Proof.Machine.execAddiLong a d imm32 s
  | .andi imm a d => Sys2Proof.Machine.execAndi imm a d s
  | .andiLong a d imm32 => Sys2Proof.Machine.execAndiLong a d imm32 s
  | .ori imm a d => Sys2Proof.Machine.execOri imm a d s
  | .oriLong a d imm32 => Sys2Proof.Machine.execOriLong a d imm32 s
  | .xori imm a d => Sys2Proof.Machine.execXori imm a d s
  | .xoriLong a d imm32 => Sys2Proof.Machine.execXoriLong a d imm32 s
  | .slti imm a d => Sys2Proof.Machine.execSlti imm a d s
  | .sltiLong a d imm32 => Sys2Proof.Machine.execSltiLong a d imm32 s
  | .slli sh a d => Sys2Proof.Machine.execSlli sh a d s
  | .srli sh a d => Sys2Proof.Machine.execSrli sh a d s
  | .srai sh a d => Sys2Proof.Machine.execSrai sh a d s
  | .lih imm d => Sys2Proof.Machine.execLih imm d s
  | .lihLong d imm32 => Sys2Proof.Machine.execLihLong d imm32 s
  | .liw imm a d => Sys2Proof.Machine.execLiw imm a d s
  | .liwLong a d imm32 => Sys2Proof.Machine.execLiwLong a d imm32 s
  | .ldB imm a d => Sys2Proof.Machine.execLdB imm a d s
  | .ldBLong a d imm32 => Sys2Proof.Machine.execLdBLong a d imm32 s
  | .ldBu imm a d => Sys2Proof.Machine.execLdBu imm a d s
  | .ldBuLong a d imm32 => Sys2Proof.Machine.execLdBuLong a d imm32 s
  | .ldH imm a d => Sys2Proof.Machine.execLdH imm a d s
  | .ldHLong a d imm32 => Sys2Proof.Machine.execLdHLong a d imm32 s
  | .ldHu imm a d => Sys2Proof.Machine.execLdHu imm a d s
  | .ldHuLong a d imm32 => Sys2Proof.Machine.execLdHuLong a d imm32 s
  | .ldW imm a d => Sys2Proof.Machine.execLdW imm a d s
  | .ldWLong a d imm32 => Sys2Proof.Machine.execLdWLong a d imm32 s
  | .ldWu imm a d => Sys2Proof.Machine.execLdWu imm a d s
  | .ldWuLong a d imm32 => Sys2Proof.Machine.execLdWuLong a d imm32 s
  | .ldD imm a d => Sys2Proof.Machine.execLdD imm a d s
  | .ldDLong a d imm32 => Sys2Proof.Machine.execLdDLong a d imm32 s
  | .ldDA8 imm a d => Sys2Proof.Machine.execLdDA8 imm a d s
  | .ldDA8Long a d imm32 => Sys2Proof.Machine.execLdDA8Long a d imm32 s
  | .stB imm a d => Sys2Proof.Machine.execStB imm a d s
  | .stBLong a d imm32 => Sys2Proof.Machine.execStBLong a d imm32 s
  | .stH imm a d => Sys2Proof.Machine.execStH imm a d s
  | .stHLong a d imm32 => Sys2Proof.Machine.execStHLong a d imm32 s
  | .stW imm a d => Sys2Proof.Machine.execStW imm a d s
  | .stWLong a d imm32 => Sys2Proof.Machine.execStWLong a d imm32 s
  | .stD imm a d => Sys2Proof.Machine.execStD imm a d s
  | .stDLong a d imm32 => Sys2Proof.Machine.execStDLong a d imm32 s
  | .stDA8 imm a d => Sys2Proof.Machine.execStDA8 imm a d s
  | .stDA8Long a d imm32 => Sys2Proof.Machine.execStDA8Long a d imm32 s
  | .ldQA16 imm a d => Sys2Proof.Machine.execLdQA16 imm a d s
  | .ldQA16Long a d imm32 => Sys2Proof.Machine.execLdQA16Long a d imm32 s
  | .stQA16 imm a d => Sys2Proof.Machine.execStQA16 imm a d s
  | .stQA16Long a d imm32 => Sys2Proof.Machine.execStQA16Long a d imm32 s
  | .ldA sz sc a d => Sys2Proof.Machine.execLdA sz sc a d s
  | .ldALong sz sc a d imm32 => Sys2Proof.Machine.execLdALong sz sc a d imm32 s
  | .stR sz sc a d => Sys2Proof.Machine.execStR sz sc a d s
  | .stRLong sz sc a d imm32 => Sys2Proof.Machine.execStRLong sz sc a d imm32 s
  | .amoAdd od sc b a d wide => Sys2Proof.Machine.execAmoAdd od sc b a d wide s
  | .amoAddLong od sc b a d wide imm32 => Sys2Proof.Machine.execAmoAddLong od sc b a d wide imm32 s
  | .amoAnd od sc b a d wide => Sys2Proof.Machine.execAmoAnd od sc b a d wide s
  | .amoAndLong od sc b a d wide imm32 => Sys2Proof.Machine.execAmoAndLong od sc b a d wide imm32 s
  | .amoOr od sc b a d wide => Sys2Proof.Machine.execAmoOr od sc b a d wide s
  | .amoOrLong od sc b a d wide imm32 => Sys2Proof.Machine.execAmoOrLong od sc b a d wide imm32 s
  | .amoXor od sc b a d wide => Sys2Proof.Machine.execAmoXor od sc b a d wide s
  | .amoXorLong od sc b a d wide imm32 => Sys2Proof.Machine.execAmoXorLong od sc b a d wide imm32 s
  | .amoMin od sc b a d wide => Sys2Proof.Machine.execAmoMin od sc b a d wide s
  | .amoMinLong od sc b a d wide imm32 => Sys2Proof.Machine.execAmoMinLong od sc b a d wide imm32 s
  | .amoMax od sc b a d wide => Sys2Proof.Machine.execAmoMax od sc b a d wide s
  | .amoMaxLong od sc b a d wide imm32 => Sys2Proof.Machine.execAmoMaxLong od sc b a d wide imm32 s
  | .amoMinu od sc b a d wide => Sys2Proof.Machine.execAmoMinu od sc b a d wide s
  | .amoMinuLong od sc b a d wide imm32 => Sys2Proof.Machine.execAmoMinuLong od sc b a d wide imm32 s
  | .amoMaxu od sc b a d wide => Sys2Proof.Machine.execAmoMaxu od sc b a d wide s
  | .amoMaxuLong od sc b a d wide imm32 => Sys2Proof.Machine.execAmoMaxuLong od sc b a d wide imm32 s
  | .amoSwap od sc b a d wide => Sys2Proof.Machine.execAmoSwap od sc b a d wide s
  | .amoSwapLong od sc b a d wide imm32 => Sys2Proof.Machine.execAmoSwapLong od sc b a d wide imm32 s
  | .amoCas od sc b a d wide => Sys2Proof.Machine.execAmoCas od sc b a d wide s
  | .amoCasLong od sc b a d wide imm32 => Sys2Proof.Machine.execAmoCasLong od sc b a d wide imm32 s
  | .amoSwapA16 od sc b a d => Sys2Proof.Machine.execAmoSwapA16 od sc b a d s
  | .amoSwapA16Long od sc b a d imm32 => Sys2Proof.Machine.execAmoSwapA16Long od sc b a d imm32 s
  | .amoCasA16 od sc b a d => Sys2Proof.Machine.execAmoCasA16 od sc b a d s
  | .amoCasA16Long od sc b a d imm32 => Sys2Proof.Machine.execAmoCasA16Long od sc b a d imm32 s
  | .fence sc => Sys2Proof.Machine.execFence sc s
  | .fenceX sc after before => Sys2Proof.Machine.execFenceX sc after before s
  | .wfm sc b a d => Sys2Proof.Machine.execWfm sc b a d s
  | .wfmWake => Sys2Proof.Machine.execWfmWake s
  | .waitq qm => Sys2Proof.Machine.execWaitq qm s
  | .beq off a => Sys2Proof.Machine.execBeq off a s
  | .beqLong off a c => Sys2Proof.Machine.execBeqLong off a c s
  | .bne off a => Sys2Proof.Machine.execBne off a s
  | .bneLong off a c => Sys2Proof.Machine.execBneLong off a c s
  | .blt off a => Sys2Proof.Machine.execBlt off a s
  | .bltLong off a c => Sys2Proof.Machine.execBltLong off a c s
  | .bge off a => Sys2Proof.Machine.execBge off a s
  | .bgeLong off a c => Sys2Proof.Machine.execBgeLong off a c s
  | .bltu off a => Sys2Proof.Machine.execBltu off a s
  | .bltuLong off a c => Sys2Proof.Machine.execBltuLong off a c s
  | .bgeu off a => Sys2Proof.Machine.execBgeu off a s
  | .bgeuLong off a c => Sys2Proof.Machine.execBgeuLong off a c s
  | .jalr off a => Sys2Proof.Machine.execJalr off a s
  | .jalrLong off a c => Sys2Proof.Machine.execJalrLong off a c s
  | .jal off d => Sys2Proof.Machine.execJal off d s
  | .csrw csr a d => Sys2Proof.Machine.execCsrw csr a d s
  | .csrs csr a d => Sys2Proof.Machine.execCsrs csr a d s
  | .csrc csr a d => Sys2Proof.Machine.execCsrc csr a d s
  | .ecall => Sys2Proof.Machine.execEcall s
  | .tret => Sys2Proof.Machine.execTret s
  | .brk code => Sys2Proof.Machine.execBrk code s
  | .halt => Sys2Proof.Machine.execHalt s
  | .yield => Sys2Proof.Machine.execYield s
  | .glaunch a d => Sys2Proof.Machine.execGlaunch a d s
  | .gexit => Sys2Proof.Machine.execGexit s
  | .gbar => Sys2Proof.Machine.execGbar s
  | .tlbiVa b a => Sys2Proof.Machine.execTlbiVa b a s
  | .tlbiAs b => Sys2Proof.Machine.execTlbiAs b s
  | .tlbiAll => Sys2Proof.Machine.execTlbiAll s
  | .vaddVv cv mk b a d => Sys2Proof.Machine.execVaddVv cv mk b a d s
  | .vaddVx cv mk g a d => Sys2Proof.Machine.execVaddVx cv mk g a d s
  | .vsubVv cv mk b a d => Sys2Proof.Machine.execVsubVv cv mk b a d s
  | .vsubVx cv mk g a d => Sys2Proof.Machine.execVsubVx cv mk g a d s
  | .vmulVv cv mk b a d => Sys2Proof.Machine.execVmulVv cv mk b a d s
  | .vmulVx cv mk g a d => Sys2Proof.Machine.execVmulVx cv mk g a d s
  | .vminVv cv mk b a d => Sys2Proof.Machine.execVminVv cv mk b a d s
  | .vminVx cv mk g a d => Sys2Proof.Machine.execVminVx cv mk g a d s
  | .vmaxVv cv mk b a d => Sys2Proof.Machine.execVmaxVv cv mk b a d s
  | .vmaxVx cv mk g a d => Sys2Proof.Machine.execVmaxVx cv mk g a d s
  | .vandVv cv mk b a d => Sys2Proof.Machine.execVandVv cv mk b a d s
  | .vandVx cv mk g a d => Sys2Proof.Machine.execVandVx cv mk g a d s
  | .vorVv cv mk b a d => Sys2Proof.Machine.execVorVv cv mk b a d s
  | .vorVx cv mk g a d => Sys2Proof.Machine.execVorVx cv mk g a d s
  | .vxorVv cv mk b a d => Sys2Proof.Machine.execVxorVv cv mk b a d s
  | .vxorVx cv mk g a d => Sys2Proof.Machine.execVxorVx cv mk g a d s
  | .vsllVv cv mk b a d => Sys2Proof.Machine.execVsllVv cv mk b a d s
  | .vsllVx cv mk g a d => Sys2Proof.Machine.execVsllVx cv mk g a d s
  | .vsrlVv cv mk b a d => Sys2Proof.Machine.execVsrlVv cv mk b a d s
  | .vsrlVx cv mk g a d => Sys2Proof.Machine.execVsrlVx cv mk g a d s
  | .vsraVv cv mk b a d => Sys2Proof.Machine.execVsraVv cv mk b a d s
  | .vsraVx cv mk g a d => Sys2Proof.Machine.execVsraVx cv mk g a d s
  | .vmulhVv cv mk b a d => Sys2Proof.Machine.execVmulhVv cv mk b a d s
  | .vmulhVx cv mk g a d => Sys2Proof.Machine.execVmulhVx cv mk g a d s
  | .vsaddVv cv mk b a d => Sys2Proof.Machine.execVsaddVv cv mk b a d s
  | .vsaddVx cv mk g a d => Sys2Proof.Machine.execVsaddVx cv mk g a d s
  | .vssubVv cv mk b a d => Sys2Proof.Machine.execVssubVv cv mk b a d s
  | .vssubVx cv mk g a d => Sys2Proof.Machine.execVssubVx cv mk g a d s
  | .vavgVv cv mk b a d => Sys2Proof.Machine.execVavgVv cv mk b a d s
  | .vavgVx cv mk g a d => Sys2Proof.Machine.execVavgVx cv mk g a d s
  | .vdivVv cv mk b a d => Sys2Proof.Machine.execVdivVv cv mk b a d s
  | .vdivVx cv mk g a d => Sys2Proof.Machine.execVdivVx cv mk g a d s
  | .vsplat cv mk g d => Sys2Proof.Machine.execVsplat cv mk g d s
  | .vfma cv mk b a d => Sys2Proof.Machine.execVfma cv mk b a d s
  | .vfms cv mk b a d => Sys2Proof.Machine.execVfms cv mk b a d s
  | .vfnma cv mk b a d => Sys2Proof.Machine.execVfnma cv mk b a d s
  | .vsqrt cv mk b x d => Sys2Proof.Machine.execVsqrt cv mk b x d s
  | .vrcp cv mk b x d => Sys2Proof.Machine.execVrcp cv mk b x d s
  | .vrsq cv mk b x d => Sys2Proof.Machine.execVrsq cv mk b x d s
  | .vexp cv mk b x d => Sys2Proof.Machine.execVexp cv mk b x d s
  | .vlog2 cv mk b x d => Sys2Proof.Machine.execVlog2 cv mk b x d s
  | .vabs cv mk b x d => Sys2Proof.Machine.execVabs cv mk b x d s
  | .vneg cv mk b x d => Sys2Proof.Machine.execVneg cv mk b x d s
  | .vnot cv mk b x d => Sys2Proof.Machine.execVnot cv mk b x d s
  | .vmov cv mk b x d => Sys2Proof.Machine.execVmov cv mk b x d s
  | .vcmpEqVv cv mk b a d => Sys2Proof.Machine.execVcmpEqVv cv mk b a d s
  | .vcmpNeVv cv mk b a d => Sys2Proof.Machine.execVcmpNeVv cv mk b a d s
  | .vcmpLtVv cv mk b a d => Sys2Proof.Machine.execVcmpLtVv cv mk b a d s
  | .vcmpLeVv cv mk b a d => Sys2Proof.Machine.execVcmpLeVv cv mk b a d s
  | .vcmpGtVv cv mk b a d => Sys2Proof.Machine.execVcmpGtVv cv mk b a d s
  | .vcmpGeVv cv mk b a d => Sys2Proof.Machine.execVcmpGeVv cv mk b a d s
  | .vcmpEqVx cv mk g a d => Sys2Proof.Machine.execVcmpEqVx cv mk g a d s
  | .vcmpNeVx cv mk g a d => Sys2Proof.Machine.execVcmpNeVx cv mk g a d s
  | .vcmpLtVx cv mk g a d => Sys2Proof.Machine.execVcmpLtVx cv mk g a d s
  | .vcmpLeVx cv mk g a d => Sys2Proof.Machine.execVcmpLeVx cv mk g a d s
  | .vcmpGtVx cv mk g a d => Sys2Proof.Machine.execVcmpGtVx cv mk g a d s
  | .vcmpGeVx cv mk g a d => Sys2Proof.Machine.execVcmpGeVx cv mk g a d s
  | .vwmacVv cv mk b a d => Sys2Proof.Machine.execVwmacVv cv mk b a d s
  | .vsad cv mk b a d => Sys2Proof.Machine.execVsad cv mk b a d s
  | .vwmacVx cv mk g a d => Sys2Proof.Machine.execVwmacVx cv mk g a d s
  | .vnshr cv mk g a d => Sys2Proof.Machine.execVnshr cv mk g a d s
  | .vclip cv mk g a d => Sys2Proof.Machine.execVclip cv mk g a d s
  | .vredSum cv mk a d => Sys2Proof.Machine.execVredSum cv mk a d s
  | .vredMax cv mk a d => Sys2Proof.Machine.execVredMax cv mk a d s
  | .vredMin cv mk a d => Sys2Proof.Machine.execVredMin cv mk a d s
  | .vredAnd cv mk a d => Sys2Proof.Machine.execVredAnd cv mk a d s
  | .vredOr cv mk a d => Sys2Proof.Machine.execVredOr cv mk a d s
  | .vredoSum cv mk b a d => Sys2Proof.Machine.execVredoSum cv mk b a d s
  | .vscanAdd cv mk a d => Sys2Proof.Machine.execVscanAdd cv mk a d s
  | .vscanMax cv mk a d => Sys2Proof.Machine.execVscanMax cv mk a d s
  | .vscanMin cv mk a d => Sys2Proof.Machine.execVscanMin cv mk a d s
  | .vrgather cv mk b a d => Sys2Proof.Machine.execVrgather cv mk b a d s
  | .vcompress cv b a d => Sys2Proof.Machine.execVcompress cv b a d s
  | .vexpand cv b a d => Sys2Proof.Machine.execVexpand cv b a d s
  | .vmergeM cv b a d => Sys2Proof.Machine.execVmergeM cv b a d s
  | .vtrans8 cv d => Sys2Proof.Machine.execVtrans8 cv d s
  | .vid cv mk d => Sys2Proof.Machine.execVid cv mk d s
  | .viota cv mk a d => Sys2Proof.Machine.execViota cv mk a d s
  | .vslideup cv mk g a d => Sys2Proof.Machine.execVslideup cv mk g a d s
  | .vslidedn cv mk g a d => Sys2Proof.Machine.execVslidedn cv mk g a d s
  | .vext cv g a d => Sys2Proof.Machine.execVext cv g a d s
  | .vins cv g a d => Sys2Proof.Machine.execVins cv g a d s
  | .mpopc cv mk a d => Sys2Proof.Machine.execMpopc cv mk a d s
  | .mfirst cv mk a d => Sys2Proof.Machine.execMfirst cv mk a d s
  | .vld cv mk ord fm a8 g d => Sys2Proof.Machine.execVld cv mk ord fm a8 g d s
  | .vldLong cv mk ord fm a8 g d imm32 => Sys2Proof.Machine.execVldLong cv mk ord fm a8 g d imm32 s
  | .vlds cv mk ord fm a8 g st d => Sys2Proof.Machine.execVlds cv mk ord fm a8 g st d s
  | .vldsLong cv mk ord fm a8 g st d imm32 => Sys2Proof.Machine.execVldsLong cv mk ord fm a8 g st d imm32 s
  | .vldx cv mk ord fm a8 g a d => Sys2Proof.Machine.execVldx cv mk ord fm a8 g a d s
  | .vldxLong cv mk ord fm a8 g a d imm32 => Sys2Proof.Machine.execVldxLong cv mk ord fm a8 g a d imm32 s
  | .vldseg cv mk ord fm a8 g nf d => Sys2Proof.Machine.execVldseg cv mk ord fm a8 g nf d s
  | .vldsegLong cv mk ord fm a8 g nf d imm32 => Sys2Proof.Machine.execVldsegLong cv mk ord fm a8 g nf d imm32 s
  | .vst cv mk ord fm a8 g d => Sys2Proof.Machine.execVst cv mk ord fm a8 g d s
  | .vstLong cv mk ord fm a8 g d imm32 => Sys2Proof.Machine.execVstLong cv mk ord fm a8 g d imm32 s
  | .vsts cv mk ord fm a8 g st d => Sys2Proof.Machine.execVsts cv mk ord fm a8 g st d s
  | .vstsLong cv mk ord fm a8 g st d imm32 => Sys2Proof.Machine.execVstsLong cv mk ord fm a8 g st d imm32 s
  | .vstx cv mk ord fm a8 g a d => Sys2Proof.Machine.execVstx cv mk ord fm a8 g a d s
  | .vstxLong cv mk ord fm a8 g a d imm32 => Sys2Proof.Machine.execVstxLong cv mk ord fm a8 g a d imm32 s
  | .vstseg cv mk ord fm a8 g nf d => Sys2Proof.Machine.execVstseg cv mk ord fm a8 g nf d s
  | .vstsegLong cv mk ord fm a8 g nf d imm32 => Sys2Proof.Machine.execVstsegLong cv mk ord fm a8 g nf d imm32 s
  | .vldc g a d => Sys2Proof.Machine.execVldc g a d s
  | .vamoAdd cv mk ord g a d => Sys2Proof.Machine.execVamoAdd cv mk ord g a d s
  | .vamoAddLong cv mk ord g a d imm32 => Sys2Proof.Machine.execVamoAddLong cv mk ord g a d imm32 s
  | .vamoMax cv mk ord g a d => Sys2Proof.Machine.execVamoMax cv mk ord g a d s
  | .vamoMaxLong cv mk ord g a d imm32 => Sys2Proof.Machine.execVamoMaxLong cv mk ord g a d imm32 s
  | .vamoMin cv mk ord g a d => Sys2Proof.Machine.execVamoMin cv mk ord g a d s
  | .vamoMinLong cv mk ord g a d imm32 => Sys2Proof.Machine.execVamoMinLong cv mk ord g a d imm32 s
  | .vamoSwap cv mk ord g a d => Sys2Proof.Machine.execVamoSwap cv mk ord g a d s
  | .vamoSwapLong cv mk ord g a d imm32 => Sys2Proof.Machine.execVamoSwapLong cv mk ord g a d imm32 s
  | .vmcast cv mk g a d => Sys2Proof.Machine.execVmcast cv mk g a d s
  | .vsave g => Sys2Proof.Machine.execVsave g s
  | .vrest g => Sys2Proof.Machine.execVrest g s
  | .vpop cv mk a d => Sys2Proof.Machine.execVpop cv mk a d s
  | .vpush cv mk a d => Sys2Proof.Machine.execVpush cv mk a d s
  | .sbind g d => Sys2Proof.Machine.execSbind g d s
  | .sfree d => Sys2Proof.Machine.execSfree d s
  | .streamReadAhead str n => Sys2Proof.Machine.execStreamReadAhead str n s
  | .vcfg g => Sys2Proof.Machine.execVcfg g s
  | .vtag t d => Sys2Proof.Machine.execVtag t d s
  | .vwinV g d => Sys2Proof.Machine.execVwinV g d s
  | .vwinM g d => Sys2Proof.Machine.execVwinM g d s
  | .vsetl g d => Sys2Proof.Machine.execVsetl g d s
  | .vloop g => Sys2Proof.Machine.execVloop g s
  | .vnext off => Sys2Proof.Machine.execVnext off s
  | .vflat g d => Sys2Proof.Machine.execVflat g d s
  | .vrgn a n => Sys2Proof.Machine.execVrgn a n s
  | .winset g d => Sys2Proof.Machine.execWinset g d s
  | .winclr d => Sys2Proof.Machine.execWinclr d s
  | .winclrD d => Sys2Proof.Machine.execWinclrD d s
  | .winwait d => Sys2Proof.Machine.execWinwait d s
  | .winflush d => Sys2Proof.Machine.execWinflush d s
  | .lcset g imm d => Sys2Proof.Machine.execLcset g imm d s
  | .lcsetLong g imm d imm32 => Sys2Proof.Machine.execLcsetLong g imm d imm32 s
  | .lcadv g imm d => Sys2Proof.Machine.execLcadv g imm d s
  | .lcadvLong g imm d imm32 => Sys2Proof.Machine.execLcadvLong g imm d imm32 s
  | .advance => Sys2Proof.Machine.execAdvance s
  | .lcrd a d => Sys2Proof.Machine.execLcrd a d s
  | .winq a d => Sys2Proof.Machine.execWinq a d s
  | .vldw cv mk dim g a d => Sys2Proof.Machine.execVldw cv mk dim g a d s
  | .vstw cv mk dim g a d => Sys2Proof.Machine.execVstw cv mk dim g a d s
  | .lineArrival w line => Sys2Proof.Machine.execLineArrival w line s
  | .residencyPrefetch w ahead => Sys2Proof.Machine.execResidencyPrefetch w ahead s
  | .earlyWriteback w slot => Sys2Proof.Machine.execEarlyWriteback w slot s
  | .vscmpLt cv mk b a d => Sys2Proof.Machine.execVscmpLt cv mk b a d s
  | .vscmpLe cv mk b a d => Sys2Proof.Machine.execVscmpLe cv mk b a d s
  | .vscmpGt cv mk b a d => Sys2Proof.Machine.execVscmpGt cv mk b a d s
  | .vscmpGe cv mk b a d => Sys2Proof.Machine.execVscmpGe cv mk b a d s
  | .pandInd cv mk b a d => Sys2Proof.Machine.execPandInd cv mk b a d s
  | .pandPos cv mk b a d => Sys2Proof.Machine.execPandPos cv mk b a d s
  | .pandNeg cv mk b a d => Sys2Proof.Machine.execPandNeg cv mk b a d s
  | .porInd cv mk b a d => Sys2Proof.Machine.execPorInd cv mk b a d s
  | .porPos cv mk b a d => Sys2Proof.Machine.execPorPos cv mk b a d s
  | .porNeg cv mk b a d => Sys2Proof.Machine.execPorNeg cv mk b a d s
  | .pnot cv mk b x d => Sys2Proof.Machine.execPnot cv mk b x d s
  | .pblendM cv b a d => Sys2Proof.Machine.execPblendM cv b a d s
  | .pcoll cv mk a d => Sys2Proof.Machine.execPcoll cv mk a d s
  | .pthr cv mk a d => Sys2Proof.Machine.execPthr cv mk a d s
  | .pgrad cv mk a d => Sys2Proof.Machine.execPgrad cv mk a d s
  | .pgradSt cv mk a d => Sys2Proof.Machine.execPgradSt cv mk a d s
  | .pbgrad cv mk b a d => Sys2Proof.Machine.execPbgrad cv mk b a d s
  | .pmovV cv mk a d => Sys2Proof.Machine.execPmovV cv mk a d s
  | .pmovM cv mk a d => Sys2Proof.Machine.execPmovM cv mk a d s
  | .xpa cv mk pb pa b a d => Sys2Proof.Machine.execXpa cv mk pb pa b a d s
  | .xps cv mk pb pa b a d => Sys2Proof.Machine.execXps cv mk pb pa b a d s
  | .xpaI cv mk pb pa b a d => Sys2Proof.Machine.execXpaI cv mk pb pa b a d s
  | .xpaS cv mk b a d => Sys2Proof.Machine.execXpaS cv mk b a d s
  | .mxon g => Sys2Proof.Machine.execMxon g s
  | .matrixAcquire => Sys2Proof.Machine.execMatrixAcquire s
  | .mxoff => Sys2Proof.Machine.execMxoff s
  | .mzero d => Sys2Proof.Machine.execMzero d s
  | .mrdV mk g a d => Sys2Proof.Machine.execMrdV mk g a d s
  | .mrdG g a d => Sys2Proof.Machine.execMrdG g a d s
  | .mwr mk g a d => Sys2Proof.Machine.execMwr mk g a d s
  | .mld g a d => Sys2Proof.Machine.execMld g a d s
  | .mst g a d => Sys2Proof.Machine.execMst g a d s
  | .enq mk a d => Sys2Proof.Machine.execEnq mk a d s
  | .cVadd b d => Sys2Proof.Machine.execCVadd b d s
  | .cVsub b d => Sys2Proof.Machine.execCVsub b d s
  | .cVmul b d => Sys2Proof.Machine.execCVmul b d s
  | .cVfma b d => Sys2Proof.Machine.execCVfma b d s
  | .cVmin b d => Sys2Proof.Machine.execCVmin b d s
  | .cVmax b d => Sys2Proof.Machine.execCVmax b d s
  | .cVand b d => Sys2Proof.Machine.execCVand b d s
  | .cVor b d => Sys2Proof.Machine.execCVor b d s
  | .cVxor b d => Sys2Proof.Machine.execCVxor b d s
  | .cVmov b d => Sys2Proof.Machine.execCVmov b d s
  | .cVabs b d => Sys2Proof.Machine.execCVabs b d s
  | .cVneg b d => Sys2Proof.Machine.execCVneg b d s
  | .cVsadd b d => Sys2Proof.Machine.execCVsadd b d s
  | .cVssub b d => Sys2Proof.Machine.execCVssub b d s
  | .cVavg b d => Sys2Proof.Machine.execCVavg b d s
  | .pageWalk va write => Sys2Proof.Machine.execPageWalk va write s
  | .copy c => Sys2Proof.Machine.execCopy c s
  | .copyt c => Sys2Proof.Machine.execCopyt c s
  | .fprint c => Sys2Proof.Machine.execFprint c s
  | .decode c => Sys2Proof.Machine.execDecode c s
  | .decodeWatchdogCut c chunks emitted => Sys2Proof.Machine.execDecodeWatchdogCut c chunks emitted s
  | .topk c => Sys2Proof.Machine.execTopk c s
  | .ring c => Sys2Proof.Machine.execRing c s
  | .srd c => Sys2Proof.Machine.execSrd c s
  | .swr c => Sys2Proof.Machine.execSwr c s
  | .flcfg c => Sys2Proof.Machine.execFlcfg c s
  | .flcfgEmpty c => Sys2Proof.Machine.execFlcfgEmpty c s
  | .flrun c => Sys2Proof.Machine.execFlrun c s
  | .gangReady gang => Sys2Proof.Machine.execGangReady gang s
  | .gangPlace gang => Sys2Proof.Machine.execGangPlace gang s
  | .nextPreload gang => Sys2Proof.Machine.execNextPreload gang s
  | .priorityAging gang => Sys2Proof.Machine.execPriorityAging gang s
  | .priorityRise gang => Sys2Proof.Machine.execPriorityRise gang s
  | .budgetOverrun gang => Sys2Proof.Machine.execBudgetOverrun gang s
  | .hartHalt hart => Sys2Proof.Machine.execHartHalt hart s
  | .kill q => Sys2Proof.Machine.execKill q s
  | .rerun q => Sys2Proof.Machine.execRerun q s
  | .resume q => Sys2Proof.Machine.execResume q s
  | .patrolScrub pa found => Sys2Proof.Machine.execPatrolScrub pa found s
  | .errorLogRead die slot => Sys2Proof.Machine.execErrorLogRead die slot s
  | .persistentFault die core point addr => Sys2Proof.Machine.execPersistentFault die core point addr s
  | .noiseHealthFailure die core => Sys2Proof.Machine.execNoiseHealthFailure die core s
  | .hostPostedWrite pa data => Sys2Proof.Machine.execHostPostedWrite pa data s
  | .hostRead pa n => Sys2Proof.Machine.execHostRead pa n s
  | .startSupervisor part => Sys2Proof.Machine.execStartSupervisor part s
  | .diesChange part mask => Sys2Proof.Machine.execDiesChange part mask s
  | .partitionBlockWrite part off data => Sys2Proof.Machine.execPartitionBlockWrite part off data s
  | .powerOn b => Sys2Proof.Machine.execPowerOn b s
  | .bootWatchdog => Sys2Proof.Machine.execBootWatchdog s
  | .firmwareWrite image => Sys2Proof.Machine.execFirmwareWrite image s
  | .startRequest b => Sys2Proof.Machine.execStartRequest b s
  | .attestation nonce => Sys2Proof.Machine.execAttestation nonce s
  | .clockThrottle island khz => Sys2Proof.Machine.execClockThrottle island khz s
  | .linkFailure link => Sys2Proof.Machine.execLinkFailure link s
  | .illegalEncoding sub low => Sys2Proof.Machine.execIllegalEncoding sub low s
  | .fetchFault cause tval => Sys2Proof.Machine.execFetchFault cause tval s
  | .peerAccess write pa n data => Sys2Proof.Machine.execPeerAccess write pa n data s
  | .driveCompletion sct sc data => Sys2Proof.Machine.execDriveCompletion sct sc data s

end Sys2Proof.Machine
end

