-- ==== Sys2Proof/Machine/Convoy.lean ====
section
/-! DEFINITION. Convoys (R191-R196, R201): gathering the members that stand at the PC, and running them as one unit. -/
namespace Sys2Proof.Machine

/-- What issue needs to know of an instruction; none for one that uses no vector or matrix queue. -/
def infoOf (i : Instr) (h : Hart) : Option VInfo :=
  match i with
  | .add _ _ _ => none
  | .sub _ _ _ => none
  | .and _ _ _ => none
  | .or _ _ _ => none
  | .xor _ _ _ => none
  | .sll _ _ _ => none
  | .srl _ _ _ => none
  | .sra _ _ _ => none
  | .slt _ _ _ => none
  | .sltu _ _ _ => none
  | .min _ _ _ => none
  | .max _ _ _ => none
  | .minu _ _ _ => none
  | .maxu _ _ _ => none
  | .mul _ _ _ => none
  | .mulh _ _ _ => none
  | .mulhu _ _ _ => none
  | .div _ _ _ => none
  | .divu _ _ _ => none
  | .rem _ _ _ => none
  | .remu _ _ _ => none
  | .clz _ _ => none
  | .ctz _ _ => none
  | .popc _ _ => none
  | .addi _ _ _ => none
  | .addiLong _ _ _ => none
  | .andi _ _ _ => none
  | .andiLong _ _ _ => none
  | .ori _ _ _ => none
  | .oriLong _ _ _ => none
  | .xori _ _ _ => none
  | .xoriLong _ _ _ => none
  | .slti _ _ _ => none
  | .sltiLong _ _ _ => none
  | .slli _ _ _ => none
  | .srli _ _ _ => none
  | .srai _ _ _ => none
  | .lih _ _ => none
  | .lihLong _ _ => none
  | .liw _ _ _ => none
  | .liwLong _ _ _ => none
  | .ldB _ _ _ => none
  | .ldBLong _ _ _ => none
  | .ldBu _ _ _ => none
  | .ldBuLong _ _ _ => none
  | .ldH _ _ _ => none
  | .ldHLong _ _ _ => none
  | .ldHu _ _ _ => none
  | .ldHuLong _ _ _ => none
  | .ldW _ _ _ => none
  | .ldWLong _ _ _ => none
  | .ldWu _ _ _ => none
  | .ldWuLong _ _ _ => none
  | .ldD _ _ _ => none
  | .ldDLong _ _ _ => none
  | .ldDA8 _ _ _ => none
  | .ldDA8Long _ _ _ => none
  | .stB _ _ _ => none
  | .stBLong _ _ _ => none
  | .stH _ _ _ => none
  | .stHLong _ _ _ => none
  | .stW _ _ _ => none
  | .stWLong _ _ _ => none
  | .stD _ _ _ => none
  | .stDLong _ _ _ => none
  | .stDA8 _ _ _ => none
  | .stDA8Long _ _ _ => none
  | .ldQA16 _ _ _ => none
  | .ldQA16Long _ _ _ => none
  | .stQA16 _ _ _ => none
  | .stQA16Long _ _ _ => none
  | .ldA _ _ _ _ => none
  | .ldALong _ _ _ _ _ => none
  | .stR _ _ _ _ => none
  | .stRLong _ _ _ _ _ => none
  | .amoAdd _ _ _ _ _ _ => none
  | .amoAddLong _ _ _ _ _ _ _ => none
  | .amoAnd _ _ _ _ _ _ => none
  | .amoAndLong _ _ _ _ _ _ _ => none
  | .amoOr _ _ _ _ _ _ => none
  | .amoOrLong _ _ _ _ _ _ _ => none
  | .amoXor _ _ _ _ _ _ => none
  | .amoXorLong _ _ _ _ _ _ _ => none
  | .amoMin _ _ _ _ _ _ => none
  | .amoMinLong _ _ _ _ _ _ _ => none
  | .amoMax _ _ _ _ _ _ => none
  | .amoMaxLong _ _ _ _ _ _ _ => none
  | .amoMinu _ _ _ _ _ _ => none
  | .amoMinuLong _ _ _ _ _ _ _ => none
  | .amoMaxu _ _ _ _ _ _ => none
  | .amoMaxuLong _ _ _ _ _ _ _ => none
  | .amoSwap _ _ _ _ _ _ => none
  | .amoSwapLong _ _ _ _ _ _ _ => none
  | .amoCas _ _ _ _ _ _ => none
  | .amoCasLong _ _ _ _ _ _ _ => none
  | .amoSwapA16 _ _ _ _ _ => none
  | .amoSwapA16Long _ _ _ _ _ _ => none
  | .amoCasA16 _ _ _ _ _ => none
  | .amoCasA16Long _ _ _ _ _ _ => none
  | .fence _ => none
  | .fenceX _ _ _ => none
  | .wfm _ _ _ _ => none
  | .wfmWake => none
  | .waitq _ => none
  | .beq _ _ => none
  | .beqLong _ _ _ => none
  | .bne _ _ => none
  | .bneLong _ _ _ => none
  | .blt _ _ => none
  | .bltLong _ _ _ => none
  | .bge _ _ => none
  | .bgeLong _ _ _ => none
  | .bltu _ _ => none
  | .bltuLong _ _ _ => none
  | .bgeu _ _ => none
  | .bgeuLong _ _ _ => none
  | .jalr _ _ => none
  | .jalrLong _ _ _ => none
  | .jal _ _ => none
  | .csrw _ _ _ => none
  | .csrs _ _ _ => none
  | .csrc _ _ _ => none
  | .ecall => none
  | .tret => none
  | .brk _ => none
  | .halt => none
  | .yield => none
  | .glaunch _ _ => none
  | .gexit => none
  | .gbar => none
  | .tlbiVa _ _ => none
  | .tlbiAs _ => none
  | .tlbiAll => none
  | .vaddVv cv mk b a d => some (vaddVvInfo cv mk b a d h)
  | .vaddVx cv mk g a d => some (vaddVxInfo cv mk g a d h)
  | .vsubVv cv mk b a d => some (vsubVvInfo cv mk b a d h)
  | .vsubVx cv mk g a d => some (vsubVxInfo cv mk g a d h)
  | .vmulVv cv mk b a d => some (vmulVvInfo cv mk b a d h)
  | .vmulVx cv mk g a d => some (vmulVxInfo cv mk g a d h)
  | .vminVv cv mk b a d => some (vminVvInfo cv mk b a d h)
  | .vminVx cv mk g a d => some (vminVxInfo cv mk g a d h)
  | .vmaxVv cv mk b a d => some (vmaxVvInfo cv mk b a d h)
  | .vmaxVx cv mk g a d => some (vmaxVxInfo cv mk g a d h)
  | .vandVv cv mk b a d => some (vandVvInfo cv mk b a d h)
  | .vandVx cv mk g a d => some (vandVxInfo cv mk g a d h)
  | .vorVv cv mk b a d => some (vorVvInfo cv mk b a d h)
  | .vorVx cv mk g a d => some (vorVxInfo cv mk g a d h)
  | .vxorVv cv mk b a d => some (vxorVvInfo cv mk b a d h)
  | .vxorVx cv mk g a d => some (vxorVxInfo cv mk g a d h)
  | .vsllVv cv mk b a d => some (vsllVvInfo cv mk b a d h)
  | .vsllVx cv mk g a d => some (vsllVxInfo cv mk g a d h)
  | .vsrlVv cv mk b a d => some (vsrlVvInfo cv mk b a d h)
  | .vsrlVx cv mk g a d => some (vsrlVxInfo cv mk g a d h)
  | .vsraVv cv mk b a d => some (vsraVvInfo cv mk b a d h)
  | .vsraVx cv mk g a d => some (vsraVxInfo cv mk g a d h)
  | .vmulhVv cv mk b a d => some (vmulhVvInfo cv mk b a d h)
  | .vmulhVx cv mk g a d => some (vmulhVxInfo cv mk g a d h)
  | .vsaddVv cv mk b a d => some (vsaddVvInfo cv mk b a d h)
  | .vsaddVx cv mk g a d => some (vsaddVxInfo cv mk g a d h)
  | .vssubVv cv mk b a d => some (vssubVvInfo cv mk b a d h)
  | .vssubVx cv mk g a d => some (vssubVxInfo cv mk g a d h)
  | .vavgVv cv mk b a d => some (vavgVvInfo cv mk b a d h)
  | .vavgVx cv mk g a d => some (vavgVxInfo cv mk g a d h)
  | .vdivVv cv mk b a d => some (vdivVvInfo cv mk b a d h)
  | .vdivVx cv mk g a d => some (vdivVxInfo cv mk g a d h)
  | .vsplat cv mk g d => some (vsplatInfo cv mk g d h)
  | .vfma cv mk b a d => some (vfmaInfo cv mk b a d h)
  | .vfms cv mk b a d => some (vfmsInfo cv mk b a d h)
  | .vfnma cv mk b a d => some (vfnmaInfo cv mk b a d h)
  | .vsqrt cv mk b x d => some (vsqrtInfo cv mk b x d h)
  | .vrcp cv mk b x d => some (vrcpInfo cv mk b x d h)
  | .vrsq cv mk b x d => some (vrsqInfo cv mk b x d h)
  | .vexp cv mk b x d => some (vexpInfo cv mk b x d h)
  | .vlog2 cv mk b x d => some (vlog2Info cv mk b x d h)
  | .vabs cv mk b x d => some (vabsInfo cv mk b x d h)
  | .vneg cv mk b x d => some (vnegInfo cv mk b x d h)
  | .vnot cv mk b x d => some (vnotInfo cv mk b x d h)
  | .vmov cv mk b x d => some (vmovInfo cv mk b x d h)
  | .vcmpEqVv cv mk b a d => some (vcmpEqVvInfo cv mk b a d h)
  | .vcmpNeVv cv mk b a d => some (vcmpNeVvInfo cv mk b a d h)
  | .vcmpLtVv cv mk b a d => some (vcmpLtVvInfo cv mk b a d h)
  | .vcmpLeVv cv mk b a d => some (vcmpLeVvInfo cv mk b a d h)
  | .vcmpGtVv cv mk b a d => some (vcmpGtVvInfo cv mk b a d h)
  | .vcmpGeVv cv mk b a d => some (vcmpGeVvInfo cv mk b a d h)
  | .vcmpEqVx cv mk g a d => some (vcmpEqVxInfo cv mk g a d h)
  | .vcmpNeVx cv mk g a d => some (vcmpNeVxInfo cv mk g a d h)
  | .vcmpLtVx cv mk g a d => some (vcmpLtVxInfo cv mk g a d h)
  | .vcmpLeVx cv mk g a d => some (vcmpLeVxInfo cv mk g a d h)
  | .vcmpGtVx cv mk g a d => some (vcmpGtVxInfo cv mk g a d h)
  | .vcmpGeVx cv mk g a d => some (vcmpGeVxInfo cv mk g a d h)
  | .vwmacVv cv mk b a d => some (vwmacVvInfo cv mk b a d h)
  | .vsad cv mk b a d => some (vsadInfo cv mk b a d h)
  | .vwmacVx cv mk g a d => some (vwmacVxInfo cv mk g a d h)
  | .vnshr cv mk g a d => some (vnshrInfo cv mk g a d h)
  | .vclip cv mk g a d => some (vclipInfo cv mk g a d h)
  | .vredSum cv mk a d => some (vredSumInfo cv mk a d h)
  | .vredMax cv mk a d => some (vredMaxInfo cv mk a d h)
  | .vredMin cv mk a d => some (vredMinInfo cv mk a d h)
  | .vredAnd cv mk a d => some (vredAndInfo cv mk a d h)
  | .vredOr cv mk a d => some (vredOrInfo cv mk a d h)
  | .vredoSum cv mk b a d => some (vredoSumInfo cv mk b a d h)
  | .vscanAdd cv mk a d => some (vscanAddInfo cv mk a d h)
  | .vscanMax cv mk a d => some (vscanMaxInfo cv mk a d h)
  | .vscanMin cv mk a d => some (vscanMinInfo cv mk a d h)
  | .vrgather cv mk b a d => some (vrgatherInfo cv mk b a d h)
  | .vcompress cv b a d => some (vcompressInfo cv b a d h)
  | .vexpand cv b a d => some (vexpandInfo cv b a d h)
  | .vmergeM cv b a d => some (vmergeMInfo cv b a d h)
  | .vtrans8 cv d => some (vtrans8Info cv d h)
  | .vid cv mk d => some (vidInfo cv mk d h)
  | .viota cv mk a d => some (viotaInfo cv mk a d h)
  | .vslideup cv mk g a d => some (vslideupInfo cv mk g a d h)
  | .vslidedn cv mk g a d => some (vslidednInfo cv mk g a d h)
  | .vext cv g a d => some (vextInfo cv g a d h)
  | .vins cv g a d => some (vinsInfo cv g a d h)
  | .mpopc cv mk a d => some (mpopcInfo cv mk a d h)
  | .mfirst cv mk a d => some (mfirstInfo cv mk a d h)
  | .vld cv mk ord fm a8 g d => some (vldInfo cv mk ord fm a8 g d h)
  | .vldLong cv mk ord fm a8 g d imm32 => some (vldLongInfo cv mk ord fm a8 g d imm32 h)
  | .vlds cv mk ord fm a8 g st d => some (vldsInfo cv mk ord fm a8 g st d h)
  | .vldsLong cv mk ord fm a8 g st d imm32 => some (vldsLongInfo cv mk ord fm a8 g st d imm32 h)
  | .vldx cv mk ord fm a8 g a d => some (vldxInfo cv mk ord fm a8 g a d h)
  | .vldxLong cv mk ord fm a8 g a d imm32 => some (vldxLongInfo cv mk ord fm a8 g a d imm32 h)
  | .vldseg cv mk ord fm a8 g nf d => some (vldsegInfo cv mk ord fm a8 g nf d h)
  | .vldsegLong cv mk ord fm a8 g nf d imm32 => some (vldsegLongInfo cv mk ord fm a8 g nf d imm32 h)
  | .vst cv mk ord fm a8 g d => some (vstInfo cv mk ord fm a8 g d h)
  | .vstLong cv mk ord fm a8 g d imm32 => some (vstLongInfo cv mk ord fm a8 g d imm32 h)
  | .vsts cv mk ord fm a8 g st d => some (vstsInfo cv mk ord fm a8 g st d h)
  | .vstsLong cv mk ord fm a8 g st d imm32 => some (vstsLongInfo cv mk ord fm a8 g st d imm32 h)
  | .vstx cv mk ord fm a8 g a d => some (vstxInfo cv mk ord fm a8 g a d h)
  | .vstxLong cv mk ord fm a8 g a d imm32 => some (vstxLongInfo cv mk ord fm a8 g a d imm32 h)
  | .vstseg cv mk ord fm a8 g nf d => some (vstsegInfo cv mk ord fm a8 g nf d h)
  | .vstsegLong cv mk ord fm a8 g nf d imm32 => some (vstsegLongInfo cv mk ord fm a8 g nf d imm32 h)
  | .vldc g a d => some (vldcInfo g a d h)
  | .vamoAdd cv mk ord g a d => some (vamoAddInfo cv mk ord g a d h)
  | .vamoAddLong cv mk ord g a d imm32 => some (vamoAddLongInfo cv mk ord g a d imm32 h)
  | .vamoMax cv mk ord g a d => some (vamoMaxInfo cv mk ord g a d h)
  | .vamoMaxLong cv mk ord g a d imm32 => some (vamoMaxLongInfo cv mk ord g a d imm32 h)
  | .vamoMin cv mk ord g a d => some (vamoMinInfo cv mk ord g a d h)
  | .vamoMinLong cv mk ord g a d imm32 => some (vamoMinLongInfo cv mk ord g a d imm32 h)
  | .vamoSwap cv mk ord g a d => some (vamoSwapInfo cv mk ord g a d h)
  | .vamoSwapLong cv mk ord g a d imm32 => some (vamoSwapLongInfo cv mk ord g a d imm32 h)
  | .vmcast cv mk g a d => some (vmcastInfo cv mk g a d h)
  | .vsave g => some (vsaveInfo g h)
  | .vrest g => some (vrestInfo g h)
  | .vpop cv mk a d => some (vpopInfo cv mk a d h)
  | .vpush cv mk a d => some (vpushInfo cv mk a d h)
  | .sbind g d => some (sbindInfo g d h)
  | .sfree d => some (sfreeInfo d h)
  | .streamReadAhead _ _ => none
  | .vcfg _ => none
  | .vtag t d => some (vtagInfo t d h)
  | .vwinV g d => some (vwinVInfo g d h)
  | .vwinM g d => some (vwinMInfo g d h)
  | .vsetl _ _ => none
  | .vloop _ => none
  | .vnext _ => none
  | .vflat _ _ => none
  | .vrgn a n => some (vrgnInfo a n h)
  | .winset g d => some (winsetInfo g d h)
  | .winclr d => some (winclrInfo d h)
  | .winclrD d => some (winclrDInfo d h)
  | .winwait d => some (winwaitInfo d h)
  | .winflush d => some (winflushInfo d h)
  | .lcset g imm d => some (lcsetInfo g imm d h)
  | .lcsetLong g imm d imm32 => some (lcsetLongInfo g imm d imm32 h)
  | .lcadv g imm d => some (lcadvInfo g imm d h)
  | .lcadvLong g imm d imm32 => some (lcadvLongInfo g imm d imm32 h)
  | .advance => none
  | .lcrd a d => some (lcrdInfo a d h)
  | .winq a d => some (winqInfo a d h)
  | .vldw cv mk dim g a d => some (vldwInfo cv mk dim g a d h)
  | .vstw cv mk dim g a d => some (vstwInfo cv mk dim g a d h)
  | .lineArrival _ _ => none
  | .residencyPrefetch _ _ => none
  | .earlyWriteback _ _ => none
  | .vscmpLt cv mk b a d => some (vscmpLtInfo cv mk b a d h)
  | .vscmpLe cv mk b a d => some (vscmpLeInfo cv mk b a d h)
  | .vscmpGt cv mk b a d => some (vscmpGtInfo cv mk b a d h)
  | .vscmpGe cv mk b a d => some (vscmpGeInfo cv mk b a d h)
  | .pandInd cv mk b a d => some (pandIndInfo cv mk b a d h)
  | .pandPos cv mk b a d => some (pandPosInfo cv mk b a d h)
  | .pandNeg cv mk b a d => some (pandNegInfo cv mk b a d h)
  | .porInd cv mk b a d => some (porIndInfo cv mk b a d h)
  | .porPos cv mk b a d => some (porPosInfo cv mk b a d h)
  | .porNeg cv mk b a d => some (porNegInfo cv mk b a d h)
  | .pnot cv mk b x d => some (pnotInfo cv mk b x d h)
  | .pblendM cv b a d => some (pblendMInfo cv b a d h)
  | .pcoll cv mk a d => some (pcollInfo cv mk a d h)
  | .pthr cv mk a d => some (pthrInfo cv mk a d h)
  | .pgrad cv mk a d => some (pgradInfo cv mk a d h)
  | .pgradSt cv mk a d => some (pgradStInfo cv mk a d h)
  | .pbgrad cv mk b a d => some (pbgradInfo cv mk b a d h)
  | .pmovV cv mk a d => some (pmovVInfo cv mk a d h)
  | .pmovM cv mk a d => some (pmovMInfo cv mk a d h)
  | .xpa cv mk pb pa b a d => some (xpaInfo cv mk pb pa b a d h)
  | .xps cv mk pb pa b a d => some (xpsInfo cv mk pb pa b a d h)
  | .xpaI cv mk pb pa b a d => some (xpaIInfo cv mk pb pa b a d h)
  | .xpaS cv mk b a d => some (xpaSInfo cv mk b a d h)
  | .mxon g => some (mxonInfo g h)
  | .matrixAcquire => none
  | .mxoff => some (mxoffInfo h)
  | .mzero d => some (mzeroInfo d h)
  | .mrdV mk g a d => some (mrdVInfo mk g a d h)
  | .mrdG g a d => some (mrdGInfo g a d h)
  | .mwr mk g a d => some (mwrInfo mk g a d h)
  | .mld g a d => some (mldInfo g a d h)
  | .mst g a d => some (mstInfo g a d h)
  | .enq mk a d => some (enqInfo mk a d h)
  | .cVadd b d => some (cVaddInfo b d h)
  | .cVsub b d => some (cVsubInfo b d h)
  | .cVmul b d => some (cVmulInfo b d h)
  | .cVfma b d => some (cVfmaInfo b d h)
  | .cVmin b d => some (cVminInfo b d h)
  | .cVmax b d => some (cVmaxInfo b d h)
  | .cVand b d => some (cVandInfo b d h)
  | .cVor b d => some (cVorInfo b d h)
  | .cVxor b d => some (cVxorInfo b d h)
  | .cVmov b d => some (cVmovInfo b d h)
  | .cVabs b d => some (cVabsInfo b d h)
  | .cVneg b d => some (cVnegInfo b d h)
  | .cVsadd b d => some (cVsaddInfo b d h)
  | .cVssub b d => some (cVssubInfo b d h)
  | .cVavg b d => some (cVavgInfo b d h)
  | .pageWalk _ _ => none
  | .copy _ => none
  | .copyt _ => none
  | .fprint _ => none
  | .decode _ => none
  | .decodeWatchdogCut _ _ _ => none
  | .topk _ => none
  | .ring _ => none
  | .srd _ => none
  | .swr _ => none
  | .flcfg _ => none
  | .flcfgEmpty _ => none
  | .flrun _ => none
  | .gangReady _ => none
  | .gangPlace _ => none
  | .nextPreload _ => none
  | .priorityAging _ => none
  | .priorityRise _ => none
  | .budgetOverrun _ => none
  | .hartHalt _ => none
  | .kill _ => none
  | .rerun _ => none
  | .resume _ => none
  | .patrolScrub _ _ => none
  | .errorLogRead _ _ => none
  | .persistentFault _ _ _ _ => none
  | .noiseHealthFailure _ _ => none
  | .hostPostedWrite _ _ => none
  | .hostRead _ _ => none
  | .startSupervisor _ => none
  | .diesChange _ _ => none
  | .partitionBlockWrite _ _ _ => none
  | .powerOn _ => none
  | .bootWatchdog => none
  | .firmwareWrite _ => none
  | .startRequest _ => none
  | .attestation _ => none
  | .clockThrottle _ _ => none
  | .linkFailure _ => none
  | .illegalEncoding _ _ => none
  | .fetchFault _ _ => none
  | .peerAccess _ _ _ _ => none
  | .driveCompletion _ _ _ => none
/-- A member of a convoy: the instruction, what issue knows of it, and its address. -/
structure Member where
  instr : Instr
  info : VInfo
  pc : W64
deriving DecidableEq, Repr

/-- Members found so far, the address after them, and the ILLEGAL trap of the instruction that breaks the convoy, if one does. -/
structure Gather where
  members : List Member
  next : W64
  broken : Option Trap
deriving DecidableEq, Repr

/-- Whether an instruction can stand in a convoy at all (R191). -/
def VInfo.joins (v : VInfo) : Bool := v.queue == qVq && v.cls.isSome && v.ill.isNone

/-- What the convoy rules keep of members (R191, R193). -/
def sigs (ms : List Member) : List SpanMember := ms.map (fun m => m.info.sig)

/-- The instruction at an address, as the decoder reads it; none where the fetch faults or nothing is encoded there. (DEDUCED, log 12.) -/
noncomputable def State.peek (s : State) (pc : W64) : Option Instr :=
  match fetchBytes (s.setHart { s.hart with pc := pc }) with
  | .ok bs _ => match decode bs with | .ok (i, _) => some i | .error _ => none
  | .error _ _ => none

/-- The hart as a later member finds it: the last vector destination follows the earlier members (R17). -/
def Hart.after (h : Hart) (ms : List Member) : Hart :=
  ms.foldl (fun h m => match m.info.dest with | some d => { h with lastDest := d.toNat } | none => h) h

/-- VQ instructions a convoy may still take before a span ends (R201). -/
def Hart.spanRoom (h : Hart) : Option Nat := h.span.map Span.left

/-- The members behind those found (R191). (DEDUCED, log 12; DEDUCED, log 21.) -/
noncomputable def gather (s : State) : Nat → Gather → Gather
  | 0, g => g
  | f + 1, g =>
    match s.peek g.next with
    | none => g
    | some i =>
      match infoOf i (s.hart.after g.members) with
      | none => g
      | some v =>
        if !v.joins || v.cv || readsEarlier (sigs g.members) v then g
        else
          match breaks (sigs g.members) v (s.hart.spanRoom == some g.members.length) with
          | some n => { g with broken := some (illegalTrap n v.low v.queue) }
          | none => gather s f { g with members := g.members ++ [{ instr := i, info := v, pc := g.next }], next := g.next + BitVec.ofNat 64 v.len }

/-- A hart at the start of a convoy, or of a loose instruction that a pre-emption stops, with a limit; what it waited in is tried again. -/
def Hart.enterConvoy (h : Hart) (limit : Option Nat) (loose : Bool := false) : Hart :=
  { h with
    wait := .none
    byp := if loose then h.byp else h.byp.map (fun b => { b with written := false, data := [] })
    convoy := some { member := 0, limit := limit, trap := none, trapMember := 0, ext := [], loose := loose, ahead := [], gates := [], done := [], force := none } }

/-- The focus hart moved on to a member, with the element that it has surely performed. -/
def State.atMember (s : State) (j : Nat) (force : Option Nat) : State :=
  s.setHart { s.hart with convoy := s.hart.convoy.map (fun c => { c with member := j, force := force }) }

/-- The members run one after another (R194); stops early where one waits. `force` gives the element that a member has surely performed. (DEDUCED, log 21.) -/
def runMembers (ex : Instr → State → Host.Outcome State Fault Refusal) (force : Nat → Option Nat) : Nat → List Member → State → Host.Outcome State Fault Refusal
  | _, [], s => .next s
  | j, m :: r, s =>
    match ex m.instr (s.atMember j (force j)) with
    | .next s => if s.hart.wait != .none then .next s else runMembers ex force (j + 1) r s
    | .fault f => .fault f
    | .refused f => .refused f

/-- The earlier members whose results, directly or through others, reach an instruction that reads the registers `needs` (R194): their numbers, the members being given
from the last one back. -/
def feeders : List Member → List Nat → List Nat
  | [], _ => []
  | m :: r, needs => if shares m.info.writes needs then r.length :: feeders r (m.info.reads ++ needs) else feeders r needs

/-- The element that each member has surely performed where a member traps at element `e`: what the trapping element was computed from is written (R194, R196). -/
def forcedBy (ms : List Member) (t : Nat) (e : Option Nat) : Nat → Option Nat :=
  let fs := match ms[t]? with | some m => feeders (ms.take t).reverse m.info.reads | none => []
  fun j => if fs.contains j then e else none

/-- The element at which a convoy stops: a block's first where a member writes BX blocks (R225). (DEDUCED, log 21.) -/
def stopElement (ms : List Member) (es e : Nat) : Nat := if ms.any (fun m => m.info.bx) then Nat.max es (e / 32 * 32) else e

/-- The focus hart put back before a convoy or an instruction that stopped: only what its elements changed stays. -/
def State.standAt (s : State) (h : Hart) : State :=
  s.setHart { s.hart with span := h.span, lastDest := h.lastDest, pc := h.pc, wait := .none, convoy := none, csr := { s.hart.csr with estart := h.csr.estart } }

/-- The trapping member met once more at the element where it traps, all members having performed the elements below the stop and some above it: what its trap logs and
which records it clears (R80, R175, R393) stay, where it is that trap. A trap of SCHEDULE leaves nothing. -/
def meetTrap (ex : Instr → State → Host.Outcome State Fault Refusal) (m : Member) (j : Nat) (cause : Byte) (tval : W64) (elem : Option Nat) (ahead : List (List Nat × List Nat)) (s : State) :
    State :=
  if cause = causeSchedule then s
  else
    let h := s.hart
    let c : ConvoyCtx := { member := j, limit := none, trap := none, trapMember := j, ext := [], loose := false, ahead := ahead, gates := [], done := [], force := none }
    let at' := match elem with | some e => BitVec.ofNat 64 e | none => h.csr.estart
    match ex m.instr (s.setHart { h with convoy := some c, csr := { h.csr with estart := at' } }) with
    | .next t =>
      match t.hart.convoy.bind ConvoyCtx.trap with
      | some (cause', tval', _, _) => if cause' = cause ∧ tval' = tval then t.setHart { t.hart with csr := { t.hart.csr with estart := h.csr.estart } } else s
      | none => s
    | .fault _ => s
    | .refused _ => s

/-- The end of a convoy that ran whole: ESTART is 0, the PC is past it, and the instruction that breaks it traps (R193). (DEDUCED, log 21.) -/
def State.endConvoy (s : State) (g : Gather) : State :=
  let s := (s.setHart { s.hart with convoy := none, csr := { s.hart.csr with estart := 0 } }).jumpTo g.next
  match g.broken with
  | some t => s.takeTrap t
  | none => s

/-- A pre-emption of the focus hart that stops at element `e` what stands at the PC of `h` (R260, R380): the hart is halted there, with ESTART e. -/
def State.haltAt (s : State) (h : Hart) (e : Nat) : State :=
  let s := s.standAt h
  ((s.setHart { s.hart with csr := { s.hart.csr with estart := BitVec.ofNat 64 e } }).haltFocus).requeue h.gang

/-- A convoy run as one unit (R196), to its end or to the element at which a pre-emption stops it: where a member traps at element e, every member is run again to e, and
the trap is taken at the first member. (DEDUCED, log 21.) -/
def runConvoy (ex : Instr → State → Host.Outcome State Fault Refusal) (g : Gather) (stop : Option Nat) (s : State) : Host.Outcome State Fault Refusal :=
  let h := s.hart
  match runMembers ex (fun _ => none) 0 g.members (s.setHart (h.enterConvoy stop)) with
  | .fault f => .fault f
  | .refused f => .refused f
  | .next s1 =>
    if s1.hart.wait != .none then .next (s.waiting s1.hart.wait)
    else
      match s1.hart.convoy with
      | none => .next (s1.endConvoy g)
      | some c =>
        match c.trap, stop with
        | none, none => .next (s1.endConvoy g)
        | none, some e => .next (s1.haltAt h e)
        | some (cause, tval, elem, q), _ =>
          let e := stopElement g.members h.csr.estart.toNat (c.limit.getD 0)
          let t : Trap := { cause := cause, tval := tval, elem := elem.map (fun _ => e), queue := q, fatal := false }
          match runMembers ex (forcedBy g.members c.trapMember (elem.bind (fun _ => c.limit))) 0 g.members ({ s with choices := s1.choices }.setHart (h.enterConvoy (some e))) with
          | .fault f => .fault f
          | .refused f => .refused f
          | .next s2 =>
            let ahead := (s2.hart.convoy.map ConvoyCtx.ahead).getD []
            let s3 := match g.members[c.trapMember]? with
              | some m => meetTrap ex m c.trapMember cause tval elem (ahead.drop (ahead.length - c.trapMember)) s2
              | none => s2
            .next (((s3.endWrites).standAt h).takeTrapAt t h.pc c.trapMember)

/-- Whether a pre-emption can stop an instruction at an element boundary: the members of pipe classes, and the matrix instructions that R332 names. -/
def VInfo.stoppable (v : VInfo) : Bool :=
  v.cls.isSome || (v.queue == qMq && bits v.low.toNat 2 6 == 0x2B && (let fn := bits v.low.toNat 25 5; fn == 3 || fn == 5 || fn == 6 || fn == 7))

/-- The number of elements of an instruction: VL, or the used square of a tile for mld and mst (R332). -/
def Hart.elements (h : Hart) (v : VInfo) : Nat :=
  let fn := bits v.low.toNat 25 5
  if v.queue == qMq && v.cls.isNone && (fn == 6 || fn == 7) then h.csr.mxLen * h.csr.mxLen else h.csr.vlN

/-- A loose instruction run to the element at which a pre-emption stops it (R260, R380). -/
def runStopped (ex : Instr → State → Host.Outcome State Fault Refusal) (i : Instr) (e : Nat) (s : State) : Host.Outcome State Fault Refusal :=
  let h := s.hart
  match ex i (s.setHart (h.enterConvoy (some e) true)) with
  | .fault f => .fault f
  | .refused f => .refused f
  | .next s1 =>
    match s1.hart.convoy with
    | none => .next s1
    | some c =>
      if s1.hart.wait != .none then .next (s.waiting s1.hart.wait)
      else
        match c.trap with
        | some (cause, tval, elem, q) => .next ((s1.standAt h).takeTrap { cause := cause, tval := tval, elem := elem, queue := q, fatal := false })
        | none => .next (s1.haltAt h e)

/-- Whether an instruction opens a convoy here: a VQ instruction with CV = 1 that its span does not skip (R191, R200). -/
def Hart.opensConvoy (h : Hart) (v : VInfo) : Bool :=
  v.joins && v.cv && (match h.span with | some sp => !(sp.skip && decide (0 < sp.left)) | none => true)

/-- A convoy that a span skips ends at any instruction that is not in the VQ (R191). (DEDUCED, log 22.) -/
def State.closeSpan (s : State) (v : Option VInfo) : State :=
  if v.any (fun v => v.queue == qVq) then s else s.setHart { s.hart with span := s.hart.span.map (fun sp => { sp with members := [] }) }

/-- The convoy that an instruction at the PC opens. -/
noncomputable def State.convoyOf (s : State) (i : Instr) (v : VInfo) : Gather :=
  gather s 8 { members := [{ instr := i, info := v, pc := s.hart.pc }], next := s.hart.pc + BitVec.ofNat 64 v.len, broken := none }

/-- Whether the span of a `vrgn` skips an instruction (R200). -/
def Hart.skips (h : Hart) (v : VInfo) : Bool := v.queue == qVq && (match h.span with | some sp => sp.skip && decide (0 < sp.left) | none => false)

/-- The decoded instruction at the PC issued: with its convoy, or alone. (DEDUCED, log 22.) -/
noncomputable def issue (ex : Instr → State → Host.Outcome State Fault Refusal) (i : Instr) (s : State) : Host.Outcome State Fault Refusal :=
  match infoOf i s.hart with
  | some v => if s.hart.opensConvoy v then runConvoy ex (s.convoyOf i v) none s else ex i (s.closeSpan (some v))
  | none => ex i (s.closeSpan none)

/-- The same up to an element at which a pre-emption stops it, where it has elements from there on. -/
noncomputable def issueStopped (ex : Instr → State → Host.Outcome State Fault Refusal) (e : Nat) (i : Instr) (s : State) : Host.Outcome State Fault Refusal :=
  let h := s.hart
  match infoOf i h with
  | none => issue ex i s
  | some v =>
    let e := Nat.max h.csr.estart.toNat e
    if !v.stoppable || v.ill.isSome || h.skips v || decide (h.elements v ≤ e) then issue ex i s
    else if h.opensConvoy v then
      let g := s.convoyOf i v
      runConvoy ex g (some (stopElement g.members h.csr.estart.toNat e)) s
    else runStopped ex i (if v.bx then Nat.max h.csr.estart.toNat (e / 32 * 32) else e) (s.closeSpan (some v))

end Sys2Proof.Machine
end

