-- ==== Sys2Proof/Machine/Run.lean ====
section
/-! DEFINITION. Who moves next: the focus hart's next instruction, the other agents' work that stands waiting, and the turns that plain data in the state gives. -/
namespace Sys2Proof.Machine

/-! The focus hart. -/

/-- The instruction at the PC fetched, decoded and handed on (R8, R9, R20). -/
noncomputable def fetchAnd (go : Instr → State → Host.Outcome State Fault Refusal) (s : State) : Host.Outcome State Fault Refusal :=
  match fetchBytes s with
  | .error t s => execFetchFault t.cause t.tval s
  | .ok bs s =>
    match decode bs with
    | .error r => execIllegalEncoding (s.hart.rejectSub r bs) (lowOf bs) s
    | .ok (i, _) => go i s

/-- The instruction at the PC fetched, decoded and issued. -/
noncomputable def fetchAndIssue (ex : Instr → State → Host.Outcome State Fault Refusal) (s : State) : Host.Outcome State Fault Refusal := fetchAnd (issue ex) s

/-- Whether a hart runs and waits for nothing. -/
def Hart.goes (h : Hart) : Bool := h.status == .running && h.wait == .none

/-- The focus hart's step: an instruction, or a new try of what it waits in. -/
noncomputable def runHart (ex : Instr → State → Host.Outcome State Fault Refusal) (s : State) : Host.Outcome State Fault Refusal :=
  if s.hart.status ≠ .running then .next s
  else
    match s.hart.wait with
    | .wfm _ _ _ => execWfmWake s
    | .advance _ _ _ _ _ => execAdvance s
    | .mxon _ => execMatrixAcquire s
    | .none => fetchAndIssue ex s
    | .gbar => fetchAndIssue ex s
    | .line => fetchAndIssue ex s
    | .order => fetchAndIssue ex s

/-- A pre-emption that reaches the focus hart at an element of what stands at its PC (R260, R380), where one has been requested. -/
noncomputable def runStop (ex : Instr → State → Host.Outcome State Fault Refusal) (e : Nat) (s : State) : Host.Outcome State Fault Refusal :=
  if s.halting s.hart && s.hart.goes then fetchAnd (issueStopped ex e) s else .next s

/-- The next hart made the focus, the present one placed last: one that waits for nothing if there is one, else one that runs. (DESIGN CHOICE, log 2.) -/
def State.rotate (s : State) : State :=
  match s.parked.find? Hart.goes with
  | some h => { s with hart := h, parked := s.parked.erase h ++ [s.hart] }
  | none =>
    match s.parked.find? (fun h => h.status == .running) with
    | some h => { s with hart := h, parked := s.parked.erase h ++ [s.hart] }
    | none => s

/-- Some hart's step: the focus hart's where it waits for nothing, else the next hart's. (DESIGN CHOICE, log 1.) -/
noncomputable def runSome (ex : Instr → State → Host.Outcome State Fault Refusal) (s : State) : Host.Outcome State Fault Refusal :=
  runHart ex (if s.hart.goes then s else s.rotate)

/-- A hart that holds a slot made the focus. -/
def State.focusOn (s : State) (id : Nat) : State :=
  if s.hart.id = id ∧ s.hart.status.placed then s
  else
    match s.parked.find? (fun h => h.id == id && h.status.placed) with
    | some h => { s with hart := h, parked := s.parked.erase h ++ [s.hart] }
    | none => s

/-! Other agents. -/

/-- A command run by the engine its TYPE names (R337). -/
def runCommand (c : Command) (s : State) : Host.Outcome State Fault Refusal :=
  match c.type with
  | 1 => execCopy c s
  | 2 => execCopyt c s
  | 3 => execFprint c s
  | 4 => execDecode c s
  | 5 => execTopk c s
  | 6 => execRing c s
  | 7 => execSrd c s
  | 8 => execSwr c s
  | 9 => if c.fld 0x10 8 = 0 then execFlcfgEmpty c s else execFlcfg c s
  | _ => execFlrun c s

/-- A command of SCMD carried out (R378). -/
def runScmd (op : Nat) (q : SchedCmd) (s : State) : Host.Outcome State Fault Refusal :=
  match op with
  | 1 => execKill q s
  | 2 => execRerun q s
  | _ => execResume q s

/-- The events of one gang that are due: an overrun, a step of aging or rising. -/
def gangDue (s : State) (g : Gang) : Option (State → Host.Outcome State Fault Refusal) :=
  if g.overrun then some (execBudgetOverrun g.id)
  else if s.aged g then
    if g.waiting then some (execPriorityAging g.id)
    else if g.status == .placed || g.status == .halting then some (execPriorityRise g.id)
    else none
  else none

/-- Whether a gang waits for its wait words. -/
def Gang.asks (g : Gang) : Bool := g.status == .queued || g.status == .returned

/-- Whether the wait words of such a gang hold or end it (R185). -/
def State.readyNow (s : State) (g : Gang) : Bool :=
  g.asks && (match s.readWaits g g.record.waits with | .ok (b, _) => b | .error _ => true)

/-- Whether the scheduler has something to do for a waiting gang. -/
def State.placeNow (s : State) (g : Gang) : Bool := g.waiting && (s.tryPlace g).gangs != s.gangs

/-- A hart whose pre-emption has been requested. -/
def State.haltDue (s : State) : Option Nat := (s.allHarts.find? s.halting).map Hart.id

/-- What the die schedulers have to do, if anything. (DESIGN CHOICE, log 2.) -/
def schedWork (s : State) : Option (State → Host.Outcome State Fault Refusal) :=
  match s.cmds with
  | (op, q) :: _ => some (runScmd op q)
  | [] =>
    match s.gangs.findSome? (gangDue s) with
    | some f => some f
    | none =>
      match s.haltDue with
      | some id => some (execHartHalt id)
      | none =>
        match s.gangs.find? s.readyNow with
        | some g => some (execGangReady g.id)
        | none => (s.gangs.find? s.placeNow).map (fun g => execGangPlace g.id)

/-- The next line of a bound window of the focus hart that is to arrive (R74). (DESIGN CHOICE, log 42.) -/
def Hart.lineDue (h : Hart) : Option (Nat × Nat) := h.bound.findSome? (fun n => (h.win n).bind (fun w => w.nextLine.map (fun l => (n, l))))

/-- A hart that may take back its matrix unit now (R381). -/
def State.tileDue (s : State) : Option Hart :=
  s.allHarts.find? (fun h => h.status.placed && s.frames.any (fun f => f.hart == h.id && f.gang == h.gang && f.tile.isSome)
    && (s.mxUnit h.core).holder == none && ((s.mxUnit h.core).queue.head?.getD h.id == h.id))

/-- What the other agents have to do, if anything: schedulers, engines, the residency engine of the focus hart, matrix units. (DESIGN CHOICE, log 2.) -/
def agentWork (s : State) : Option (State → Host.Outcome State Fault Refusal) :=
  if s.starting then some execBootWatchdog
  else match schedWork s with
  | some f => some f
  | none =>
    match s.engines with
    | c :: _ => some (runCommand c)
    | [] =>
      match s.hart.lineDue with
      | some (n, l) => some (execLineArrival (BitVec.ofNat 4 n) l)
      | none =>
        match s.tileDue with
        | some h => some (fun s => .next (s.onHart (fun x => x.id == h.id && x.gang == h.gang && x.live) State.reacquire))
        | none => none

/-! Turns. -/

/-- Whether an event can happen now: a command where the engines hold it, a command of SCMD where its scheduler holds it, and any other step of an agent that is no
instruction of a program and no trap of a fetch. -/
def State.mayHappen (s : State) (i : Instr) : Bool :=
  let cmd := fun (c : Command) (t : Nat) => s.engines.contains c && c.type == t
  match i with
  | .add _ _ _ => false
  | .sub _ _ _ => false
  | .and _ _ _ => false
  | .or _ _ _ => false
  | .xor _ _ _ => false
  | .sll _ _ _ => false
  | .srl _ _ _ => false
  | .sra _ _ _ => false
  | .slt _ _ _ => false
  | .sltu _ _ _ => false
  | .min _ _ _ => false
  | .max _ _ _ => false
  | .minu _ _ _ => false
  | .maxu _ _ _ => false
  | .mul _ _ _ => false
  | .mulh _ _ _ => false
  | .mulhu _ _ _ => false
  | .div _ _ _ => false
  | .divu _ _ _ => false
  | .rem _ _ _ => false
  | .remu _ _ _ => false
  | .clz _ _ => false
  | .ctz _ _ => false
  | .popc _ _ => false
  | .addi _ _ _ => false
  | .addiLong _ _ _ => false
  | .andi _ _ _ => false
  | .andiLong _ _ _ => false
  | .ori _ _ _ => false
  | .oriLong _ _ _ => false
  | .xori _ _ _ => false
  | .xoriLong _ _ _ => false
  | .slti _ _ _ => false
  | .sltiLong _ _ _ => false
  | .slli _ _ _ => false
  | .srli _ _ _ => false
  | .srai _ _ _ => false
  | .lih _ _ => false
  | .lihLong _ _ => false
  | .liw _ _ _ => false
  | .liwLong _ _ _ => false
  | .ldB _ _ _ => false
  | .ldBLong _ _ _ => false
  | .ldBu _ _ _ => false
  | .ldBuLong _ _ _ => false
  | .ldH _ _ _ => false
  | .ldHLong _ _ _ => false
  | .ldHu _ _ _ => false
  | .ldHuLong _ _ _ => false
  | .ldW _ _ _ => false
  | .ldWLong _ _ _ => false
  | .ldWu _ _ _ => false
  | .ldWuLong _ _ _ => false
  | .ldD _ _ _ => false
  | .ldDLong _ _ _ => false
  | .ldDA8 _ _ _ => false
  | .ldDA8Long _ _ _ => false
  | .stB _ _ _ => false
  | .stBLong _ _ _ => false
  | .stH _ _ _ => false
  | .stHLong _ _ _ => false
  | .stW _ _ _ => false
  | .stWLong _ _ _ => false
  | .stD _ _ _ => false
  | .stDLong _ _ _ => false
  | .stDA8 _ _ _ => false
  | .stDA8Long _ _ _ => false
  | .ldQA16 _ _ _ => false
  | .ldQA16Long _ _ _ => false
  | .stQA16 _ _ _ => false
  | .stQA16Long _ _ _ => false
  | .ldA _ _ _ _ => false
  | .ldALong _ _ _ _ _ => false
  | .stR _ _ _ _ => false
  | .stRLong _ _ _ _ _ => false
  | .amoAdd _ _ _ _ _ _ => false
  | .amoAddLong _ _ _ _ _ _ _ => false
  | .amoAnd _ _ _ _ _ _ => false
  | .amoAndLong _ _ _ _ _ _ _ => false
  | .amoOr _ _ _ _ _ _ => false
  | .amoOrLong _ _ _ _ _ _ _ => false
  | .amoXor _ _ _ _ _ _ => false
  | .amoXorLong _ _ _ _ _ _ _ => false
  | .amoMin _ _ _ _ _ _ => false
  | .amoMinLong _ _ _ _ _ _ _ => false
  | .amoMax _ _ _ _ _ _ => false
  | .amoMaxLong _ _ _ _ _ _ _ => false
  | .amoMinu _ _ _ _ _ _ => false
  | .amoMinuLong _ _ _ _ _ _ _ => false
  | .amoMaxu _ _ _ _ _ _ => false
  | .amoMaxuLong _ _ _ _ _ _ _ => false
  | .amoSwap _ _ _ _ _ _ => false
  | .amoSwapLong _ _ _ _ _ _ _ => false
  | .amoCas _ _ _ _ _ _ => false
  | .amoCasLong _ _ _ _ _ _ _ => false
  | .amoSwapA16 _ _ _ _ _ => false
  | .amoSwapA16Long _ _ _ _ _ _ => false
  | .amoCasA16 _ _ _ _ _ => false
  | .amoCasA16Long _ _ _ _ _ _ => false
  | .fence _ => false
  | .fenceX _ _ _ => false
  | .wfm _ _ _ _ => false
  | .wfmWake => true
  | .waitq _ => false
  | .beq _ _ => false
  | .beqLong _ _ _ => false
  | .bne _ _ => false
  | .bneLong _ _ _ => false
  | .blt _ _ => false
  | .bltLong _ _ _ => false
  | .bge _ _ => false
  | .bgeLong _ _ _ => false
  | .bltu _ _ => false
  | .bltuLong _ _ _ => false
  | .bgeu _ _ => false
  | .bgeuLong _ _ _ => false
  | .jalr _ _ => false
  | .jalrLong _ _ _ => false
  | .jal _ _ => false
  | .csrw _ _ _ => false
  | .csrs _ _ _ => false
  | .csrc _ _ _ => false
  | .ecall => false
  | .tret => false
  | .brk _ => false
  | .halt => false
  | .yield => false
  | .glaunch _ _ => false
  | .gexit => false
  | .gbar => false
  | .tlbiVa _ _ => false
  | .tlbiAs _ => false
  | .tlbiAll => false
  | .vaddVv _ _ _ _ _ => false
  | .vaddVx _ _ _ _ _ => false
  | .vsubVv _ _ _ _ _ => false
  | .vsubVx _ _ _ _ _ => false
  | .vmulVv _ _ _ _ _ => false
  | .vmulVx _ _ _ _ _ => false
  | .vminVv _ _ _ _ _ => false
  | .vminVx _ _ _ _ _ => false
  | .vmaxVv _ _ _ _ _ => false
  | .vmaxVx _ _ _ _ _ => false
  | .vandVv _ _ _ _ _ => false
  | .vandVx _ _ _ _ _ => false
  | .vorVv _ _ _ _ _ => false
  | .vorVx _ _ _ _ _ => false
  | .vxorVv _ _ _ _ _ => false
  | .vxorVx _ _ _ _ _ => false
  | .vsllVv _ _ _ _ _ => false
  | .vsllVx _ _ _ _ _ => false
  | .vsrlVv _ _ _ _ _ => false
  | .vsrlVx _ _ _ _ _ => false
  | .vsraVv _ _ _ _ _ => false
  | .vsraVx _ _ _ _ _ => false
  | .vmulhVv _ _ _ _ _ => false
  | .vmulhVx _ _ _ _ _ => false
  | .vsaddVv _ _ _ _ _ => false
  | .vsaddVx _ _ _ _ _ => false
  | .vssubVv _ _ _ _ _ => false
  | .vssubVx _ _ _ _ _ => false
  | .vavgVv _ _ _ _ _ => false
  | .vavgVx _ _ _ _ _ => false
  | .vdivVv _ _ _ _ _ => false
  | .vdivVx _ _ _ _ _ => false
  | .vsplat _ _ _ _ => false
  | .vfma _ _ _ _ _ => false
  | .vfms _ _ _ _ _ => false
  | .vfnma _ _ _ _ _ => false
  | .vsqrt _ _ _ _ _ => false
  | .vrcp _ _ _ _ _ => false
  | .vrsq _ _ _ _ _ => false
  | .vexp _ _ _ _ _ => false
  | .vlog2 _ _ _ _ _ => false
  | .vabs _ _ _ _ _ => false
  | .vneg _ _ _ _ _ => false
  | .vnot _ _ _ _ _ => false
  | .vmov _ _ _ _ _ => false
  | .vcmpEqVv _ _ _ _ _ => false
  | .vcmpNeVv _ _ _ _ _ => false
  | .vcmpLtVv _ _ _ _ _ => false
  | .vcmpLeVv _ _ _ _ _ => false
  | .vcmpGtVv _ _ _ _ _ => false
  | .vcmpGeVv _ _ _ _ _ => false
  | .vcmpEqVx _ _ _ _ _ => false
  | .vcmpNeVx _ _ _ _ _ => false
  | .vcmpLtVx _ _ _ _ _ => false
  | .vcmpLeVx _ _ _ _ _ => false
  | .vcmpGtVx _ _ _ _ _ => false
  | .vcmpGeVx _ _ _ _ _ => false
  | .vwmacVv _ _ _ _ _ => false
  | .vsad _ _ _ _ _ => false
  | .vwmacVx _ _ _ _ _ => false
  | .vnshr _ _ _ _ _ => false
  | .vclip _ _ _ _ _ => false
  | .vredSum _ _ _ _ => false
  | .vredMax _ _ _ _ => false
  | .vredMin _ _ _ _ => false
  | .vredAnd _ _ _ _ => false
  | .vredOr _ _ _ _ => false
  | .vredoSum _ _ _ _ _ => false
  | .vscanAdd _ _ _ _ => false
  | .vscanMax _ _ _ _ => false
  | .vscanMin _ _ _ _ => false
  | .vrgather _ _ _ _ _ => false
  | .vcompress _ _ _ _ => false
  | .vexpand _ _ _ _ => false
  | .vmergeM _ _ _ _ => false
  | .vtrans8 _ _ => false
  | .vid _ _ _ => false
  | .viota _ _ _ _ => false
  | .vslideup _ _ _ _ _ => false
  | .vslidedn _ _ _ _ _ => false
  | .vext _ _ _ _ => false
  | .vins _ _ _ _ => false
  | .mpopc _ _ _ _ => false
  | .mfirst _ _ _ _ => false
  | .vld _ _ _ _ _ _ _ => false
  | .vldLong _ _ _ _ _ _ _ _ => false
  | .vlds _ _ _ _ _ _ _ _ => false
  | .vldsLong _ _ _ _ _ _ _ _ _ => false
  | .vldx _ _ _ _ _ _ _ _ => false
  | .vldxLong _ _ _ _ _ _ _ _ _ => false
  | .vldseg _ _ _ _ _ _ _ _ => false
  | .vldsegLong _ _ _ _ _ _ _ _ _ => false
  | .vst _ _ _ _ _ _ _ => false
  | .vstLong _ _ _ _ _ _ _ _ => false
  | .vsts _ _ _ _ _ _ _ _ => false
  | .vstsLong _ _ _ _ _ _ _ _ _ => false
  | .vstx _ _ _ _ _ _ _ _ => false
  | .vstxLong _ _ _ _ _ _ _ _ _ => false
  | .vstseg _ _ _ _ _ _ _ _ => false
  | .vstsegLong _ _ _ _ _ _ _ _ _ => false
  | .vldc _ _ _ => false
  | .vamoAdd _ _ _ _ _ _ => false
  | .vamoAddLong _ _ _ _ _ _ _ => false
  | .vamoMax _ _ _ _ _ _ => false
  | .vamoMaxLong _ _ _ _ _ _ _ => false
  | .vamoMin _ _ _ _ _ _ => false
  | .vamoMinLong _ _ _ _ _ _ _ => false
  | .vamoSwap _ _ _ _ _ _ => false
  | .vamoSwapLong _ _ _ _ _ _ _ => false
  | .vmcast _ _ _ _ _ => false
  | .vsave _ => false
  | .vrest _ => false
  | .vpop _ _ _ _ => false
  | .vpush _ _ _ _ => false
  | .sbind _ _ => false
  | .sfree _ => false
  | .streamReadAhead _ _ => true
  | .vcfg _ => false
  | .vtag _ _ => false
  | .vwinV _ _ => false
  | .vwinM _ _ => false
  | .vsetl _ _ => false
  | .vloop _ => false
  | .vnext _ => false
  | .vflat _ _ => false
  | .vrgn _ _ => false
  | .winset _ _ => false
  | .winclr _ => false
  | .winclrD _ => false
  | .winwait _ => false
  | .winflush _ => false
  | .lcset _ _ _ => false
  | .lcsetLong _ _ _ _ => false
  | .lcadv _ _ _ => false
  | .lcadvLong _ _ _ _ => false
  | .advance => true
  | .lcrd _ _ => false
  | .winq _ _ => false
  | .vldw _ _ _ _ _ _ => false
  | .vstw _ _ _ _ _ _ => false
  | .lineArrival _ _ => true
  | .residencyPrefetch _ _ => true
  | .earlyWriteback _ _ => true
  | .vscmpLt _ _ _ _ _ => false
  | .vscmpLe _ _ _ _ _ => false
  | .vscmpGt _ _ _ _ _ => false
  | .vscmpGe _ _ _ _ _ => false
  | .pandInd _ _ _ _ _ => false
  | .pandPos _ _ _ _ _ => false
  | .pandNeg _ _ _ _ _ => false
  | .porInd _ _ _ _ _ => false
  | .porPos _ _ _ _ _ => false
  | .porNeg _ _ _ _ _ => false
  | .pnot _ _ _ _ _ => false
  | .pblendM _ _ _ _ => false
  | .pcoll _ _ _ _ => false
  | .pthr _ _ _ _ => false
  | .pgrad _ _ _ _ => false
  | .pgradSt _ _ _ _ => false
  | .pbgrad _ _ _ _ _ => false
  | .pmovV _ _ _ _ => false
  | .pmovM _ _ _ _ => false
  | .xpa _ _ _ _ _ _ _ => false
  | .xps _ _ _ _ _ _ _ => false
  | .xpaI _ _ _ _ _ _ _ => false
  | .xpaS _ _ _ _ _ => false
  | .mxon _ => false
  | .matrixAcquire => true
  | .mxoff => false
  | .mzero _ => false
  | .mrdV _ _ _ _ => false
  | .mrdG _ _ _ => false
  | .mwr _ _ _ _ => false
  | .mld _ _ _ => false
  | .mst _ _ _ => false
  | .enq _ _ _ => false
  | .cVadd _ _ => false
  | .cVsub _ _ => false
  | .cVmul _ _ => false
  | .cVfma _ _ => false
  | .cVmin _ _ => false
  | .cVmax _ _ => false
  | .cVand _ _ => false
  | .cVor _ _ => false
  | .cVxor _ _ => false
  | .cVmov _ _ => false
  | .cVabs _ _ => false
  | .cVneg _ _ => false
  | .cVsadd _ _ => false
  | .cVssub _ _ => false
  | .cVavg _ _ => false
  | .pageWalk _ _ => true
  | .copy c => cmd c 1
  | .copyt c => cmd c 2
  | .fprint c => cmd c 3
  | .decode c => cmd c 4
  | .decodeWatchdogCut c _ _ => cmd c 4 && c.wdog
  | .topk c => cmd c 5
  | .ring c => cmd c 6
  | .srd c => cmd c 7
  | .swr c => cmd c 8
  | .flcfg c => cmd c 9 && c.fld 0x10 8 != 0
  | .flcfgEmpty c => cmd c 9 && c.fld 0x10 8 == 0
  | .flrun c => cmd c 10
  | .gangReady _ => true
  | .gangPlace _ => true
  | .nextPreload _ => true
  | .priorityAging _ => true
  | .priorityRise _ => true
  | .budgetOverrun _ => true
  | .hartHalt _ => true
  | .kill q => s.cmds.contains (1, q)
  | .rerun q => s.cmds.contains (2, q)
  | .resume q => s.cmds.contains (3, q)
  | .patrolScrub _ _ => true
  | .errorLogRead _ _ => true
  | .persistentFault _ _ _ _ => true
  | .noiseHealthFailure _ _ => true
  | .hostPostedWrite _ _ => true
  | .hostRead _ _ => true
  | .startSupervisor _ => true
  | .diesChange _ _ => true
  | .partitionBlockWrite _ _ _ => true
  | .powerOn _ => true
  | .bootWatchdog => s.starting
  | .firmwareWrite _ => true
  | .startRequest _ => true
  | .attestation _ => true
  | .clockThrottle _ _ => true
  | .linkFailure _ => true
  | .illegalEncoding _ _ => false
  | .fetchFault _ _ => false
  | .peerAccess _ _ _ _ => true
  | .driveCompletion _ _ _ => true

/-- A bit error arises in a word of a Chamber, a unit in a Gallery or a line in a stack (R48, R51, R54). -/
def State.upset (s : State) (f : Flaw) : State :=
  let place := if f.point = 0 then isChamber f.first && decide (f.first < 0x10000000000000 + 0x200000000) && decide (f.first % 0x800000 < 0x600000)
    else decide (f.point ≤ 2) && decide (f.first / 2 ^ 41 = 0) && s.populated f.first
  if place && f.first % flawBytes f.point == 0 then { s with flaws := f :: s.flaws.filter (fun x => x != f) } else s

/-- The check of a line in DRAM goes wrong (R60). -/
def State.damage (s : State) (line : Nat) (check : W32) : State :=
  if line / 2 ^ 41 = 0 ∧ s.populated line then s.setCheck (checkLine line) check else s

/-- A turn taken. (DESIGN CHOICE, log 1; DESIGN CHOICE, log 2; DESIGN CHOICE, log 11.) -/
noncomputable def takeTurn (ex : Instr → State → Host.Outcome State Fault Refusal) (t : Turn) (s : State) : Host.Outcome State Fault Refusal :=
  match t with
  | .hart => runHart ex s
  | .focus id => .next (s.focusOn id)
  | .event i => if s.mayHappen i then ex i s else .next s
  | .cycles n => .next (s.passCycles n)
  | .stop e => runStop ex e s
  | .upset f => .next (s.upset f)
  | .damage line check => .next (s.damage line check)
  | .bar2 function base => .next (s.setBar2 function base)
  | .route peer links => .next (s.setRoute peer links)

/-- One step: the next turn if one is given; otherwise the other agents' waiting work, and then a hart. (DESIGN CHOICE, log 1.) -/
noncomputable def stepWith (ex : Instr → State → Host.Outcome State Fault Refusal) (s : State) : Host.Outcome State Fault Refusal :=
  match s.turns with
  | t :: r => takeTurn ex t { s with turns := r }
  | [] =>
    match agentWork s with
    | some f => f s
    | none => runSome ex s

end Sys2Proof.Machine
end

