-- ==== Sys2Proof/Machine/Load.lean ====
section
/-! DEFINITION. A program loaded from outside: an instruction put where the next step fetches it. -/
namespace Sys2Proof.Machine

/-- The tables and the place of a loaded program, at physical addresses of die 0: the address-space table, one table for each of levels 4, 3 and 2, and the code, in
a page of 1 GiB that a level-2 leaf maps onto itself. -/
def loadAstb : Nat := 0x1000
def loadL4 : Nat := 0x2000
def loadL3 : Nat := 0x3000
def loadL2 : Nat := 0x4000
def loadCode : Nat := 0x10000

/-- A leaf of 1 GiB at PA 0: V, R, W, X, A, D, IDEM, supervisor (R30). -/
def loadLeaf : Nat := 0xDCF

/-- Memory cells of those tables. -/
def loadCells : List (Nat × Nat) := [(loadAstb, loadL4 + 1), (loadL4, loadL3 + 1), (loadL3, loadL2 + 1), (loadL2, loadLeaf)]

/-- The hart of a loaded program: slot 0 of core 0, in supervisor mode, with a Chamber partition of 1 MiB. (DESIGN CHOICE, log 3.) -/
def loadHart : Hart :=
  { (Hart.reset 0) with gang := 1, status := .running, sup := true, pc := BitVec.ofNat 64 loadCode, csr := { Csr.reset with chlim := 0x100000 } }

/-- Its gang. (DESIGN CHOICE, log 3.) -/
def loadGang : Gang :=
  { id := 1, part := 0, supervisor := true, status := .placed, eff := 0, since := 0, placedAt := 0, barriers := 0, slots := [(0, 0)], cause := 0, budget := 0, owed := none
    record := { entry := BitVec.ofNat 64 loadCode, arg := 0, done := 0, budget := 0, vcfg := 0, vtype := 0x2802, chb := 0x100000, cmask := 1, asid := 0, x0 := 0, y0 := 0
                x1 := 0, y1 := 0, hpc := 1, prio := 0, supv := true, waits := [] } }

/-- The module with a supervisor gang of one hart placed, whose next instruction is what stands at `loadCode`. (DESIGN CHOICE, log 3.) -/
def State.loaded (s : State) : State :=
  let s := { s with
    hart := loadHart, parked := [], gangs := [{ loadGang with since := s.ticksOf 0, placedAt := s.clock }], nextGang := s.nextGang + 1, turns := [], cmds := [], engines := [], frames := [], tlb := [], utlb := []
    starting := false
    parts := (0, { (s.pblock 0) with dies := 1, astb := BitVec.ofNat 64 loadAstb }) :: s.parts.filter (fun x => x.1 != 0) }
  loadCells.foldl (fun s c => s.putNat c.1 8 c.2) s

/-- Bytes put in memory as a write of whole units would leave them: no poison and no bit error stands where they lie. -/
def State.putProgram (s : State) (ks : List Nat) (bs : List Byte) : State :=
  { (s.putKeys false ks bs) with
    poison := s.poison.filter (fun u => !ks.any (fun k => unitOf k == u))
    flaws := s.flaws.filter (fun f => !ks.any f.covers) }

/-- Bytes put where the focus hart fetches, if it can fetch there now. -/
def State.placeHere (s : State) (bs : List Byte) : Option State :=
  if s.turns.isEmpty && (agentWork s).isNone && s.hart.goes && !s.hart.pc.getLsbD 0 then
    match s.resolveSpan s.hart.fetchAcc s.hart.pc bs.length with
    | .ok (ks, _) => some (s.putProgram ks bs)
    | .error _ => none
  else none

/-- Bytes put where the next step fetches its instruction: at the PC of the focus hart, or as a program loaded from outside. (DESIGN CHOICE, log 3.) -/
def State.placeProgram (s : State) (bs : List Byte) : State :=
  match s.placeHere bs with
  | some t => t
  | none => s.loaded.putProgram ((List.range bs.length).map (fun j => loadCode + j)) bs

end Sys2Proof.Machine
end

