-- ==== Sys2Proof/Machine/Step.lean ====
section
/-! DEFINITION. The step of the machine, and an instruction put where it fetches. -/
namespace Sys2Proof.Machine

/-- One step (Run.lean): who moves next, and what it does. -/
noncomputable def step (s : State) : Host.Outcome State Fault Refusal := stepWith exec s

/-- The machine with an instruction, its bits numbered as the opcode table numbers them, stored where the next step fetches. (DESIGN CHOICE, log 3.) -/
def State.withFetchWord (s : State) (nbits w : Nat) : State := s.placeProgram (leBytes 8 (w % 2 ^ nbits))

end Sys2Proof.Machine
end

