-- ==== Sys2Proof/Safety.lean ====
section
/-! DEFINITION. What counts as a safe run of the machine, and the ways an instruction may leave the rest of the machine alone, in the terms the statements use. -/
namespace Sys2Proof.Machine

/-- The run from a state goes on: the step answers a next state. -/
def GoesOn (s : State) : Prop := ∃ t, step s = .next t

/-- What every state a step reaches keeps: memory in its canonical form. -/
def MemInv (s : State) : Prop := s.mem.wf = true

/-- A run of n steps that stops nowhere and keeps the invariant throughout. -/
def SafeRun : Nat → State → Prop
  | 0, s => MemInv s
  | n + 1, s => MemInv s ∧ ∃ t, step s = .next t ∧ SafeRun n t

/-! What an instruction leaves unchanged. -/

/-- Everything but the PC, the wait and the scalar registers of the focus hart is as before: memory, every control register, every vector register, every
other hart. (`wr` and `groups` are the model's scratch inside one instruction, R51, R124.) -/
def OnlyScalar (s t : State) : Prop := { t with hart := { t.hart with pc := s.hart.pc, wait := s.hart.wait, g := s.hart.g }, wr := s.wr, groups := s.groups } = s

/-- The list of a hart's writes that some accesses may still precede has only lost paths on which they may (R105, R112). -/
def FewerHidden (s t : State) : Prop :=
  ∀ u ∈ t.unseen, ∃ v ∈ s.unseen, u.hart = v.hart ∧ u.event = v.event ∧ u.loc = v.loc ∧ u.mask = v.mask ∧ u.old = v.old ∧ ∀ p ∈ u.paths, p ∈ v.paths

/-- Nothing has changed but that accesses to come may have been ordered after earlier writes (R112). -/
def Ordered (s t : State) : Prop := { t with unseen := s.unseen } = s ∧ FewerHidden s t

/-- What a completed fence leaves beside scalar registers: everything, but that it counts, and that accesses to come are ordered after earlier writes (R108, R109). -/
def OnlyFence (s t : State) : Prop := OnlyScalar s { t with unseen := s.unseen, fences := s.fences } ∧ t.fences = s.fences + 1 ∧ FewerHidden s t

/-- What a read leaves of the machine beside scalar registers: everything, but that accesses to come may have been ordered after earlier writes (R112). -/
def OnlyRead (s t : State) : Prop := OnlyScalar s { t with unseen := s.unseen } ∧ FewerHidden s t

/-- Everything but the focus hart is as before. -/
def OnlyHart (s t : State) : Prop := { t with hart := s.hart, wr := s.wr, groups := s.groups } = s

/-- Scalar register d now holds v; g0 discards it (R203), and every other scalar register is as before. -/
def GIs (s t : State) (d : GReg) (v : W64) : Prop := ∀ r : GReg, t.gr r = if r = d ∧ r ≠ 0 then v else s.gr r

/-- Every scalar register is as before. -/
def GSame (s t : State) : Prop := ∀ r : GReg, t.gr r = s.gr r

/-- The PC is at an address and the hart does not wait. -/
def AtPc (t : State) (pc : W64) : Prop := t.hart.pc = pc ∧ t.hart.wait = .none

/-- The next instruction of the focus hart is the one `len` bytes on. -/
def PastBy (s t : State) (len : Nat) : Prop := AtPc t (s.hart.pc + BitVec.ofNat 64 len)

/-- An instruction completes with one scalar result: it writes v to g[d], moves past its `len` bytes, and leaves everything else unchanged. -/
def GivesG (i : Instr) (s : State) (d : GReg) (v : W64) (len : Nat) : Prop :=
  ∃ t, exec i s = .next t ∧ PastBy s t len ∧ GIs s t d v ∧ OnlyScalar s t

/-- An instruction completes and has no effect but the PC's. -/
def NoEffect (i : Instr) (s : State) (len : Nat) : Prop := ∃ t, exec i s = .next t ∧ PastBy s t len ∧ GSame s t ∧ OnlyScalar s t

/-- An instruction completes by going to an address, and changes nothing but the PC. -/
def GoesTo (i : Instr) (s : State) (pc : W64) : Prop := ∃ t, exec i s = .next t ∧ AtPc t pc ∧ GSame s t ∧ OnlyScalar s t

/-- An instruction completes by going to an address, with a link in g[d]. -/
def LinksTo (i : Instr) (s : State) (pc : W64) (d : GReg) (link : W64) : Prop :=
  ∃ t, exec i s = .next t ∧ AtPc t pc ∧ GIs s t d link ∧ OnlyScalar s t

/-- An instruction takes a trap with a cause, a TVAL and the queue where it arose, naming no element (R389). -/
def Traps (i : Instr) (s : State) (cause : Byte) (tval : W64) (queue : Nat) : Prop :=
  exec i s = .next (s.endWrites.takeTrap { cause := cause, tval := tval, elem := none, queue := queue, fatal := false })

/-! Accesses of the focus hart. -/

/-- The n bytes of an access translate to keys, and A and D are set as it needs (R35-R41); `dev` says that it may be device class. -/
def Reaches (s : State) (kind : AKind) (dev : Bool) (va : W64) (n : Nat) (ks : List Nat) (s1 : State) : Prop :=
  s.resolveSpan (s.hart.acc kind dev) va n = .ok (ks, s1)

/-- No bit error stands under the bytes, and no check of a line that does not match (R48, R51, R54, R60). -/
def Sound (s : State) (ks : List Nat) : Prop := ∀ k ∈ ks, s.flawed k = false ∧ s.mismatch k = false

/-- Nothing stands wrong under the bytes, and none of them is poisoned. -/
def Clean (s : State) (ks : List Nat) : Prop := Sound s ks ∧ ∀ k ∈ ks, isRegSpace k = false → s.poisoned k = false

/-- No error is met where the entries of the page tables are read that translate an access (R51, R59). -/
def SoundWalk (s : State) (a : Acc) (va : W64) (n : Nat) : Prop :=
  (s.needsWalk a va.toNat = true → Sound s (s.walkKeys a.part a.asid va.toNat))
  ∧ (4096 - va.toNat % 4096 < n → s.needsWalk a (va + BitVec.ofNat 64 (4096 - va.toNat % 4096)).toNat = true →
    Sound s (s.walkKeys a.part a.asid (va + BitVec.ofNat 64 (4096 - va.toNat % 4096)).toNat))

/-- No access of a hart on a path may precede a write of the hart to the bytes (R105, R115). -/
def Seen (s : State) (hart path : Nat) (ks : List Nat) : Prop :=
  ∀ k ∈ ks, ∀ u, (s.recordsAt (locOf k)).head? = some u → u.hart = hart → path ∉ u.paths

/-- No access of a hart on a path may precede any write of the hart. -/
def AllSeen (s : State) (hart path : Nat) : Prop := ∀ u ∈ s.unseen, u.hart = hart → path ∉ u.paths

/-- None of the bytes lies in module register space. -/
def Plain (ks : List Nat) : Prop := ∀ k ∈ ks, isRegSpace k = false

/-- A read of the focus hart finds its bytes as they stand: they translate, nothing stands wrong under them before and after A and D are set, and no write of the hart
is hidden from path LS. -/
def Reads (s : State) (kind : AKind) (dev : Bool) (va : W64) (n : Nat) (ks : List Nat) (s1 : State) : Prop :=
  Reaches s kind dev va n ks s1 ∧ Clean s ks ∧ Clean s1 ks ∧ Seen s1 s.hart.id pathLS ks

/-- A store of the focus hart reaches its bytes: they translate, none lies in a module register, nothing stands wrong in the lines of DRAM that it changes, and no
write of the hart there is hidden from path LS. -/
def Writes (s : State) (va : W64) (n : Nat) (ks : List Nat) (s1 : State) : Prop :=
  Reaches s .write true va n ks s1 ∧ Plain ks ∧ (∀ k ∈ ks, (isChamber k = false → s1.flawed k = false) ∧ s1.mismatch k = false) ∧ Seen s1 s.hart.id pathLS ks

/-- The machine with everything of another that a store of bytes may change: memory, its errors and its checks, what windows hold and what paths may miss. -/
def State.rememory (t s : State) : State :=
  { t with mem := s.mem, undef := s.undef, vague := s.vague, poison := s.poison, flaws := s.flaws, checks := s.checks, unseen := s.unseen, wr := s.wr, groups := s.groups, freeCtr := s.freeCtr }

/-- Bytes stored at keys: they read back, every other byte of memory is as before, and what a bound window holds is as before but in a storage line that the store
meets (R95); errors only go, and nothing else of the machine but the PC and scalar registers changes. -/
def Stored (s t : State) (ks : List Nat) (bs : List Byte) : Prop :=
  (ks.Nodup → ks.map t.byteAt = bs)
  ∧ (∀ k, k ∉ ks → t.byteAt k = s.byteAt k)
  ∧ (∀ k, k ∉ ks → (∀ j ∈ ks, s.inBoundWindow j = true → k / 256 ≠ j / 256) → t.slotByte k = s.slotByte k)
  ∧ (∀ u ∈ t.poison, u ∈ s.poison) ∧ (∀ f ∈ t.flaws, f ∈ s.flaws) ∧ (∀ c ∈ t.checks, c ∈ s.checks)
  ∧ { (t.rememory s) with hart := { t.hart with pc := s.hart.pc, wait := s.hart.wait, g := s.hart.g } } = s

/-- A scalar load (R146, R147): g[D] becomes f of the little-endian value of the n bytes at ea. It completes where the bytes can be read, and where a form that must be
aligned is (R148). -/
def LoadForm (i : Instr) (s : State) (d : GReg) (ea : W64) (n len : Nat) (al : Bool) (f : Nat → W64) : Prop :=
  ∀ ks s1, Reads s .read true ea n ks s1 → (al = true → ea.toNat % n = 0) →
    ∃ t, exec i s = .next t ∧ PastBy s t len ∧ GIs s1 t d (f (leNat (s1.pathBytes pathLS ks))) ∧ OnlyRead (s1.afterRead ks) t

/-- A load of a register pair (R147): the low 8 bytes to g[D], the high 8 to the next register. -/
def LoadPairForm (i : Instr) (s : State) (d : GReg) (ea : W64) (len : Nat) : Prop :=
  ∀ ks s1, Reads s .read true ea 16 ks s1 → ea.toNat % 16 = 0 →
    ∃ t, exec i s = .next t ∧ PastBy s t len ∧ OnlyRead (s1.afterRead ks) t
      ∧ (∀ r : GReg, t.gr r = if r = 0 then 0 else if r = d + 1 then BitVec.ofNat 64 (leNat (s1.pathBytes pathLS ks) / 2 ^ 64)
          else if r = d then BitVec.ofNat 64 (leNat (s1.pathBytes pathLS ks)) else s1.gr r)

/-- A scalar store (R146, R147): the bytes at ea become bs, where they can be written. -/
def StoreForm (i : Instr) (s : State) (ea : W64) (n len : Nat) (al : Bool) (bs : List Byte) : Prop :=
  ∀ ks s1, Writes s ea n ks s1 → (al = true → ea.toNat % n = 0) →
    ∃ t, exec i s = .next t ∧ PastBy s t len ∧ GSame s1 t ∧ Stored s1 t ks (s1.pathData pathLS ks bs)

/-- An atomic (R151-R153): g[D] becomes f of the old value x, and the bytes become `new x` where there is a new value. -/
def AtomicForm (i : Instr) (s : State) (ea : W64) (n len : Nat) (new : Nat → Option Nat) (g : State → Nat → State → Prop) : Prop :=
  ∀ ks s1, Reaches s .amo true ea n ks s1 → Plain ks → Clean s ks → Clean s1 ks → Seen s1 s.hart.id pathLS ks → ea.toNat % n = 0 →
    ∃ t, exec i s = .next t ∧ PastBy s t len ∧ g s1 (leNat (s1.keyBytes ks)) t
      ∧ (match new (leNat (s1.keyBytes ks)) with
        | some y => Stored s1 t ks (leBytes n y)
        | none => OnlyRead (s1.afterRead ks) t)

/-! Vector instructions. -/

/-- A key lies in the window of a register, given by its code: vN is N, mN is 128 + N (R193, R205). -/
def Hart.inWindow (h : Hart) (r k : Nat) : Prop :=
  (r < 64 ∧ ∃ o, o < h.vw ∧ k = chamberKey (chamberAddr h.core ((h.vreg r).base + o)))
  ∨ (128 ≤ r ∧ ∃ o, o < 2 * h.em ∧ k = chamberKey (chamberAddr h.core ((h.mreg (r - 128)).base + o)))

/-- The machine without the focus hart, the bytes of memory with their errors, the matrix units and the model's own scratch. -/
def State.bare (s : State) : State :=
  { s with hart := Hart.reset 0, mem := { cells := [] }, poison := [], undef := [], vague := [], flaws := [], checks := [], unseen := [], wr := [], groups := [], choices := [], freeCtr := 0, mxs := [] }

/-- A hart without its PC, its wait, its scalar, control, vector and mask registers, its last vector destination, its windows and its streams. -/
def Hart.bare (h : Hart) : Hart :=
  { h with pc := 0, wait := .none, g := Vector.replicate 32 0, csr := Csr.reset, lastDest := 0, vregs := [], mregs := [], wins := [], strs := [] }

/-- The control registers without the flags, ESTART and the place in the noise log. -/
def Csr.bare (c : Csr) : Csr := { c with vstat := 0, noise := 0, estart := 0 }

/-- What an instruction that writes the vector and mask registers `ws` and the scalar register `gw` may change: flags are only set; registers keep their
windows and tags, and those outside `ws` are as before; a byte outside the windows of `ws` and outside `out` reads as before; poison, bit errors and wrong checks only
go. -/
structure VecFrame (ws : List Nat) (gw : Option GReg) (out : Nat → Prop) (s t : State) : Prop where
  machine : t.bare = s.bare
  hart : t.hart.bare = s.hart.bare
  csr : t.hart.csr.bare = s.hart.csr.bare
  noise : noiseMode t.hart.csr.noise = noiseMode s.hart.csr.noise
  flags : s.hart.csr.vstat &&& t.hart.csr.vstat = s.hart.csr.vstat
  gregs : ∀ r : GReg, gw ≠ some r → t.gr r = s.gr r
  vregs : ∀ n, (t.hart.vreg n).base = (s.hart.vreg n).base ∧ (t.hart.vreg n).tag = (s.hart.vreg n).tag ∧ (s.hart.vreg n).len ≤ (t.hart.vreg n).len
    ∧ (n ∉ ws → t.hart.vreg n = s.hart.vreg n)
  mregs : ∀ j, (t.hart.mreg j).base = (s.hart.mreg j).base ∧ (s.hart.mreg j).len ≤ (t.hart.mreg j).len ∧ (128 + j ∉ ws → t.hart.mreg j = s.hart.mreg j)
  poison : ∀ u, u ∈ t.poison → u ∈ s.poison
  flaws : ∀ f, f ∈ t.flaws → f ∈ s.flaws
  checks : ∀ c, c ∈ t.checks → c ∈ s.checks
  bytes : ∀ k, (∀ r, r ∈ ws → ¬ s.hart.inWindow r k) → ¬ out k → t.byteAt k = s.byteAt k
  wf : s.mem.wf = true → t.mem.wf = true

/-- A vector instruction that can run alone: the hart is in no convoy and no span, its fields are legal and name no bypass register (R14, R20, R193, R195), nothing
stands wrong in memory, no write of the hart is hidden from path LS, its registers' path (R94), no noise is logged or replayed (R232), VL is within a mask register (R207),
and no matrix unit is owed to it (R381). -/
def Ready (i : Instr) (s : State) : Prop :=
  s.hart.convoy = none ∧ s.hart.span = none ∧ s.poison = [] ∧ s.flaws = [] ∧ s.checks = [] ∧ AllSeen s s.hart.id pathLS ∧ noiseMode s.hart.csr.noise = 0 ∧ s.hart.csr.vlN ≤ s.hart.em ∧ s.owesTile = false
  ∧ ∀ v, infoOf i s.hart = some v → v.ill = none ∧ bypassCodes (v.reads ++ v.writes) = []

/-! The operand checks of vector instructions (R224, R261): what each one asks of the tags, the groups and their overlap before it runs. -/

/-- Two sources under one tag the instruction accepts, a destination it may write, groups whole and long enough; a destination that meets a source is the same
group, or with `ban` meets none. -/
def Hart.binaryOk (h : Hart) (ints floats ban : Bool) (d a b : Fld6) : Bool :=
  let A := h.vop a
  let B := h.vop b
  let D := h.vop d
  h.opTag B == h.opTag A && srcOk ints floats (h.opTag A) && dstOk D (h.opTag D) (h.opTag A)
    && h.operandsOk D (h.opTag D) [(A, h.opTag A), (B, h.opTag A)] ban

/-- The same with one vector source. -/
def Hart.unaryOk (h : Hart) (ints floats ban : Bool) (d a : Fld6) : Bool :=
  let A := h.vop a
  let D := h.vop d
  srcOk ints floats (h.opTag A) && dstOk D (h.opTag D) (h.opTag A) && h.operandsOk D (h.opTag D) [(A, h.opTag A)] ban

/-- The FMA family: all three under one integer or float tag. -/
def Hart.fmaOk (h : Hart) (d a b : Fld6) : Bool :=
  let A := h.vop a
  let B := h.vop b
  let D := h.vop d
  h.opTag B == h.opTag A && h.opTag D == h.opTag A && srcOk true true (h.opTag A) && h.operandsOk D (h.opTag A) [(A, h.opTag A), (B, h.opTag A)] false

/-- vmov: any tag but BXS. -/
def Hart.moveOk (h : Hart) (d b : Fld6) : Bool :=
  let B := h.vop b
  let D := h.vop d
  h.opTag B != .bxs && dstOk D (h.opTag D) (h.opTag B) && h.operandsOk D (h.opTag D) [(B, h.opTag B)] false

/-- A group that is whole and long enough under its own tag. -/
def Hart.wholeOk (h : Hart) (f : Fld6) : Bool := h.groupOk (h.vop f) (h.opTag (h.vop f))

/-- vsplat: any tag but BX4 and BXS; a BX8 destination with its scale register. -/
def Hart.splatOk (h : Hart) (d : Fld6) : Bool := h.opTag (h.vop d) != .bx4 && h.opTag (h.vop d) != .bxs && h.wholeOk d && h.bxOk (h.vop d) (h.opTag (h.vop d))

/-- A compare of two vectors, and of a vector with a scalar. -/
def Hart.compareOk (h : Hart) (a b : Fld6) : Bool :=
  let A := h.vop a
  let B := h.vop b
  h.opTag B == h.opTag A && srcOk true true (h.opTag A) && h.groupOk A (h.opTag A) && h.groupOk B (h.opTag A) && h.maskOk
def Hart.compareXOk (h : Hart) (a : Fld6) : Bool := srcOk true true (h.opTag (h.vop a)) && h.wholeOk a && h.maskOk

/-- vwmac and vsad: a destination of twice the registers, under the tag of twice the width (R283). -/
def Hart.widenOk (h : Hart) (d a : Fld6) (srcs : List (VOp × Tag)) : Bool :=
  let D := h.vop d 2
  (h.opTag (h.vop a)).wide == some (h.opTag D) && decide (h.csr.lmul < 8) && wideOk D && h.operandsOk D (h.opTag D) srcs true
def Hart.widenVVOk (h : Hart) (d a b : Fld6) : Bool :=
  h.opTag (h.vop b) == h.opTag (h.vop a) && h.widenOk d a [(h.vop a, h.opTag (h.vop a)), (h.vop b, h.opTag (h.vop a))]
def Hart.widenVXOk (h : Hart) (d a : Fld6) : Bool := h.widenOk d a [(h.vop a, h.opTag (h.vop a))]

/-- vnshr: a source of twice the registers and width, and a shift within it (R283). -/
def Hart.narrowOk (h : Hart) (d a : Fld6) (g : GReg) : Bool :=
  let A := h.vop a 2
  let D := h.vop d
  let st := h.opTag A
  let dt := h.opTag D
  st.isInt && decide (16 ≤ st.bits) && dt.isInt && dt.bits * 2 == st.bits && decide ((h.gr g).toNat % 64 < st.bits) && wideOk A
    && h.operandsOk D dt [(A, st)] true

/-- vclip: an integer source of at most 32 bits and bounds in order (R283). -/
def Hart.clipOk (h : Hart) (d a : Fld6) (g : GReg) : Bool :=
  let A := h.vop a
  let D := h.vop d
  let st := h.opTag A
  let half := fun (n : Nat) => if st.signed then Tag.i32.intOf n else (n : Int)
  st.isInt && decide (st.bits ≤ 32) && decide (half (bits (h.gr g).toNat 0 32) ≤ half (bits (h.gr g).toNat 32 32))
    && dstOk D (h.opTag D) st && h.operandsOk D (h.opTag D) [(A, st)] false

/-- Permutes (R288): the destination carries the data's tag and meets no source. -/
def Hart.copyOk (h : Hart) (d a : Fld6) : Bool := permOk h (h.vop d) (h.vop a) (h.opTag (h.vop d)) [(h.vop a, h.opTag (h.vop d))]
def Hart.gatherOk (h : Hart) (d a b : Fld6) : Bool :=
  (h.opTag (h.vop b)).isInt && permOk h (h.vop d) (h.vop a) (h.opTag (h.vop d)) [(h.vop a, h.opTag (h.vop d)), (h.vop b, h.opTag (h.vop b))]
def Hart.mergeOk (h : Hart) (d a b : Fld6) : Bool :=
  let A := h.vop a
  let B := h.vop b
  let D := h.vop d
  h.opTag B == h.opTag A && h.opTag A != .bxs && dstOk D (h.opTag D) (h.opTag A) && h.operandsOk D (h.opTag D) [(A, h.opTag A), (B, h.opTag A)] false

/-- vtrans8: eight single registers from one divisible by 8, all of one tag (R293). -/
def Hart.trans8Ok (h : Hart) (d : Fld6) : Bool :=
  let n := d.toNat
  n % 8 == 0 && h.csr.lmul == 1 && decide (n + 7 < h.nv) && (h.vreg n).tag.permutes
    && (List.range 8).all (fun j => (h.vreg (n + j)).tag == (h.vreg n).tag && h.groupOk (trans8Reg n j) (h.vreg n).tag)

/-- vid: an integer or float destination. viota also asks that OVFM does not name its source (R211, R261). -/
def Hart.numberOk (h : Hart) (d : Fld6) : Bool := srcOk true true (h.opTag (h.vop d)) && h.wholeOk d
def Hart.iotaOk (h : Hart) (d a : Fld6) : Bool := h.numberOk d && h.csr.ovfMask != some a.toNat

/-- vext and vins: a register group under a tag they move; VL plays no part (R295). -/
def Hart.pickOk (h : Hart) (f : Fld6) : Bool := (h.opTag (h.vop f)).permutes && h.groupRegs (h.vop f)

/-- pblend and pbgrad (R306, R310): an integer or float destination. (DEDUCED, log 35.) -/
def Hart.blendOk (h : Hart) (d a b : Fld6) : Bool :=
  let A := h.vop a
  let B := h.vop b
  let D := h.vop d
  h.opTag B == h.opTag A && srcOk true true (h.opTag A) && srcOk true true (h.opTag D) && dstOk D (h.opTag D) (h.opTag A)
    && h.operandsOk D (h.opTag D) [(A, h.opTag A), (B, h.opTag A)] false

/-- pgrad, and pmov to and from a mask (R309, R311). -/
def Hart.gradOk (h : Hart) (d : Fld6) : Bool := gradTag (h.opTag (h.vop d)) && h.wholeOk d
def Hart.pmovOk (h : Hart) (f : Fld6) : Bool := pmovTag (h.opTag (h.vop f)) && h.wholeOk f

/-- The last vector destination after an instruction (R17). -/
def VInfo.lastAfter (v : VInfo) (n : Nat) : Nat := match v.dest with | some d => d.toNat | none => n

/-- A vector instruction completes (R260): the PC moves past it, ESTART is 0, its destination is the last vector destination, it changes only what it may,
and `P` holds of the machine after it. -/
def VecDoes (i : Instr) (s : State) (out : Nat → Prop) (P : State → Prop) : Prop :=
  ∃ v t, infoOf i s.hart = some v ∧ exec i s = .next t ∧ PastBy s t v.len ∧ t.hart.csr.estart = 0 ∧ t.hart.lastDest = v.lastAfter s.hart.lastDest
    ∧ VecFrame v.writes v.gWrite out s t ∧ P t

/-- It writes nothing but its registers: no other memory, no matrix unit, no window, no stream. -/
def VecDone (i : Instr) (s : State) : Prop :=
  VecDoes i s (fun _ => False) (fun t => t.mxs = s.mxs ∧ t.hart.wins = s.hart.wins ∧ t.hart.strs = s.hart.strs)

/-! Fetching, traps and control registers. -/

/-- n bytes at the PC can be fetched: they translate, nothing stands wrong under them, and none is poisoned (R9). -/
def FetchesPart (s : State) (n : Nat) (s1 : State) (bs : List Byte) : Prop :=
  ∃ ks s0, s.resolveSpan s.hart.fetchAcc s.hart.pc n = .ok (ks, s0) ∧ Clean s ks ∧ Clean s0 ks ∧ bs = s0.keyBytes ks ∧ s1 = s0.afterRead ks

/-- The bytes of the instruction at the PC: the first halfword gives the length, and all of them can be fetched (R8, R9). -/
def Fetched (s s1 : State) (bs : List Byte) : Prop :=
  s.hart.pc.getLsbD 0 = false ∧ ∃ s0 first, FetchesPart s 2 s0 first
    ∧ ((lengthOf (leNat first) = 2 ∧ s1 = s0 ∧ bs = first) ∨ (lengthOf (leNat first) ≠ 2 ∧ FetchesPart s0 (lengthOf (leNat first)) s1 bs))

/-- It is the focus hart's turn to run the instruction at its PC: no turn stands waiting, no other agent has work, and the hart waits for nothing. -/
def MyTurn (s : State) : Prop := s.turns = [] ∧ (agentWork s).isNone = true ∧ s.hart.goes = true

/-- The handler of a trap has been entered (R389): the trap registers hold the cause, the value and the address of the instruction, TSTAT its queue and the mode
before, ESTART the element or 0, and the hart goes on in supervisor mode at TVEC; nothing else has changed. -/
def Enters (s t : State) (cause : Byte) (tval : W64) (queue : Nat) (elem : Option Nat) : Prop :=
  t.hart.csr.tcause = cause.setWidth 64 ∧ t.hart.csr.tval = tval ∧ t.hart.csr.tpc = s.hart.pc ∧ t.hart.csr.estart = BitVec.ofNat 64 (elem.getD 0)
  ∧ t.hart.csr.tstat = BitVec.ofNat 64 (elem.isSome.toNat * 0x800 + queue * 0x100 + s.hart.sup.toNat * 2 + 1)
  ∧ t.hart.sup = true ∧ AtPc t s.hart.csr.tvec
  ∧ { t with hart := { t.hart with sup := s.hart.sup, pc := s.hart.pc, wait := s.hart.wait, convoy := s.hart.convoy, csr := { t.hart.csr with
        tcause := s.hart.csr.tcause, tval := s.hart.csr.tval, tpc := s.hart.csr.tpc, estart := s.hart.csr.estart, tstat := s.hart.csr.tstat } }, wr := s.wr, groups := s.groups } = s

/-- The hart can take a trap: it has a handler, and none is running (R386, R389). -/
def HasHandler (s : State) : Prop := s.hart.csr.tvec ≠ 0 ∧ s.hart.csr.tstat.getLsbD 0 = false

/-- What translation reads beside memory. -/
def State.mapping (s : State) : List TlbEntry × List TlbEntry × List (Nat × PBlock) × List Nat × List (Nat × List Nat) × List Nat × Nat :=
  (s.tlb, s.utlb, s.parts, s.deadDies, s.peers, s.down, s.moduleNo)

/-- An access that translates to these keys whatever harts, gangs and memory do meanwhile: through the aperture, or through a TLB entry that needs no A or D set. -/
def Mapped (s : State) (a : Acc) (va : W64) (n : Nat) (ks : List Nat) : Prop :=
  Plain ks ∧ ks.Nodup ∧ ∀ u : State, u.mapping = s.mapping → u.resolveSpan a va n = .ok (ks, u)

/-- No context frame that is held for a gang shows a field at a byte (R381). -/
def FrameFree (s : State) (gang k : Nat) : Prop := ∀ f ∈ s.frames, f.gang = gang → f.byte k = none

/-- A gang has ended (R189): no hart of it lives, and its status and cause are set. -/
def GangOver (t : State) (g : Gang) (cause : Byte) : Prop :=
  t.gangOf g.id = some { g with status := .ended, cause := cause } ∧ ∀ h, h ∈ t.hart :: t.parked → h.gang = g.id → h.live = false

/-- A control-register instruction completes (R246): the old value to g[D], the control registers become `c`, and nothing else changes. -/
def CsrGives (i : Instr) (s : State) (d : GReg) (old : W64) (c : Csr) : Prop :=
  ∃ t, exec i s = .next t ∧ PastBy s t 4 ∧ GIs s t d old ∧ t.hart.csr = c
    ∧ { t with hart := { t.hart with pc := s.hart.pc, wait := s.hart.wait, g := s.hart.g, csr := s.hart.csr }, wr := s.wr, groups := s.groups } = s

/-- A write of a control register by each of the three instructions (R245): `put` says what the register's map stores. -/
def CsrStores (s : State) (n : BitVec 12) (a d : GReg) (old : W64) (put : W64 → Csr) : Prop :=
  CsrGives (.csrw n a d) s d old (put (s.gr a))
  ∧ (a ≠ 0 → CsrGives (.csrs n a d) s d old (put (old ||| s.gr a)) ∧ CsrGives (.csrc n a d) s d old (put (old &&& ~~~s.gr a)))

/-- A read of a control register: csrs or csrc with g0 (R245). -/
def CsrReads (s : State) (n : BitVec 12) (d : GReg) (v : W64) : Prop := GivesG (.csrs n 0 d) s d v 4 ∧ GivesG (.csrc n 0 d) s d v 4

/-! Vector registers apart, and elements. -/

/-- The windows of these registers lie in the Chamber and no two of them share a byte, as vcfg and vwin leave them (R205, R267). -/
def WindowsApart (s : State) (rs : List Nat) : Prop :=
  (∀ r r' k, r ∈ rs → r' ∈ rs → r ≠ r' → s.hart.inWindow r k → ¬ s.hart.inWindow r' k)
  ∧ ∀ r, r ∈ rs → if r < 64 then (s.hart.vreg r).base + s.hart.vw ≤ 0x800000 else (s.hart.mreg (r - 128)).base + 2 * s.hart.em ≤ 0x800000

/-- The elements of a destination after an instruction that runs from ESTART to VL (R259): an active element i is `f i`; an inactive one is zero under MZ and else as
before; a tail element is zero under TZ and else as before. -/
def ElemsAre (s t : State) (o : VOp) (x : Tag) (mk : Bool) (f : Nat → Nat) : Prop :=
  ∀ i, i < s.hart.opCount o x → t.codeOf o x i =
    if s.hart.csr.vlN ≤ i then (if s.hart.csr.tz then 0 else s.codeOf o x i)
    else if i < s.hart.csr.estart.toNat then s.codeOf o x i
    else if s.active mk i then f i
    else if s.hart.csr.mz then 0 else s.codeOf o x i

/-- The same of a mask register. -/
def MasksAre (s t : State) (j : Nat) (mk : Bool) (f : Nat → Nat) : Prop :=
  ∀ i, i < s.hart.em → t.maskOf j i =
    if s.hart.csr.vlN ≤ i then (if s.hart.csr.tz then 0 else s.maskOf j i)
    else if i < s.hart.csr.estart.toNat then s.maskOf j i
    else if s.active mk i then f i
    else if s.hart.csr.mz then 0 else s.maskOf j i

/-- A vector instruction whose operands are as `ok` says, and whose registers' windows are apart, completes, writes nothing but its registers, and leaves `P` true. -/
def VecGives (i : Instr) (s : State) (ok : Bool) (P : State → Prop) : Prop :=
  ∀ w, infoOf i s.hart = some w → Ready i s → ok = true → WindowsApart s (w.reads ++ w.writes) →
    VecDoes i s (fun _ => False) (fun t => t.mxs = s.mxs ∧ t.hart.wins = s.hart.wins ∧ t.hart.strs = s.hart.strs ∧ P t)

/-- How many elements of mask register j below n are active. -/
def State.maskCount (s : State) (j n : Nat) : Nat := ((List.range n).filter (fun i => activeCode (s.maskOf j i))).length

/-- The elements below n that a mask makes active, in rising order. -/
def State.actives (s : State) (mk : Bool) (n : Nat) : List Nat := (List.range n).filter (s.active mk)

/-- The code of an integer in a tag, modulo 2^SEW, and clamped to its range. -/
def Tag.wrapped (x : Tag) (z : Int) : Nat := (z % 2 ^ x.bits).toNat
def Tag.clamped (x : Tag) (z : Int) : Nat := x.wrapped (max x.minInt (min x.maxInt z))

/-- The code of the one rounding of an exact value under FRM (R227); SR, which draws, is not among the modes meant. -/
def Csr.rounded (c : Csr) (x : Tag) (v : Val) : Nat := (x.round (c.rnd 0) v).code

/-! Accesses inside an instruction. -/

/-- An access that translates to these keys however memory changes meanwhile: through the Chamber aperture, or through a TLB entry that needs no A or D set. -/
def Resident (s : State) (a : Acc) (va : W64) (n : Nat) (ks : List Nat) : Prop :=
  Plain ks ∧ ks.Nodup ∧ ∀ u : State, u.bare = s.bare → u.resolveSpan a va n = .ok (ks, u)

/-- The address of field f of element i of a vector load or store (R160). -/
def VMem.ea (m : VMem) (s : State) (i f : Nat) : W64 :=
  let t := m.tag s.hart
  s.gr m.g + m.disp + (match m.kind with
    | .unit => BitVec.ofNat 64 (i * t.bits / 8)
    | .strided r => BitVec.ofNat 64 i * s.gr r
    | .indexed a => BitVec.ofInt 64 ((s.hart.opTag (s.hart.vop a)).intOf (s.codeOf (s.hart.vop a) (s.hart.opTag (s.hart.vop a)) i))
    | .segment n => BitVec.ofNat 64 ((i * n + f) * t.bytes))

/-- The elements a vector instruction works on: those from ESTART to VL that its mask makes active. -/
def Works (s : State) (mk : Bool) (i : Nat) : Prop := s.hart.csr.estart.toNat ≤ i ∧ i < s.hart.csr.vlN ∧ s.active mk i = true

/-- A vector load or store whose active elements can all be reached, at `keys i f`: its operands are as R160 and R162 ask, its registers' windows are apart, and the memory it
works on is in none of them; no write of the hart there is hidden from path LS. -/
def VMem.Goes (m : VMem) (s : State) (v : VInfo) (keys : Nat → Nat → List Nat) : Prop :=
  m.ok s.hart = true ∧ WindowsApart s (v.reads ++ v.writes)
  ∧ ∀ i f, Works s m.masked i → f < m.kind.nf →
      Resident s (s.hart.acc (if m.store then .write else .read) m.ord) (m.ea s i f) (m.tag s.hart).bytes (keys i f) ∧ (m.a8 = true → (m.ea s i f).toNat % 8 = 0)
      ∧ Seen s s.hart.id pathLS (keys i f) ∧ ∀ k, k ∈ keys i f → ∀ r, r ∈ v.reads ++ v.writes → ¬ s.hart.inWindow r k

/-- A vector load (R161): each active element of each field takes the bytes at its address; under `.fm` its element of m1 is 0, since it met no fault. -/
def LoadsElems (i : Instr) (s : State) (m : VMem) : Prop :=
  ∀ v keys, infoOf i s.hart = some v → Ready i s → m.Goes s v keys → VecDoes i s (fun _ => False) (fun t =>
    t.mxs = s.mxs ∧ t.hart.wins = s.hart.wins ∧ t.hart.strs = s.hart.strs
    ∧ (m.fm = true → ∀ j, Works s m.masked j → t.maskOf 1 j = 0)
    ∧ (m.tag s.hart ≠ .bx4 → ∀ j f, Works s m.masked j → f < m.kind.nf → t.codeOf ((m.groups s.hart).getD f (.byp 0)) (m.tag s.hart) j = leNat (s.pathBytes pathLS (keys j f))))

/-- A vector store (R161): the bytes at the address of each active element of each field become its code; no other memory changes. -/
def StoresElems (i : Instr) (s : State) (m : VMem) : Prop :=
  ∀ v keys, infoOf i s.hart = some v → Ready i s → m.Goes s v keys → VecDoes i s (fun k => ∃ j f, Works s m.masked j ∧ f < m.kind.nf ∧ k ∈ keys j f) (fun t =>
    t.mxs = s.mxs ∧ t.hart.wins = s.hart.wins ∧ t.hart.strs = s.hart.strs
    ∧ (m.fm = true → ∀ j, Works s m.masked j → t.maskOf 1 j = 0)
    ∧ (m.tag s.hart ≠ .bx4 → (∀ j f j' f' k, Works s m.masked j → Works s m.masked j' → (j, f) ≠ (j', f') → k ∈ keys j f → k ∉ keys j' f') →
        ∀ j f, Works s m.masked j → f < m.kind.nf → (keys j f).map t.byteAt =
          s.pathData pathLS (keys j f) (leBytes (m.tag s.hart).bytes (s.codeOf ((m.groups s.hart).getD f (.byp 0)) (m.tag s.hart) j))))

/-- A vector atomic (R166): each active element takes the old value at its address, and the bytes there become what the operation makes of it and the element. -/
def AtomicElems (i : Instr) (s : State) (allowed : Tag → Bool) (f : Tag → Nat → Nat → Nat) (mk ord : Bool) (g : GReg) (a d : Fld6) (disp : W64) : Prop :=
  let D := s.hart.vop d
  let A := s.hart.vop a
  let x := s.hart.opTag D
  let ea (j : Nat) : W64 := s.gr g + disp + BitVec.ofInt 64 ((s.hart.opTag A).intOf (s.codeOf A (s.hart.opTag A) j))
  ∀ (v : VInfo) (keys : Nat → List Nat), infoOf i s.hart = some v → Ready i s → allowed x = true → (s.hart.opTag A).isIndex = true → s.hart.groupOk D x = true → s.hart.groupOk A (s.hart.opTag A) = true →
    D.partly A = false → WindowsApart s (v.reads ++ v.writes) →
    (∀ j, Works s mk j → Resident s (s.hart.acc .amo ord) (ea j) x.bytes (keys j) ∧ (ea j).toNat % x.bytes = 0
      ∧ ∀ k, k ∈ keys j → ∀ r, r ∈ v.reads ++ v.writes → ¬ s.hart.inWindow r k) →
    VecDoes i s (fun k => ∃ j, Works s mk j ∧ k ∈ keys j) (fun t => t.mxs = s.mxs ∧ t.hart.wins = s.hart.wins ∧ t.hart.strs = s.hart.strs
      ∧ ((∀ j j' k, Works s mk j → Works s mk j' → j ≠ j' → k ∈ keys j → k ∉ keys j') → ∀ j, Works s mk j →
        t.codeOf D x j = leNat (s.keyBytes (keys j)) ∧ (keys j).map t.byteAt = leBytes x.bytes (f x (leNat (s.keyBytes (keys j))) (s.codeOf D x j))))

/-- A range of memory that may span pages: every piece of it within a page translates to its keys however memory changes meanwhile. -/
def Spans (s : State) (a : Acc) (va : W64) (n : Nat) (ks : List Nat) : Prop :=
  Plain ks ∧ ks.Nodup ∧ ks.length = n ∧ ∀ o k, 1 ≤ k → o + k ≤ n → (va + BitVec.ofNat 64 o).toNat % 4096 + k ≤ 4096 →
    ∀ u : State, u.bare = s.bare → u.resolveSpan a (va + BitVec.ofNat 64 o) k = .ok ((ks.drop o).take k, u)

/-! The matrix unit. -/

/-- The configurations that `mxon` accepts leave MXL and MXF so (R315, R316). -/
def Csr.mxLegal (c : Csr) : Prop := 1 ≤ c.mxLen ∧ c.mxLen ≤ (if c.mxLay ∨ c.mxFmt = .f64 then 32 else 64) ∧ (c.mxFmt = .f64 → c.mxLay = false)

/-- The cells of a tile (R317). -/
def Csr.inTile (c : Csr) (x r col : Nat) : Prop :=
  if c.mxFmt = .f64 then x = 0 ∧ r < 64 ∧ col < 32 else if c.mxLay then x ≤ 3 ∧ r < 32 ∧ col < 32 else x = 0 ∧ r < 64 ∧ col < 64

/-- The focus core's unit has the same holder and queue, and its cells outside `P` are as before; no other unit has changed. -/
def UnitKeeps (s t : State) (P : Nat → Nat → Nat → Prop) : Prop :=
  (∀ k, k ≠ s.hart.core → t.mxUnit k = s.mxUnit k) ∧ t.ownMx.holder = s.ownMx.holder ∧ t.ownMx.queue = s.ownMx.queue
  ∧ ∀ x r c, s.hart.csr.inTile x r c → ¬ P x r c → t.ownMx.tile s.hart.csr x r c = s.ownMx.tile s.hart.csr x r c

/-! Commands of the engines. -/

/-- No graph stands in the way of an access of a path to a byte (R365). -/
def State.unbound (s : State) (path k : Nat) : Prop := s.boundGraph path false k = none ∧ s.boundGraph path true k = none

end Sys2Proof.Machine
namespace Sys2Proof
open Machine
/-- The header fields of a record are legal (R337): no reserved flag, WDOG only on DECODE, FUA only on SWR, reserved bytes 0. -/
def Command.headerOk (c : Command) : Prop := c.fld 1 1 < 4 ∧ (c.wdog = true → c.type = 4) ∧ (c.fua = true → c.type = 8) ∧ c.fld 2 6 = 0

/-- Nothing but the command decides what its accesses meet: no bit error and no wrong check stands in memory, no write of its issuer is hidden from its path, and no
ended gang's done word waits for a command. -/
def Command.settled (c : Command) (s : State) (path : Nat) : Prop :=
  s.flaws = [] ∧ s.checks = [] ∧ (∀ m, s.issuer c path = some m → ∀ l, s.hiding m l = []) ∧ ∀ g ∈ s.gangs, g.owed = none

/-- A command with a legal header whose completion word can be written from a die: its 16 bytes are `kw`, behind no bound graph. -/
def Command.canEnd (c : Command) (s : State) (path die : Nat) (kw : List Nat) : Prop :=
  c.headerOk ∧ c.settled s path ∧ Spans (s.dropCommand c) (c.acc die .write) c.cwa 16 kw ∧ ∀ k, k ∈ kw → s.unbound path k
end Sys2Proof
namespace Sys2Proof.Machine

/-- A step that ends a command (R338): its completion word stands at `kw`, only that and `out` have changed in memory, the rest of the machine is `r` but for the free choices
taken, and `P` holds. -/
def EndsFrom (i : Instr) (s r : State) (kw : List Nat) (status cause sub count aux : Nat) (out : Nat → Prop) (P : State → Prop) : Prop :=
  ∃ t, exec i s = .next t ∧ kw.map t.byteAt = leBytes 16 (status + cause * 2 ^ 8 + sub * 2 ^ 16 + Nat.min count 0xFFFFFFFF * 2 ^ 32 + aux % 2 ^ 64 * 2 ^ 64)
    ∧ (∀ k, k ∉ kw → ¬ out k → t.byteAt k = s.byteAt k)
    ∧ { t.rememory r with choices := r.choices } = r ∧ P t

/-- The same of a command that an engine takes out of its queue. -/
def EndsWith (i : Instr) (c : Command) (s r : State) (kw : List Nat) (status cause sub count aux : Nat) (out : Nat → Prop) (P : State → Prop) : Prop :=
  EndsFrom i s { r with engines := s.engines.erase c } kw status cause sub count aux out P

/-- An occurrence has been logged on a die (R392): it is the newest record of that die's log, not read, with the present time of the die (R420); no other die's log has changed. -/
def Logged (s t : State) (d cls point core addr : Nat) : Prop :=
  (∃ n r rest, (t.elog d).recs = (n, r) :: rest ∧ r.cls = cls ∧ r.point = point ∧ r.core = core ∧ r.addr = addr ∧ r.time = s.ticksOf d ∧ r.read = false)
  ∧ ∀ k, k ≠ d → t.elog k = s.elog k

end Sys2Proof.Machine
end

