-- ==== Sys2Proof/Certificates/Slice0/Obligations.lean ====
section
/-! DEFINITION. The statements about the machine. -/
open Sys2Proof hiding leBytes bit
open Sys2Proof.Machine

/-- R237, R238, R236: what each register-register operation writes, its completion and its frame. A product's upper half is that of the 128-bit product;
division rounds toward zero, with the results of R238 for a zero divisor and for the one quotient that overflows. -/
def Claims.RegisterArithmetic : Prop := ∀ (s : State) (b a d : GReg),
  let x := s.gr a
  let y := s.gr b
  GivesG (.add b a d) s d (x + y) 4 ∧ GivesG (.sub b a d) s d (x - y) 4
  ∧ GivesG (.and b a d) s d (x &&& y) 4 ∧ GivesG (.or b a d) s d (x ||| y) 4 ∧ GivesG (.xor b a d) s d (x ^^^ y) 4
  ∧ GivesG (.sll b a d) s d (x <<< (y.extractLsb' 0 6).toNat) 4 ∧ GivesG (.srl b a d) s d (x >>> (y.extractLsb' 0 6).toNat) 4
  ∧ GivesG (.sra b a d) s d (x.sshiftRight (y.extractLsb' 0 6).toNat) 4
  ∧ GivesG (.slt b a d) s d (if x.toInt < y.toInt then 1 else 0) 4 ∧ GivesG (.sltu b a d) s d (if x.toNat < y.toNat then 1 else 0) 4
  ∧ GivesG (.min b a d) s d (BitVec.ofInt 64 (Min.min x.toInt y.toInt)) 4 ∧ GivesG (.max b a d) s d (BitVec.ofInt 64 (Max.max x.toInt y.toInt)) 4
  ∧ GivesG (.minu b a d) s d (BitVec.ofNat 64 (Min.min x.toNat y.toNat)) 4 ∧ GivesG (.maxu b a d) s d (BitVec.ofNat 64 (Max.max x.toNat y.toNat)) 4
  ∧ GivesG (.mul b a d) s d (x * y) 4
  ∧ GivesG (.mulh b a d) s d ((x.signExtend 128 * y.signExtend 128).extractLsb' 64 64) 4
  ∧ GivesG (.mulhu b a d) s d ((x.setWidth 128 * y.setWidth 128).extractLsb' 64 64) 4
  ∧ GivesG (.div b a d) s d (if y = 0 then BitVec.allOnes 64 else BitVec.ofInt 64 (x.toInt.tdiv y.toInt)) 4
  ∧ GivesG (.rem b a d) s d (if y = 0 then x else BitVec.ofInt 64 (x.toInt.tmod y.toInt)) 4
  ∧ GivesG (.divu b a d) s d (if y = 0 then BitVec.allOnes 64 else BitVec.ofNat 64 (x.toNat / y.toNat)) 4
  ∧ GivesG (.remu b a d) s d (if y = 0 then x else BitVec.ofNat 64 (x.toNat % y.toNat)) 4

/-- R237: the one-source counts. n leading (trailing) zero bits: the n bits from the top (bottom) are 0, and the next one, if there is one, is 1. popc counts the
bits that are 1. -/
def Claims.BitCounts : Prop := ∀ (s : State) (a d : GReg),
  let x := s.gr a
  (∃ n, n ≤ 64 ∧ GivesG (.clz a d) s d (BitVec.ofNat 64 n) 4 ∧ (∀ j, j < n → x.getLsbD (63 - j) = false) ∧ (n < 64 → x.getLsbD (63 - n) = true))
  ∧ (∃ n, n ≤ 64 ∧ GivesG (.ctz a d) s d (BitVec.ofNat 64 n) 4 ∧ (∀ j, j < n → x.getLsbD j = false) ∧ (n < 64 → x.getLsbD n = true))
  ∧ GivesG (.popc a d) s d (BitVec.ofNat 64 ((List.range 64).filter (fun j => x.getLsbD j)).length) 4

/-- R236, R237, R238: the register-register operations and the one-source counts. -/
def Obligations.RegisterOperations : Prop := Claims.RegisterArithmetic ∧ Claims.BitCounts


/-- R239, R240: the immediate operations, in the 32-bit form and, where there is one, in the 64-bit form with IMM32 as the immediate. -/
def Obligations.ImmediateArithmetic : Prop := ∀ (s : State) (a d : GReg) (imm : BitVec 14) (imm32 : W32) (sh : BitVec 6),
  let x := s.gr a
  let i := imm.signExtend 64
  let j := imm32.signExtend 64
  GivesG (.addi imm a d) s d (x + i) 4 ∧ GivesG (.addiLong a d imm32) s d (x + j) 8
  ∧ GivesG (.andi imm a d) s d (x &&& i) 4 ∧ GivesG (.andiLong a d imm32) s d (x &&& j) 8
  ∧ GivesG (.ori imm a d) s d (x ||| i) 4 ∧ GivesG (.oriLong a d imm32) s d (x ||| j) 8
  ∧ GivesG (.xori imm a d) s d (x ^^^ i) 4 ∧ GivesG (.xoriLong a d imm32) s d (x ^^^ j) 8
  ∧ GivesG (.slti imm a d) s d (if x.toInt < i.toInt then 1 else 0) 4 ∧ GivesG (.sltiLong a d imm32) s d (if x.toInt < j.toInt then 1 else 0) 8
  ∧ GivesG (.lih imm d) s d i 4 ∧ GivesG (.lihLong d imm32) s d j 8
  ∧ GivesG (.liw imm a d) s d (imm.signExtend 32 ++ x.setWidth 32) 4 ∧ GivesG (.liwLong a d imm32) s d (imm32 ++ x.setWidth 32) 8
  ∧ GivesG (.slli sh a d) s d (x <<< sh.toNat) 4 ∧ GivesG (.srli sh a d) s d (x >>> sh.toNat) 4 ∧ GivesG (.srai sh a d) s d (x.sshiftRight sh.toNat) 4

/-- R241, R242, R12: a branch goes to its target, which counts halfwords from the branch, where its condition holds, and else to the next
instruction; the second register is g0 in the 32-bit form. -/
def Claims.Branches : Prop := ∀ (s : State) (off : BitVec 14) (a c : GReg),
  let x := s.gr a
  let y := s.gr c
  let goal := s.hart.pc + off.signExtend 64 * 2
  let dest (cond : Bool) (len : Nat) : W64 := if cond then goal else s.hart.pc + BitVec.ofNat 64 len
  GoesTo (.beq off a) s (dest (decide (x = 0)) 4) ∧ GoesTo (.beqLong off a c) s (dest (decide (x = y)) 8)
  ∧ GoesTo (.bne off a) s (dest (decide (x ≠ 0)) 4) ∧ GoesTo (.bneLong off a c) s (dest (decide (x ≠ y)) 8)
  ∧ GoesTo (.blt off a) s (dest (decide (x.toInt < 0)) 4) ∧ GoesTo (.bltLong off a c) s (dest (decide (x.toInt < y.toInt)) 8)
  ∧ GoesTo (.bge off a) s (dest (decide (0 ≤ x.toInt)) 4) ∧ GoesTo (.bgeLong off a c) s (dest (decide (y.toInt ≤ x.toInt)) 8)
  ∧ GoesTo (.bltu off a) s (s.hart.pc + 4) ∧ GoesTo (.bltuLong off a c) s (dest (decide (x.toNat < y.toNat)) 8)
  ∧ GoesTo (.bgeu off a) s goal ∧ GoesTo (.bgeuLong off a c) s (dest (decide (y.toNat ≤ x.toNat)) 8)

/-- R242, R243: jalr jumps through the value its register has before the link is written, with bit 0 cleared; the 32-bit form discards the link. jal links and
jumps to an offset from itself. -/
def Claims.Jumps : Prop := ∀ (s : State) (off : BitVec 14) (far : BitVec 19) (a c d : GReg),
  LinksTo (.jalr off a) s ((s.gr a + off.signExtend 64 * 2) &&& ~~~1) 0 0
  ∧ LinksTo (.jalrLong off a c) s ((s.gr a + off.signExtend 64 * 2) &&& ~~~1) c (s.hart.pc + 8)
  ∧ LinksTo (.jal far d) s (s.hart.pc + far.signExtend 64 * 2) d (s.hart.pc + 4)

/-- R242: what branches and jumps do: conditions and targets, links, and the printed word of the return. -/
def Obligations.BranchesAndJumps : Prop := Claims.Branches ∧ Claims.Jumps ∧ decodeTableWord 32 0xC141 = some (.jalr 0 1)


/-! Memory. -/

/-- R146, R147, R148: the scalar loads, sign- or zero-extended, in both forms; the displacement of the 32-bit form counts access sizes. -/
def Obligations.ScalarLoads : Prop := ∀ (s : State) (imm : BitVec 10) (a d : GReg) (imm32 : W32),
  let near (n : Nat) : W64 := s.gr a + imm.signExtend 64 * BitVec.ofNat 64 n
  let far : W64 := s.gr a + imm32.signExtend 64
  let sx (n : Nat) (v : Nat) : W64 := (BitVec.ofNat (8 * n) v).signExtend 64
  let zx (v : Nat) : W64 := BitVec.ofNat 64 v
  LoadForm (.ldB imm a d) s d (near 1) 1 4 false (sx 1) ∧ LoadForm (.ldBLong a d imm32) s d far 1 8 false (sx 1)
  ∧ LoadForm (.ldBu imm a d) s d (near 1) 1 4 false zx ∧ LoadForm (.ldBuLong a d imm32) s d far 1 8 false zx
  ∧ LoadForm (.ldH imm a d) s d (near 2) 2 4 false (sx 2) ∧ LoadForm (.ldHLong a d imm32) s d far 2 8 false (sx 2)
  ∧ LoadForm (.ldHu imm a d) s d (near 2) 2 4 false zx ∧ LoadForm (.ldHuLong a d imm32) s d far 2 8 false zx
  ∧ LoadForm (.ldW imm a d) s d (near 4) 4 4 false (sx 4) ∧ LoadForm (.ldWLong a d imm32) s d far 4 8 false (sx 4)
  ∧ LoadForm (.ldWu imm a d) s d (near 4) 4 4 false zx ∧ LoadForm (.ldWuLong a d imm32) s d far 4 8 false zx
  ∧ LoadForm (.ldD imm a d) s d (near 8) 8 4 false zx ∧ LoadForm (.ldDLong a d imm32) s d far 8 8 false zx
  ∧ LoadForm (.ldDA8 imm a d) s d (near 8) 8 4 true zx ∧ LoadForm (.ldDA8Long a d imm32) s d far 8 8 true zx
  ∧ LoadPairForm (.ldQA16 imm a d) s d (near 16) 4 ∧ LoadPairForm (.ldQA16Long a d imm32) s d far 8

/-- R146, R147, R148: the scalar stores, in both forms: the low bytes of g[D], or of g[D] and the next register. -/
def Obligations.ScalarStores : Prop := ∀ (s : State) (imm : BitVec 10) (a d : GReg) (imm32 : W32),
  let near (n : Nat) : W64 := s.gr a + imm.signExtend 64 * BitVec.ofNat 64 n
  let far : W64 := s.gr a + imm32.signExtend 64
  let low (n : Nat) : List Byte := leBytes n (s.gr d).toNat
  let pair : List Byte := leBytes 8 (s.gr d).toNat ++ leBytes 8 (s.gr (d + 1)).toNat
  StoreForm (.stB imm a d) s (near 1) 1 4 false (low 1) ∧ StoreForm (.stBLong a d imm32) s far 1 8 false (low 1)
  ∧ StoreForm (.stH imm a d) s (near 2) 2 4 false (low 2) ∧ StoreForm (.stHLong a d imm32) s far 2 8 false (low 2)
  ∧ StoreForm (.stW imm a d) s (near 4) 4 4 false (low 4) ∧ StoreForm (.stWLong a d imm32) s far 4 8 false (low 4)
  ∧ StoreForm (.stD imm a d) s (near 8) 8 4 false (low 8) ∧ StoreForm (.stDLong a d imm32) s far 8 8 false (low 8)
  ∧ StoreForm (.stDA8 imm a d) s (near 8) 8 4 true (low 8) ∧ StoreForm (.stDA8Long a d imm32) s far 8 8 true (low 8)
  ∧ StoreForm (.stQA16 imm a d) s (near 16) 16 4 true pair ∧ StoreForm (.stQA16Long a d imm32) s far 16 8 true pair

/-- R149, R150: acquires and releases of each size, in both forms; a load zero-extends, and the widest size takes a register pair. -/
def Obligations.AcquireRelease : Prop := ∀ (s : State) (sz sc : BitVec 3) (a d : GReg) (imm32 : W32),
  let n := 2 ^ sz.toNat
  let near := s.gr a
  let far := s.gr a + imm32.signExtend 64
  (sz.toNat ≤ 3 → LoadForm (.ldA sz sc a d) s d near n 4 true (BitVec.ofNat 64) ∧ LoadForm (.ldALong sz sc a d imm32) s d far n 8 true (BitVec.ofNat 64)
    ∧ StoreForm (.stR sz sc a d) s near n 4 true (leBytes n (s.gr d).toNat) ∧ StoreForm (.stRLong sz sc a d imm32) s far n 8 true (leBytes n (s.gr d).toNat))
  ∧ (sz = 4 → LoadPairForm (.ldA sz sc a d) s d near 4 ∧ LoadPairForm (.ldALong sz sc a d imm32) s d far 8
    ∧ StoreForm (.stR sz sc a d) s near 16 4 true (leBytes 8 (s.gr d).toNat ++ leBytes 8 (s.gr (d + 1)).toNat)
    ∧ StoreForm (.stRLong sz sc a d imm32) s far 16 8 true (leBytes 8 (s.gr d).toNat ++ leBytes 8 (s.gr (d + 1)).toNat))

/-- R151, R152, R153: the atomics of 4 and 8 bytes, in both forms: g[D] takes the old value sign-extended, and the word becomes the new one; `amo.cas` writes
only where the old word equals g[D]. -/
def Claims.Atomics : Prop := ∀ (s : State) (od : BitVec 2) (sc : BitVec 3) (b a d : GReg) (wide : Bool) (imm32 : W32),
  let n := if wide then 8 else 4
  let m := 2 ^ (8 * n)
  let y := (s.gr b).toNat % m
  let sg (v : Nat) : Int := (BitVec.ofNat (8 * n) v).toInt
  let near := s.gr a
  let far := s.gr a + imm32.signExtend 64
  let put (s1 : State) (x : Nat) (t : State) : Prop := GIs s1 t d ((BitVec.ofNat (8 * n) x).signExtend 64)
  let form (i j : Instr) (f : Nat → Option Nat) : Prop := AtomicForm i s near n 4 f put ∧ AtomicForm j s far n 8 f put
  form (.amoAdd od sc b a d wide) (.amoAddLong od sc b a d wide imm32) (fun x => some ((x + y) % m))
  ∧ form (.amoAnd od sc b a d wide) (.amoAndLong od sc b a d wide imm32) (fun x => some (x &&& y))
  ∧ form (.amoOr od sc b a d wide) (.amoOrLong od sc b a d wide imm32) (fun x => some (x ||| y))
  ∧ form (.amoXor od sc b a d wide) (.amoXorLong od sc b a d wide imm32) (fun x => some (x ^^^ y))
  ∧ form (.amoMin od sc b a d wide) (.amoMinLong od sc b a d wide imm32) (fun x => some (if sg y < sg x then y else x))
  ∧ form (.amoMax od sc b a d wide) (.amoMaxLong od sc b a d wide imm32) (fun x => some (if sg x < sg y then y else x))
  ∧ form (.amoMinu od sc b a d wide) (.amoMinuLong od sc b a d wide imm32) (fun x => some (Min.min x y))
  ∧ form (.amoMaxu od sc b a d wide) (.amoMaxuLong od sc b a d wide imm32) (fun x => some (Max.max x y))
  ∧ form (.amoSwap od sc b a d wide) (.amoSwapLong od sc b a d wide imm32) (fun _ => some y)
  ∧ form (.amoCas od sc b a d wide) (.amoCasLong od sc b a d wide imm32) (fun x => if x = (s.gr d).toNat % m then some y else none)

/-- R152, R153: the atomics of 16 bytes, over register pairs. -/
def Claims.PairAtomics : Prop := ∀ (s : State) (od : BitVec 2) (sc : BitVec 3) (b a d : GReg) (imm32 : W32),
  let pair (r : GReg) : Nat := (s.gr r).toNat + 2 ^ 64 * (s.gr (r + 1)).toNat
  let near := s.gr a
  let far := s.gr a + imm32.signExtend 64
  let put (s1 : State) (x : Nat) (t : State) : Prop := ∀ r : GReg, t.gr r =
    if r = 0 then 0 else if r = d + 1 then BitVec.ofNat 64 (x / 2 ^ 64) else if r = d then BitVec.ofNat 64 x else s1.gr r
  let cas (x : Nat) : Option Nat := if x = pair d then some (pair b) else none
  AtomicForm (.amoSwapA16 od sc b a d) s near 16 4 (fun _ => some (pair b)) put
  ∧ AtomicForm (.amoSwapA16Long od sc b a d imm32) s far 16 8 (fun _ => some (pair b)) put
  ∧ AtomicForm (.amoCasA16 od sc b a d) s near 16 4 cas put ∧ AtomicForm (.amoCasA16Long od sc b a d imm32) s far 16 8 cas put

/-- R151, R152, R153: the atomics of one register and of a pair. -/
def Obligations.AtomicOperations : Prop := Claims.Atomics ∧ Claims.PairAtomics


/-- Every scalar access and how it reaches memory: its kind, whether it may be device class, its address, its bytes, and whether it must be aligned (R146, R149, R151, R157). -/
def Claims.ScalarAccesses (s : State) (imm : BitVec 10) (od : BitVec 2) (sz sc : BitVec 3) (b a d : GReg) (wide : Bool) (imm32 : W32)
    (P : Instr → AKind → Bool → W64 → Nat → Bool → Prop) : Prop :=
  let near (n : Nat) : W64 := s.gr a + imm.signExtend 64 * BitVec.ofNat 64 n
  let far : W64 := s.gr a + imm32.signExtend 64
  let load (i j : Instr) (n : Nat) (al : Bool) : Prop := P i .read true (near n) n al ∧ P j .read true far n al
  let store (i j : Instr) (n : Nat) (al : Bool) : Prop := P i .write true (near n) n al ∧ P j .write true far n al
  let amo (i j : Instr) (n : Nat) : Prop := P i .amo true (s.gr a) n true ∧ P j .amo true far n true
  let m := if wide then 8 else 4
  load (.ldB imm a d) (.ldBLong a d imm32) 1 false ∧ load (.ldBu imm a d) (.ldBuLong a d imm32) 1 false ∧ load (.ldH imm a d) (.ldHLong a d imm32) 2 false
  ∧ load (.ldHu imm a d) (.ldHuLong a d imm32) 2 false ∧ load (.ldW imm a d) (.ldWLong a d imm32) 4 false ∧ load (.ldWu imm a d) (.ldWuLong a d imm32) 4 false
  ∧ load (.ldD imm a d) (.ldDLong a d imm32) 8 false ∧ load (.ldDA8 imm a d) (.ldDA8Long a d imm32) 8 true ∧ load (.ldQA16 imm a d) (.ldQA16Long a d imm32) 16 true
  ∧ store (.stB imm a d) (.stBLong a d imm32) 1 false ∧ store (.stH imm a d) (.stHLong a d imm32) 2 false ∧ store (.stW imm a d) (.stWLong a d imm32) 4 false
  ∧ store (.stD imm a d) (.stDLong a d imm32) 8 false ∧ store (.stDA8 imm a d) (.stDA8Long a d imm32) 8 true ∧ store (.stQA16 imm a d) (.stQA16Long a d imm32) 16 true
  ∧ (sz.toNat ≤ 4 → P (.ldA sz sc a d) .read true (s.gr a) (2 ^ sz.toNat) true ∧ P (.ldALong sz sc a d imm32) .read true far (2 ^ sz.toNat) true
    ∧ P (.stR sz sc a d) .write true (s.gr a) (2 ^ sz.toNat) true ∧ P (.stRLong sz sc a d imm32) .write true far (2 ^ sz.toNat) true)
  ∧ amo (.amoAdd od sc b a d wide) (.amoAddLong od sc b a d wide imm32) m ∧ amo (.amoAnd od sc b a d wide) (.amoAndLong od sc b a d wide imm32) m
  ∧ amo (.amoOr od sc b a d wide) (.amoOrLong od sc b a d wide imm32) m ∧ amo (.amoXor od sc b a d wide) (.amoXorLong od sc b a d wide imm32) m
  ∧ amo (.amoMin od sc b a d wide) (.amoMinLong od sc b a d wide imm32) m ∧ amo (.amoMax od sc b a d wide) (.amoMaxLong od sc b a d wide imm32) m
  ∧ amo (.amoMinu od sc b a d wide) (.amoMinuLong od sc b a d wide imm32) m ∧ amo (.amoMaxu od sc b a d wide) (.amoMaxuLong od sc b a d wide imm32) m
  ∧ amo (.amoSwap od sc b a d wide) (.amoSwapLong od sc b a d wide imm32) m ∧ amo (.amoCas od sc b a d wide) (.amoCasLong od sc b a d wide imm32) m
  ∧ amo (.amoSwapA16 od sc b a d) (.amoSwapA16Long od sc b a d imm32) 16 ∧ amo (.amoCasA16 od sc b a d) (.amoCasA16Long od sc b a d imm32) 16
  ∧ P (.wfm sc b a d) .read false (s.gr a) 4 true

/-- R35, R40, R42, R48, R99, R144, R148, R391, R393: where the scalar loads, stores and atomics trap, in both lengths: ALIGN at an address that is not a multiple of the size where
the form asks for one; PAGE or ACCESS where the address does not translate, with the machine as it was where no error stands in the table entries that are read; POISON
where a byte that is read is poisoned, with the address of the aligned word of the first such byte, after a record of class 5, and with nothing else changed but for errors
that the walk has met: no A or D is set. A load meets a bit error under its bytes: one that can be corrected is logged as
class 1 and the load goes on. The queue that TSTAT names is deduced (log entry 72). -/
def Obligations.ScalarAccessTraps : Prop :=
  ∀ (s : State) (imm : BitVec 10) (od : BitVec 2) (sz sc : BitVec 3) (b a d : GReg) (wide : Bool) (imm32 : W32),
  let all := Claims.ScalarAccesses s imm od sz sc b a d wide imm32
  let q (ea : W64) : Nat := s.hart.scalarQueue ea
  let fits (ea : W64) (n : Nat) (al : Bool) : Prop := al = true → ea.toNat % n = 0
  all (fun i _ _ ea n al => al = true → ea.toNat % n ≠ 0 → Traps i s 0x04 ea (q ea))
  ∧ all (fun i kind dev ea n al => fits ea n al → SoundWalk s (s.hart.acc kind dev) ea n → ∀ f, s.resolveSpan (s.hart.acc kind dev) ea n = .error f → Traps i s f.cause f.tval (q ea))
  ∧ all (fun i kind dev ea n al => kind ≠ .write → fits ea n al → ∀ ks s1 j k, Reaches s kind dev ea n ks s1 → (kind = .amo → Plain ks) →
      let e := s.withErrors s1
      Sound e ks → ks[j]? = some k → isRegSpace k = false → e.poisoned k = true → (∀ l, l < j → ∀ k', ks[l]? = some k' → isRegSpace k' = true ∨ e.poisoned k' = false) →
      exec i s = .next ((e.logPoison 5 k).endWrites.takeTrap { cause := 0x09, tval := (ea + BitVec.ofNat 64 j) &&& ~~~7, elem := none, queue := q ea, fatal := false }))
  ∧ ∀ f ks, let ea := s.gr a + imm.signExtend 64 * 8
    Reaches s .read true ea 8 ks s → Plain ks → Seen s s.hart.id pathLS ks → s.flaws = [f] → f.fatal = false → s.checks = [] → s.poison = [] → (∃ k ∈ ks, f.covers k = true) →
    (∀ k ∈ ks, s.inBoundWindow k = false) → ∃ t, exec (.ldD imm a d) s = .next t ∧ PastBy s t 4 ∧ GIs s t d (BitVec.ofNat 64 (leNat (s.pathBytes pathLS ks))) ∧ t.flaws = []
      ∧ t.poison = [] ∧ Logged s t (errorPlace f.first).1 1 f.point (errorPlace f.first).2.1 (errorPlace f.first).2.2


/-- R156, R158, R253: a fence completes where every earlier access of its hart has been performed, and waits at its address before; after it no access of the hart on a path
may precede a write that an access of that path has met or made. So does `fence.x` for the paths of its before-set, after which no access on a path of its after-set may
precede a write from which a chain has come with a path of the before-set; with an empty set it changes nothing but the PC. `waitq` and `yield` change nothing but the PC. -/
def Claims.FencesComplete : Prop := ∀ (s : State) (sc : BitVec 3) (after before : BitVec 7) (qm : BitVec 4),
  let waits (i : Instr) : Prop := ∃ t, exec i s = .next t ∧ t.hart.pc = s.hart.pc ∧ t.hart.wait = .order ∧ GSame s t ∧ OnlyScalar s t
  let B := pathsOf before.toNat
  let A := pathsOf after.toNat
  (s.owes allPaths = false → ∃ t, exec (.fence sc) s = .next t ∧ PastBy s t 4 ∧ GSame s t ∧ OnlyFence s t
    ∧ ∀ m : Manner, m.hart = s.hart.id → m.path ∈ allPaths → t.fences ≤ m.stamp → ∀ l, ∀ u ∈ t.hiding m l, m.path ∉ t.viaOf u)
  ∧ (s.owes allPaths = true → waits (.fence sc))
  ∧ (before = 0 ∨ after = 0 → NoEffect (.fenceX sc after before) s 4)
  ∧ (before ≠ 0 → after ≠ 0 → s.owes B = true → waits (.fenceX sc after before))
  ∧ (before ≠ 0 → after ≠ 0 → s.owes B = false → ∃ t, exec (.fenceX sc after before) s = .next t ∧ PastBy s t 4 ∧ GSame s t ∧ OnlyFence s t
      ∧ ∀ m : Manner, m.hart = s.hart.id → m.path ∈ A → t.fences ≤ m.stamp → ∀ l, ∀ u ∈ t.hiding m l, ∀ p ∈ B, p ∉ u.via)
  ∧ NoEffect (.waitq qm) s 4 ∧ NoEffect .yield s 4

/-- R157: wfm writes the word at g[A] to g[D] where it differs from the low word of g[B], and else waits at its own address; a waiting wfm that is woken does
the same. -/
def Claims.WaitForMemory : Prop := ∀ (s : State) (sc : BitVec 3) (b a d : GReg),
  let ea := s.gr a
  let y := (s.gr b).toNat % 2 ^ 32
  let form (i : Instr) : Prop := ∀ ks s1, Reads s .read false ea 4 ks s1 → ea.toNat % 4 = 0 →
    let x := leNat (s1.pathBytes pathLS ks)
    (x ≠ y → ∃ t, exec i s = .next t ∧ PastBy s t 4 ∧ GIs s1 t d (BitVec.ofNat 64 x) ∧ OnlyRead (s1.afterRead ks) t)
    ∧ (x = y → ∃ t, exec i s = .next t ∧ t.hart.pc = s.hart.pc ∧ t.hart.wait = .wfm b a d ∧ GSame s1 t ∧ OnlyRead (s1.afterRead ks) t)
  form (.wfm sc b a d) ∧ (s.hart.wait = .wfm b a d → form .wfmWake)

/-- R155, R156, R157, R158: fences wait for the accepted commands and the fills of their hart and for nothing else; queue waits complete at once; wfm goes on when its word differs and
waits while it does not. That loads, stores and atomics leave nothing to wait for is the model's choice (log entry 20), and so is what an unordered path may miss (log entry 77). -/
def Obligations.FencesAndWaits : Prop := Claims.FencesComplete ∧ Claims.WaitForMemory


/-! Words, fetching and steps. -/

/-- Words written out from the spec's encodings, one or more for each family of the opcode table, decode to the instructions they stand for (R9, R11 to R13, R17 to R19): integer
arithmetic and its immediates, control flow, control registers and system, memory, atomics, fences, vector arithmetic, compares, reductions, permutes, vector memory and
streams, configuration and windows, probability, matrix, `enq`, the compact forms, and 64-bit words. -/
def Obligations.DecodedWords : Prop :=
  decodeTableWord 32 0x0B948601 = some (.remu 5 4 6) ∧ decodeTableWord 32 0x01500405 = some (.addi 84 0 4) ∧ decodeTableWord 32 0x00280541 = some (.beq 10 5)
  ∧ decodeTableWord 32 0x0000C145 = some (.jal 6 1) ∧ decodeTableWord 32 0x0000C141 = some (.jalr 0 1) ∧ decodeTableWord 32 0x804C0749 = some (.csrs 0x013 0 7)
  ∧ decodeTableWord 32 0x00000049 = some .ecall ∧ decodeTableWord 32 0x00800049 = some .tret ∧ decodeTableWord 32 0x04800049 = some .gexit
  ∧ decodeTableWord 32 0x11005401 = some (.popc 2 20) ∧ decodeTableWord 32 0x005B0F19 = some (.slli 22 24 15) ∧ decodeTableWord 32 0x080F6049 = some (.tlbiVa 3 27)
  ∧ decodeTableWord 32 0x4F9AB331 = some (.ldD 318 21 19) ∧ decodeTableWord 32 0xBD6D0D31 = some (.stD 757 8 13) ∧ decodeTableWord 32 0x31819635 = some (.ldA 3 3 12 22)
  ∧ decodeTableWord 32 0x05861B3D = some (.amoAdd 1 3 1 16 27 true) ∧ decodeTableWord 32 0x0C00004D = some (.fence 3) ∧ decodeTableWord 32 0x2C34BE4D = some (.fenceX 3 52 95)
  ∧ decodeTableWord 32 0x4C69074D = some (.wfm 3 26 8 7)
  ∧ decodeTableWord 32 0xC33BB151 = some (.vaddVv true true 51 46 49) ∧ decodeTableWord 32 0xC1D31C55 = some (.vaddVx true true 29 12 28)
  ∧ decodeTableWord 32 0xC2479D59 = some (.vfma true true 36 30 29) ∧ decodeTableWord 32 0xC3F2D15D = some (.vcmpEqVv true true 63 11 17)
  ∧ decodeTableWord 32 0xC1682361 = some (.vcmpEqVx true true 22 32 35) ∧ decodeTableWord 32 0xC2742D71 = some (.vwmacVv true true 39 16 45)
  ∧ decodeTableWord 32 0xC280FE75 = some (.vnshr true true 8 3 62) ∧ decodeTableWord 32 0xC0019F79 = some (.vredSum true true 6 31)
  ∧ decodeTableWord 32 0xE7B8B179 = some (.vrgather true true 59 34 49) ∧ decodeTableWord 32 0xCC0C157D = some (.mpopc true true 48 21)
  ∧ decodeTableWord 32 0xCE302781 = some (.vld true true true true true 3 39) ∧ decodeTableWord 32 0xEE413685 = some (.vstx true true true true true 4 4 54)
  ∧ decodeTableWord 32 0xE29C3089 = some (.vamoAdd true true true 9 48 48) ∧ decodeTableWord 32 0xC0026C8D = some (.vpop true true 9 44)
  ∧ decodeTableWord 32 0x01500091 = some (.vcfg 21) ∧ decodeTableWord 32 0x0C412791 = some (.vnext 16679) ∧ decodeTableWord 32 0x01D03495 = some (.winset 29 52)
  ∧ decodeTableWord 32 0xC761FD99 = some (.vldw true true 3 22 7 61) ∧ decodeTableWord 32 0x0080199D = some (.sbind 8 25)
  ∧ decodeTableWord 32 0xD2351EA1 = some (.pandInd true true 35 20 30) ∧ decodeTableWord 32 0xC80CB5A5 = some (.pgrad true true 50 53)
  ∧ decodeTableWord 32 0xD3C344A9 = some (.xpa true true false true 60 13 4) ∧ decodeTableWord 32 0x463F0BAD = some (.mrdV true 3 60 11)
  ∧ decodeTableWord 32 0x4001C1B1 = some (.enq true 7 1) ∧ decodeTableWord 16 0x1A40 = some (.cVadd 3 18) ∧ decodeTableWord 16 0xE906 = some (.cVfma 29 8)
  ∧ decodeTableWord 64 0x89ABCDEF00024E07 = some (.addiLong 18 14 0x89ABCDEF) ∧ decodeTableWord 64 0x00000015BB240143 = some (.beqLong 11977 1 21)
  ∧ decodeTableWord 64 0x89ABCDEF001ADB33 = some (.ldDLong 22 27 0x89ABCDEF) ∧ decodeTableWord 64 0x89ABCDEFEE398683 = some (.vldxLong true true true true true 3 38 6 0x89ABCDEF)
  ∧ decodeTableWord 64 0x89ABCDEF0CFFDD97 = some (.lcadvLong 15 63 29 0x89ABCDEF)

/-- Every well-formed instruction is encoded so that its bytes, whatever bytes follow them, decode to it and leave what follows. -/
def Obligations.EncodeDecode : Prop := ∀ (i : Instr) (rest : List Byte), i.wf = true → decode (encodeBytes i ++ rest) = .ok (i, rest)

/-- R8, R9: where it is the focus hart's turn and the bytes at its PC decode to an instruction that opens no convoy, the step is that instruction; a span of
`vrgn` that skipped a convoy forgets it (R191). The trap of an odd PC, of bytes that cannot be fetched and of poisoned bytes, in the first halfword or past it, and that of bytes
that decode to nothing (R20), are the events FETCH_FAULT and ILLEGAL_ENCODING. Whose turn it is when no turn is listed is the model's choice (log entry 2); that a fetch sees the
newest bytes of memory at the PC is log entry 12 (DEDUCED). -/
def Obligations.StepRunsDecoded : Prop := ∀ (s s1 : State) (bs : List Byte), MyTurn s →
  (∀ i rest, Fetched s s1 bs → decode bs = .ok (i, rest) → (∀ v, infoOf i s1.hart = some v → s1.hart.opensConvoy v = false) →
    step s = exec i (s1.closeSpan (infoOf i s1.hart)))
  ∧ (∀ r, Fetched s s1 bs → decode bs = .error r → step s = exec (.illegalEncoding (s1.hart.rejectSub r bs) (BitVec.ofNat 32 (leNat (bs.take 4)))) s1)
  ∧ (s.hart.pc.getLsbD 0 = true → step s = exec (.fetchFault 0x04 s.hart.pc) s)
  ∧ (s.hart.pc.getLsbD 0 = false →
    let faults (n : Nat) (u : State) : Prop :=
      (∀ f, SoundWalk u s.hart.fetchAcc s.hart.pc n → u.resolveSpan s.hart.fetchAcc s.hart.pc n = .error f → step s = exec (.fetchFault f.cause f.tval) u)
      ∧ ∀ ks u1 j k, u.resolveSpan s.hart.fetchAcc s.hart.pc n = .ok (ks, u1) →
        let e := u.withErrors u1
        Sound e ks → e.firstPoison 0 ks = some (j, k) → step s = exec (.fetchFault 0x09 ((s.hart.pc + BitVec.ofNat 64 j) &&& ~~~7)) (e.logPoison 5 k)
    faults 2 s ∧ ∀ u first, FetchesPart s 2 u first → lengthOf (leNat first) ≠ 2 → faults (lengthOf (leNat first)) u)

/-- R20, R9, R385, R391: ILLEGAL_ENCODING takes ILLEGAL with the subcode and the instruction's low 32 bits in TVAL; FETCH_FAULT takes the cause and TVAL it met. Both name queue 0,
the front end (R177, R385), in TSTAT, which is log entry 72 (DEDUCED). -/
def Obligations.FetchTraps : Prop := ∀ (s : State) (sub : Byte) (low : W32) (cause : Byte) (tval : W64),
  Traps (.illegalEncoding sub low) s 0x01 (BitVec.ofNat 64 (sub.toNat + 2 ^ 32 * low.toNat)) 0 ∧ Traps (.fetchFault cause tval) s cause tval 0
  ∧ (HasHandler s → (∃ t, exec (.illegalEncoding sub low) s = .next t ∧ Enters s t 0x01 (BitVec.ofNat 64 (sub.toNat + 2 ^ 32 * low.toNat)) 0 none)
    ∧ ∃ t, exec (.fetchFault cause tval) s = .next t ∧ Enters s t cause tval 0 none)

/-- The machine after reset. The spec states that no gang is there and BOOTSTAT says that the start completed (R417, R418), and gives VTYPE, VL, the flags, FRM, OVFM
and the trap registers their reset values (R212, R213, R214, R384, R385, R386). The scalar registers, memory and the PC, which no rule gives a value, hold the values
that the assumption log names: zero, which is the model's choice (entries 4 and 5). -/
def Obligations.ResetState : Prop :=
  let s := State.reset
  let c := s.hart.csr
  s.gangs = [] ∧ s.parts = [] ∧ s.engines = [] ∧ s.hart.status = .off ∧ s.hart.sup = false ∧ s.bootstat = 0xFF0000
  ∧ c.vl = 0 ∧ c.vtype = 0x2802 ∧ c.vstat = 0 ∧ c.frm = 0 ∧ c.ovfm = 0x10 ∧ c.tcause = 0 ∧ c.tpc = 0 ∧ c.tval = 0 ∧ c.tstat = 0 ∧ c.tvec = 0 ∧ c.tscratch = 0
  ∧ (∀ r, s.gr r = 0) ∧ s.hart.pc = 0 ∧ ∀ k, s.byteAt k = 0

/-- The invariant holds at reset: memory in its canonical form. -/
def Obligations.ResetInvariant : Prop := MemInv State.reset

/-- Every step keeps memory in its canonical form, whatever state it starts from. -/
def Obligations.StepKeepsInvariant : Prop := ∀ s t, MemInv s → step s = .next t → MemInv t

/-- No step stops: every instruction, every event and every trap has a next state, in every state. -/
def Obligations.StepGoesOn : Prop := ∀ s, GoesOn s

/-! Traps and system instructions. -/

/-- R389, R384, R385, R386: where the hart has a handler and none is running, an instruction that traps enters the handler, and nothing but the trap registers,
ESTART, the mode and the PC changes. A trap at an element leaves its number in ESTART and sets TSTAT.ELEM, and a trap of a convoy names its member in TSTAT.MEMBER and is
taken at the convoy's address. -/
def Obligations.TrapEntry : Prop := ∀ (i : Instr) (s : State) (cause : Byte) (tval : W64) (queue : Nat), HasHandler s →
  (Traps i s cause tval queue → ∃ t, exec i s = .next t ∧ Enters s t cause tval queue none)
  ∧ (∀ e, exec i s = .next (s.endWrites.takeTrap { cause := cause, tval := tval, elem := some e, queue := queue, fatal := false }) →
    ∃ t, exec i s = .next t ∧ Enters s t cause tval queue (some e))
  ∧ ∀ e tpc member, let t := s.takeTrapAt { cause := cause, tval := tval, elem := e, queue := queue, fatal := false } tpc member
    Enters { s with hart := { s.hart with pc := tpc } } { t with hart := { t.hart with csr := { t.hart.csr with tstat := t.hart.csr.tstat - BitVec.ofNat 64 (member * 0x1000) } } }
      cause tval queue e

/-- R250: `ecall` and `brk` trap at their own address, with 0 and with the code in TVAL. -/
def Obligations.CallsAndBreaks : Prop := ∀ (s : State) (code : BitVec 5), HasHandler s →
  (∃ t, exec .ecall s = .next t ∧ Enters s t 0x0C 0 0 none) ∧ ∃ t, exec (.brk code) s = .next t ∧ Enters s t 0x0D (code.setWidth 64) 0 none

/-- R389, R189, R188, R119: a trap of a hart with no handler, or within its handler, ends its gang with that cause, whatever instruction traps; a gang with a done word then
holds status 2 and the cause in it, once no command of its harts is left to be done, and else owes it. -/
def Obligations.GangFaults : Prop := ∀ (i : Instr) (s : State) (cause : Byte) (tval : W64) (queue : Nat) (e : Option Nat) (g : Gang), s.gangOf s.hart.gang = some g → ¬ HasHandler s →
  exec i s = .next (s.endWrites.takeTrap { cause := cause, tval := tval, elem := e, queue := queue, fatal := false }) →
  let keeps (t : State) (ks : List Nat) : Prop := ∀ k, k ∉ ks → FrameFree s g.id k → t.byteAt k = s.byteAt k
  (g.record.done = 0 → s.owesCommands g.id none allPaths = false → ∃ t, exec i s = .next t ∧ GangOver t g cause ∧ keeps t [])
  ∧ (s.owesCommands g.id none allPaths = true → ∃ t, exec i s = .next t ∧ GangOver t { g with owed := some 2 } cause ∧ keeps t [])
  ∧ (∀ ks, g.record.done ≠ 0 → s.owesCommands g.id none allPaths = false → Mapped s (g.acc .write) g.record.done 4 ks → s.checks = [] → (∀ k ∈ ks, s.inBoundWindow k = false) →
      ∃ t, exec i s = .next t ∧ GangOver t g cause ∧ ks.map t.byteAt = s.pathData pathLS ks (leBytes 4 (2 + 256 * cause.toNat)) ∧ keeps t ks)

/-- R251, R390: `tret` in supervisor mode goes to TPC in the mode of TSTAT.PM with INTRAP cleared, and changes nothing else; an odd TPC raises ALIGN in the mode and
trap state just restored. (With bound windows the residency engine's resume of R81 comes first.) -/
def Obligations.TrapReturn : Prop := ∀ s : State, s.hart.sup = true →
  (s.hart.csr.tpc.getLsbD 0 = false → s.hart.bound = [] → ∃ t, exec .tret s = .next t ∧ AtPc t s.hart.csr.tpc ∧ t.hart.sup = s.hart.csr.tstat.getLsbD 1
    ∧ t.hart.csr = { s.hart.csr with tstat := s.hart.csr.tstat &&& ~~~1 }
    ∧ { t with hart := { t.hart with pc := s.hart.pc, wait := s.hart.wait, sup := s.hart.sup, csr := s.hart.csr }, wr := s.wr, groups := s.groups } = s)
  ∧ (s.hart.csr.tpc.getLsbD 0 = true → s.hart.csr.tvec ≠ 0 → ∃ t, exec .tret s = .next t ∧ t.hart.csr.tcause = 0x04 ∧ t.hart.csr.tval = s.hart.csr.tpc
    ∧ t.hart.csr.tpc = s.hart.csr.tpc ∧ t.hart.csr.tstat = BitVec.ofNat 64 ((s.hart.csr.tstat.getLsbD 1).toNat * 2 + 1) ∧ t.hart.sup = true ∧ AtPc t s.hart.csr.tvec)

/-- R248, R249, R391: the supervisor instructions raise PRIV in user mode, with subcode 1 in TVAL. -/
def Obligations.PrivilegeTraps : Prop := ∀ (s : State) (a b : GReg), s.hart.sup = false →
  Traps .tret s 0x03 1 0 ∧ Traps .halt s 0x03 1 0 ∧ Traps (.tlbiVa b a) s 0x03 1 0 ∧ Traps (.tlbiAs b) s 0x03 1 0 ∧ Traps .tlbiAll s 0x03 1 0

/-- R213, R246: a control-register instruction on an unassigned number, or that writes a register that is read-only in its mode, raises ILLEGAL with subcode 2; one
on a register that user mode may not reach raises PRIV with subcode 2 and the number. -/
def Obligations.CsrTraps : Prop := ∀ (s : State) (n : BitVec 12) (a d : GReg),
  let all (P : Instr → Prop) : Prop := P (.csrw n a d) ∧ P (.csrs n a d) ∧ P (.csrc n a d)
  let illegal (i : Instr) : Prop := Traps i s 0x01 (BitVec.ofNat 64 (2 + 2 ^ 32 * (encode i).2)) 0
  (csrAccess n.toNat = none → all illegal)
  ∧ (∀ sup, csrAccess n.toNat = some (.none, sup) → s.hart.sup = false → all (fun i => Traps i s 0x03 (BitVec.ofNat 64 (2 + 256 * n.toNat)) 0))
  ∧ (∀ u v, csrAccess n.toNat = some (u, v) → (if s.hart.sup then v else u) = .ro → illegal (.csrw n a d) ∧ (a ≠ 0 → illegal (.csrs n a d) ∧ illegal (.csrc n a d)))

/-- R213, R245, R246: what each control register reads as; the trap registers and BOOTSTAT in supervisor mode only. -/
def Claims.CsrValues : Prop := ∀ (s : State) (d : GReg),
  let c := s.hart.csr
  CsrReads s 0x000 d c.vl ∧ CsrReads s 0x001 d c.vtype ∧ CsrReads s 0x002 d c.vcfg ∧ CsrReads s 0x003 d (BitVec.ofNat 64 c.mvl) ∧ CsrReads s 0x004 d c.sc
  ∧ CsrReads s 0x005 d c.estart ∧ CsrReads s 0x006 d c.mxl ∧ CsrReads s 0x007 d c.mxf ∧ CsrReads s 0x010 d c.temp ∧ CsrReads s 0x011 d c.frm
  ∧ CsrReads s 0x012 d c.xrm ∧ CsrReads s 0x013 d c.vstat ∧ CsrReads s 0x014 d c.ovfm ∧ CsrReads s 0x018 d c.noise ∧ CsrReads s 0x019 d c.nlog
  ∧ CsrReads s 0x100 d (BitVec.ofNat 64 s.hart.id) ∧ CsrReads s 0x101 d (BitVec.ofNat 64 (s.hart.id / 4)) ∧ CsrReads s 0x102 d (BitVec.ofNat 64 (s.hart.id / 64))
  ∧ CsrReads s 0x103 d (BitVec.ofNat 64 s.hart.part) ∧ CsrReads s 0x104 d 0x10201020 ∧ CsrReads s 0x302 d c.chbase ∧ CsrReads s 0x303 d c.chlim
  ∧ (∀ g, s.gangOf s.hart.gang = some g → CsrReads s 0x300 d g.budget ∧ CsrReads s 0x301 d (BitVec.ofNat 64 g.eff))
  ∧ (s.hart.sup = true → CsrReads s 0x200 d c.tcause ∧ CsrReads s 0x201 d c.tpc ∧ CsrReads s 0x202 d c.tval ∧ CsrReads s 0x203 d c.tstat
    ∧ CsrReads s 0x204 d c.tvec ∧ CsrReads s 0x205 d c.tscratch ∧ CsrReads s 0x7F0 d s.bootstat)

/-- R212, R214, R231, R245, R246, R303, R384, R385, R386: what a write of each control register stores, by `csrw`, `csrs` and `csrc`; the old value goes to g[D]. A write of
VTYPE with a reserved code is OPERAND. (With a noise log in progress a write of NOISE first stores the record, R231.) -/
def Claims.CsrStoresValues : Prop := ∀ (s : State) (a d : GReg),
  let c := s.hart.csr
  CsrStores s 0x005 a d c.estart (fun v => { c with estart := v })
  ∧ CsrStores s 0x010 a d c.temp (fun v =>
      let x := v.toNat % 2 ^ 32
      if x = 0x80000000 then { c with temp := 0 }
      else if 0x7F800000 < x then { c with temp := 0, vstat := c.vstat ||| 0x80 }
      else { c with temp := BitVec.ofNat 64 x })
  ∧ CsrStores s 0x011 a d c.frm (fun v => { c with frm := if 6 ≤ v.toNat % 8 then v &&& 0x18 else v &&& 0x1F })
  ∧ CsrStores s 0x012 a d c.xrm (fun v => { c with xrm := v }) ∧ CsrStores s 0x013 a d c.vstat (fun v => { c with vstat := v &&& 0xFF })
  ∧ CsrStores s 0x014 a d c.ovfm (fun v => { c with ovfm := if v.toNat % 32 < s.hart.nm then v &&& 0x1F else 0x10 })
  ∧ CsrStores s 0x019 a d c.nlog (fun v => { c with nlog := v &&& ~~~0x7F })
  ∧ (noiseMode c.noise ≠ 1 → CsrStores s 0x018 a d c.noise (fun v => { c with noise := (v &&& 0x0000FFFF00003FF0) ||| (if v.toNat % 4 = 3 then 0 else v &&& 3) }))
  ∧ (let vtype (i : Instr) (v : W64) : Prop := (vtypeOk v = true → CsrGives i s d c.vtype { c with vtype := v }) ∧ (vtypeOk v = false → Traps i s 0x02 0 0)
    vtype (.csrw 0x001 a d) (s.gr a) ∧ (a ≠ 0 → vtype (.csrs 0x001 a d) (c.vtype ||| s.gr a) ∧ vtype (.csrc 0x001 a d) (c.vtype &&& ~~~s.gr a)))
  ∧ (s.hart.sup = true → CsrStores s 0x200 a d c.tcause (fun v => { c with tcause := v &&& 0xFF }) ∧ CsrStores s 0x201 a d c.tpc (fun v => { c with tpc := v })
    ∧ CsrStores s 0x202 a d c.tval (fun v => { c with tval := v }) ∧ CsrStores s 0x203 a d c.tstat (fun v => { c with tstat := v &&& 0xFF03 })
    ∧ CsrStores s 0x204 a d c.tvec (fun v => { c with tvec := v &&& ~~~1 }) ∧ CsrStores s 0x205 a d c.tscratch (fun v => { c with tscratch := v }))

/-- R203, R245, R246: what each control register reads and what a write stores. -/
def Obligations.CsrResults : Prop := Claims.CsrValues ∧ Claims.CsrStoresValues


/-- R252, R257, R258: in supervisor mode `halt` stops the hart at the next instruction; each `tlbi`, once every earlier access of its hart has been performed, removes the
translations it names from every die TLB and micro-TLB, and no other; before, it waits at its address. -/
def Obligations.HaltAndTlbi : Prop := ∀ (s : State) (a b : GReg), s.hart.sup = true →
  let asid := (s.gr b).toNat % 65536
  let rest (i : Instr) (gone : TlbEntry → Prop) : Prop :=
    (s.owes allPaths = false → ∃ t, exec i s = .next t ∧ PastBy s t 4 ∧ (∀ e, e ∈ t.tlb ↔ e ∈ s.tlb ∧ ¬ gone e) ∧ (∀ e, e ∈ t.utlb ↔ e ∈ s.utlb ∧ ¬ gone e)
      ∧ { t with hart := { t.hart with pc := s.hart.pc, wait := s.hart.wait }, tlb := s.tlb, utlb := s.utlb, wr := s.wr, groups := s.groups } = s)
    ∧ (s.owes allPaths = true → ∃ t, exec i s = .next t ∧ t.hart.pc = s.hart.pc ∧ t.hart.wait = .order ∧ GSame s t ∧ OnlyScalar s t)
  (∃ t, exec .halt s = .next t ∧ PastBy s t 4 ∧ t.hart.status = .halted
    ∧ { t with hart := { t.hart with pc := s.hart.pc, wait := s.hart.wait, status := s.hart.status }, wr := s.wr, groups := s.groups } = s)
  ∧ rest (.tlbiVa b a) (fun e => canonical (s.gr a).toNat = true ∧ e.part = s.hart.part ∧ (e.asid = asid ∨ pteG e.pte = true) ∧ e.va = (s.gr a).toNat / e.size * e.size)
  ∧ rest (.tlbiAs b) (fun e => e.part = s.hart.part ∧ e.asid = asid ∧ pteG e.pte = false)
  ∧ rest .tlbiAll (fun e => e.part = s.hart.part)

/-- R183, R184, R205, R395: the launch code of a record. FIELD, RECT, CHAMBER, PRIV and FULL name what is wrong with it, each by its own condition, and code 0 is given exactly
where none holds; which code is given where several hold is not said here (log entry 80). A core or a die that is out of service is outside the partition. -/
def Claims.LaunchCodes : Prop := ∀ (s : State) (part asid : Nat) (user : Bool) (bs : List Byte),
  let code := s.launchCode part asid user bs
  let at' (o n : Nat) : Nat := fieldAt bs o n
  let vc := at' 0x20 8
  let vt := at' 0x28 8
  let waits := at' 0x3E 1
  let hpc := at' 0x3C 1
  let chb := at' 0x30 4
  let vsz := 0x10000 * 2 ^ bits vc 4 3
  let em := Nat.min 0x10000 (8 * (vsz / (8 * 2 ^ bits vc 0 2)))
  let inRect (d : Nat) : Prop := d < 64 ∧ at' 0x38 1 ≤ d % 8 ∧ d % 8 ≤ at' 0x3A 1 ∧ at' 0x39 1 ≤ d / 8 ∧ d / 8 ≤ at' 0x3B 1
  let field : Prop := 8 ≤ at' 0x3D 1 ∨ 2 ≤ at' 0x3F 1 ∨ at' 0x34 2 = 0 ∨ at' 0 8 % 2 = 1 ∨ hpc = 0 ∨ 4 < hpc ∨ 4 < waits ∨ at' 0x10 8 % 4 ≠ 0
    ∨ (∃ n, n < 4 ∧ if n < waits then at' (0x40 + 16 * n) 8 % 4 ≠ 0 ∨ 4 ≤ at' (0x4C + 16 * n) 1 ∨ at' (0x4D + 16 * n) 3 ≠ 0 else at' (0x40 + 16 * n) 16 ≠ 0)
    ∨ bits vc 55 9 ≠ 0 ∨ bits vc 10 22 ≠ 0 ∨ bits vc 7 1 ≠ 0 ∨ bits vc 2 2 ≠ 0 ∨ bits vc 8 2 = 3 ∨ bits vc 4 3 = 7 ∨ bits vc 32 23 % 0x1000 ≠ 0
    ∨ chb < bits vc 32 23 + vsz + 4 * 2 ^ bits vc 8 2 * 2 * em
    ∨ bits vt 15 49 ≠ 0 ∨ bits vt 3 1 ≠ 0 ∨ 4 ≤ bits vt 0 3 ∨ bits vt 9 4 < 3 ∨ 10 < bits vt 9 4
  let rect : Prop := at' 0x3A 1 < at' 0x38 1 ∨ at' 0x3B 1 < at' 0x39 1 ∨ 7 < at' 0x3A 1 ∨ 7 < at' 0x3B 1
    ∨ ∃ d, inRect d ∧ (s.ownsDie part d = false ∨ d ∈ s.deadDies ∨ ∃ c, c < 16 ∧ bit (at' 0x34 2) c = true ∧ 16 * d + c ∈ s.deadCores)
  let chamber : Prop := chb % 4096 ≠ 0 ∨ chb = 0 ∨ 0x600000 < hpc * chb
  let priv : Prop := user = true ∧ (at' 0x3F 1 % 2 = 1 ∨ at' 0x36 2 ≠ asid)
  let full : Prop := 256 ≤ (s.gangs.filter (fun g => g.status.live && g.record.home == (parseGang bs).home)).length
  code ≤ 5 ∧ (code = 0 ↔ ¬ (field ∨ rect ∨ chamber ∨ priv ∨ full))
  ∧ (code = 1 → field) ∧ (code = 2 → rect) ∧ (code = 3 → chamber) ∧ (code = 4 → priv) ∧ (code = 5 → full)

/-- R254, R184: `glaunch` first acts as a `fence.x` from all paths to all paths: it waits at its address until every earlier access of its hart has been performed. Then it reads the
128 bytes at g[A], writes the launch code to g[D], and queues a gang with that record where the code is 0; a record that is not aligned is ALIGN. -/
def Claims.LaunchRuns : Prop := ∀ (s : State) (a d : GReg),
  let s0 := s.orderPaths s.hart.id s.outstanding allPaths allPaths
  ((s.gr a).toNat % 128 = 0 → s.owes allPaths = false → ∀ ks s1, Reads s0 .read true (s.gr a) 128 ks s1 →
    let s2 := s1.afterRead ks
    let bs := s1.pathBytes pathLS ks
    let code := s2.launchCode s2.hart.part s2.hart.asid (!s2.hart.sup) bs
    ∃ t, exec (.glaunch a d) s = .next t ∧ PastBy s t 4 ∧ GIs s2 t d (BitVec.ofNat 64 code)
      ∧ OnlyRead (if code = 0 then s2.queueGang s2.hart.part false (parseGang bs) else s2) t)
  ∧ ((s.gr a).toNat % 128 = 0 → s.owes allPaths = true → ∃ t, exec (.glaunch a d) s = .next t ∧ t.hart.pc = s.hart.pc ∧ t.hart.wait = .order ∧ GSame s t ∧ OnlyScalar s t)
  ∧ ((s.gr a).toNat % 128 ≠ 0 → Traps (.glaunch a d) s 0x04 (s.gr a) 0)

/-- R254, R184: what `glaunch` does, and which record is given which launch code. -/
def Obligations.Launch : Prop := Claims.LaunchRuns ∧ Claims.LaunchCodes

/-- R188, R189, R119: `gexit` of a hart with no bound window ends it: its matrix unit is free, its streams are gone; the last live hart of a gang ends the gang. -/
def Claims.GangExit : Prop := ∀ (s : State) (g : Gang), s.hart.bound = [] → s.gangOf s.hart.gang = some g →
  (∃ t, exec .gexit s = .next t ∧ t.hart.status = .ended ∧ t.hart.strs = List.replicate 8 none ∧ (∀ u ∈ t.mxs, u.holder ≠ some s.hart.id ∧ s.hart.id ∉ u.queue)
    ∧ t.hart.id = s.hart.id ∧ t.parked.length = s.parked.length)
  ∧ (g.record.done = 0 → s.owesCommands g.id none allPaths = false → (∀ h ∈ s.parked, h.gang = g.id → h.live = false) →
    ∃ t, exec .gexit s = .next t ∧ GangOver t g 0 ∧ ∀ k, FrameFree s g.id k → t.byteAt k = s.byteAt k)

/-- R190, R256: `gbar` first acts as a `fence.x` from all paths to LS, and waits at its address until every earlier access of its hart has been performed. Then it counts the hart's
arrival once. It completes once every other live hart of the gang has arrived, and else waits at its address; a hart that has arrived there, and comes to it again, is not counted
again. -/
def Claims.GangBarrier : Prop := ∀ (s : State) (g : Gang), s.gangOf s.hart.gang = some g → s.hart.live = true → s.hart.barrier = g.barriers →
  let others (P : Hart → Prop) : Prop := ∀ h ∈ s.parked, h.live = true → h.gang = g.id → P h
  let s0 := s.orderPaths s.hart.id s.outstanding allPaths [pathLS]
  let rest (t : State) : State :=
    { t with hart := { t.hart with pc := s.hart.pc, wait := s.hart.wait, barrier := s.hart.barrier, arrived := s.hart.arrived }, gangs := s.gangs, wr := s.wr, groups := s.groups }
  (s.owes allPaths = false → s.hart.arrived ≠ some s.hart.pc →
    (others (fun h => g.barriers < h.barrier) → ∃ t, exec .gbar s = .next t ∧ PastBy s t 4 ∧ t.hart.barrier = g.barriers + 1 ∧ t.hart.arrived = none
      ∧ t.gangOf g.id = some { g with barriers := g.barriers + 1 } ∧ rest t = s0)
    ∧ (¬ others (fun h => g.barriers < h.barrier) → ∃ t, exec .gbar s = .next t ∧ t.hart.pc = s.hart.pc ∧ t.hart.wait = .gbar
      ∧ t.hart.barrier = g.barriers + 1 ∧ t.hart.arrived = some s.hart.pc ∧ t.gangs = s.gangs ∧ rest t = s0))
  ∧ (s.owes allPaths = false → s.hart.arrived = some s.hart.pc → ∃ t, exec .gbar s = .next t ∧ t.hart.barrier = g.barriers ∧ t.gangs = s.gangs)
  ∧ (s.owes allPaths = true → ∃ t, exec .gbar s = .next t ∧ t.hart.pc = s.hart.pc ∧ t.hart.wait = .order ∧ GSame s t ∧ OnlyScalar s t)

/-- R188, R190, R255, R256: a hart that ends, and the barrier of a gang. How a waiting `gbar` is kept is the model's choice (log entry 52). -/
def Obligations.GangEndAndBarrier : Prop := Claims.GangExit ∧ Claims.GangBarrier


/-! Vector instructions. -/

/-- R259, R260, R261, R272: every two-source arithmetic instruction, vector with vector and vector with scalar, completes where its operands are as R261 asks, and changes
nothing but its destination group (with the scale register of a BX group), the flags and the mask register that OVFM names. -/
def Claims.VectorBinary : Prop := ∀ (s : State) (cv mk : Bool) (a b d : Fld6) (g : GReg),
  let vv (ints floats : Bool) (i : Instr) : Prop := Ready i s → s.hart.binaryOk ints floats false d a b = true → VecDone i s
  let vx (ints floats : Bool) (i : Instr) : Prop := Ready i s → s.hart.unaryOk ints floats false d a = true → VecDone i s
  vv true true (.vaddVv cv mk b a d) ∧ vx true true (.vaddVx cv mk g a d) ∧ vv true true (.vsubVv cv mk b a d) ∧ vx true true (.vsubVx cv mk g a d)
  ∧ vv true true (.vmulVv cv mk b a d) ∧ vx true true (.vmulVx cv mk g a d) ∧ vv true true (.vminVv cv mk b a d) ∧ vx true true (.vminVx cv mk g a d)
  ∧ vv true true (.vmaxVv cv mk b a d) ∧ vx true true (.vmaxVx cv mk g a d) ∧ vv true true (.vandVv cv mk b a d) ∧ vx true true (.vandVx cv mk g a d)
  ∧ vv true true (.vorVv cv mk b a d) ∧ vx true true (.vorVx cv mk g a d) ∧ vv true true (.vxorVv cv mk b a d) ∧ vx true true (.vxorVx cv mk g a d)
  ∧ vv true true (.vdivVv cv mk b a d) ∧ vx true true (.vdivVx cv mk g a d) ∧ vv true false (.vsllVv cv mk b a d) ∧ vx true false (.vsllVx cv mk g a d)
  ∧ vv true false (.vsrlVv cv mk b a d) ∧ vx true false (.vsrlVx cv mk g a d) ∧ vv true false (.vsraVv cv mk b a d) ∧ vx true false (.vsraVx cv mk g a d)
  ∧ vv true false (.vmulhVv cv mk b a d) ∧ vx true false (.vmulhVx cv mk g a d) ∧ vv true false (.vsaddVv cv mk b a d) ∧ vx true false (.vsaddVx cv mk g a d)
  ∧ vv true false (.vssubVv cv mk b a d) ∧ vx true false (.vssubVx cv mk g a d) ∧ vv true false (.vavgVv cv mk b a d) ∧ vx true false (.vavgVx cv mk g a d)

/-- R259, R261, R276, R277, R278: the FMA family, the one-source instructions, vmov and vsplat complete where their operands are as R261 asks, and change nothing else. -/
def Claims.VectorUnary : Prop := ∀ (s : State) (cv mk : Bool) (a b x d : Fld6) (g : GReg),
  let fma (i : Instr) : Prop := Ready i s → s.hart.fmaOk d a b = true → VecDone i s
  let un (ints : Bool) (i : Instr) : Prop := Ready i s → s.hart.unaryOk ints true false d b = true → VecDone i s
  fma (.vfma cv mk b a d) ∧ fma (.vfms cv mk b a d) ∧ fma (.vfnma cv mk b a d) ∧ un false (.vsqrt cv mk b x d) ∧ un false (.vrcp cv mk b x d)
  ∧ un false (.vrsq cv mk b x d) ∧ un false (.vexp cv mk b x d) ∧ un false (.vlog2 cv mk b x d) ∧ un true (.vabs cv mk b x d) ∧ un true (.vneg cv mk b x d)
  ∧ un true (.vnot cv mk b x d) ∧ (Ready (.vmov cv mk b x d) s → s.hart.moveOk d b = true → VecDone (.vmov cv mk b x d) s)
  ∧ (Ready (.vsplat cv mk g d) s → s.hart.splatOk d = true → VecDone (.vsplat cv mk g d) s)

/-- R17, R18, R297: the compact forms, whose second source is the last vector destination, complete as their long forms do; the instruction is 2 bytes long. -/
def Claims.CompactForms : Prop := ∀ (s : State) (b : GReg) (d : Fld6),
  let last : Fld6 := BitVec.ofNat 6 s.hart.lastDest
  let src : Fld6 := b.setWidth 6
  let two (floats : Bool) (i : Instr) : Prop := Ready i s → s.hart.binaryOk true floats false d last src = true → VecDone i s
  let one (i : Instr) : Prop := Ready i s → s.hart.unaryOk true true false d src = true → VecDone i s
  two true (.cVadd b d) ∧ two true (.cVsub b d) ∧ two true (.cVmul b d) ∧ two true (.cVmin b d) ∧ two true (.cVmax b d) ∧ two true (.cVand b d) ∧ two true (.cVor b d)
  ∧ two true (.cVxor b d) ∧ two false (.cVsadd b d) ∧ two false (.cVssub b d) ∧ two false (.cVavg b d)
  ∧ (Ready (.cVfma b d) s → s.hart.fmaOk d last src = true → VecDone (.cVfma b d) s) ∧ (Ready (.cVmov b d) s → s.hart.moveOk d src = true → VecDone (.cVmov b d) s)
  ∧ one (.cVabs b d) ∧ one (.cVneg b d)

/-- R272, R273, R275, R276, R277, R227: the elements of float arithmetic where source and destination carry one float tag and FRM.MODE is not SR. The exact result of each
active element is rounded once under FRM; abs and neg change the sign bit of the code alone. Three values here are the model's: an exact zero sum of unlike signs is -0 under RDN
(log entry 28, PRESUMED); a root or reciprocal root is rounded by its floor and a mark for the rest (log entry 29, DEDUCED), and exp2 and log2 by about 200 bits and a mark (log entry 30, DEDUCED). -/
def Claims.FloatElements : Prop := ∀ (s : State) (cv mk : Bool) (a b x d : Fld6) (g : GReg),
  let c := s.hart.csr
  let o := s.hart.vop d
  let t := s.hart.opTag o
  let u (j : Nat) : Val := t.decode c.ftz (s.codeOf (s.hart.vop a) t j)
  let k (j : Nat) : Nat := s.codeOf (s.hart.vop b) t j
  let v (j : Nat) : Val := t.decode c.ftz (k j)
  let w : Val := t.decode c.ftz ((s.gr g).toNat % 2 ^ t.bits)
  let rdn : Bool := c.mode == 2
  c.mode ≠ 5 → t.isFloat = true →
  let from' (src : Fld6) (i : Instr) (ok : Bool) (f : Nat → Nat) : Prop := s.hart.opTag (s.hart.vop src) = t → VecGives i s ok (fun r => ElemsAre s r o t mk f)
  let two (i : Instr) (f : Val → Val → Val) : Prop := from' a i (s.hart.binaryOk true true false d a b) (fun j => c.rounded t (f (u j) (v j)))
  let one (i : Instr) (f : Val → Val → Val) : Prop := from' a i (s.hart.unaryOk true true false d a) (fun j => c.rounded t (f (u j) w))
  let fma (i : Instr) (f : Val → Val → Val → Val) : Prop :=
    from' a i (s.hart.fmaOk d a b) (fun j => c.rounded t (f (u j) (v j) (t.decode c.ftz (s.codeOf o t j))))
  let un (i : Instr) (f : Val → Val) : Prop := from' b i (s.hart.unaryOk false true false d b) (fun j => c.rounded t (f (v j)))
  two (.vaddVv cv mk b a d) (fun p q => (p.add rdn q).1) ∧ one (.vaddVx cv mk g a d) (fun p q => (p.add rdn q).1)
  ∧ two (.vsubVv cv mk b a d) (fun p q => (p.add rdn q.neg).1) ∧ one (.vsubVx cv mk g a d) (fun p q => (p.add rdn q.neg).1)
  ∧ two (.vmulVv cv mk b a d) (fun p q => (p.mul q).1) ∧ one (.vmulVx cv mk g a d) (fun p q => (p.mul q).1)
  ∧ two (.vdivVv cv mk b a d) (fun p q => (p.div q).1) ∧ one (.vdivVx cv mk g a d) (fun p q => (p.div q).1)
  ∧ two (.vminVv cv mk b a d) (fun p q => (valMin p q).1) ∧ one (.vminVx cv mk g a d) (fun p q => (valMin p q).1)
  ∧ two (.vmaxVv cv mk b a d) (fun p q => (valMax p q).1) ∧ one (.vmaxVx cv mk g a d) (fun p q => (valMax p q).1)
  ∧ fma (.vfma cv mk b a d) (fun p q r => (Val.fma rdn p q r).1) ∧ fma (.vfms cv mk b a d) (fun p q r => (Val.fma rdn p q r.neg).1)
  ∧ fma (.vfnma cv mk b a d) (fun p q r => (Val.fma rdn p.neg q r).1)
  ∧ un (.vsqrt cv mk b x d) (fun q => q.sqrt.1) ∧ un (.vrcp cv mk b x d) (fun q => (Val.div (.num false 1 0 false) q).1) ∧ un (.vrsq cv mk b x d) (fun q => q.rsqrt.1)
  ∧ un (.vexp cv mk b x d) (fun q => q.exp2.1) ∧ un (.vlog2 cv mk b x d) (fun q => q.log2.1)
  ∧ from' b (.vabs cv mk b x d) (s.hart.unaryOk true true false d b) (fun j => k j % 2 ^ (t.bits - 1))
  ∧ from' b (.vneg cv mk b x d) (s.hart.unaryOk true true false d b) (fun j => k j ^^^ 2 ^ (t.bits - 1))

/-- R272, R273, R275, R276, R277, R278: the elements of the integer forms that O59 leaves: shifts by the low bits of their second operand, the high product, saturating and
averaging sums, the quotient with all ones for a zero divisor, the FMA family, one source, and a scalar in every element. -/
def Claims.IntegerForms : Prop := ∀ (s : State) (cv mk : Bool) (a b x d : Fld6) (g : GReg),
  let o := s.hart.vop d
  let t := s.hart.opTag o
  let u (j : Nat) : Nat := s.codeOf (s.hart.vop a) t j
  let v (j : Nat) : Nat := s.codeOf (s.hart.vop b) t j
  let p (j : Nat) : Int := t.intOf (u j)
  let q (j : Nat) : Int := t.intOf (v j)
  let r (j : Nat) : Int := t.intOf (s.codeOf o t j)
  t.isInt = true →
  let from' (src : Fld6) (i : Instr) (ok : Bool) (f : Nat → Nat) : Prop := s.hart.opTag (s.hart.vop src) = t → VecGives i s ok (fun r => ElemsAre s r o t mk f)
  let two (i : Instr) (floats : Bool) (f : Nat → Nat) : Prop := from' a i (s.hart.binaryOk true floats false d a b) f
  let fma (i : Instr) (f : Nat → Int) : Prop := from' a i (s.hart.fmaOk d a b) (fun j => t.wrapped (f j))
  let un (i : Instr) (f : Nat → Nat) : Prop := from' b i (s.hart.unaryOk true true false d b) f
  two (.vsllVv cv mk b a d) false (fun j => t.wrapped (p j * 2 ^ (v j % t.bits))) ∧ two (.vsrlVv cv mk b a d) false (fun j => u j / 2 ^ (v j % t.bits))
  ∧ two (.vsraVv cv mk b a d) false (fun j => t.wrapped ((BitVec.ofNat t.bits (u j)).toInt / 2 ^ (v j % t.bits)))
  ∧ two (.vmulhVv cv mk b a d) false (fun j => t.wrapped (p j * q j / 2 ^ t.bits))
  ∧ two (.vsaddVv cv mk b a d) false (fun j => t.clamped (p j + q j)) ∧ two (.vssubVv cv mk b a d) false (fun j => t.clamped (p j - q j))
  ∧ two (.vavgVv cv mk b a d) false (fun j => t.wrapped (xround s.hart.csr.xrm (p j + q j) 1))
  ∧ two (.vdivVv cv mk b a d) true (fun j => if q j = 0 then 2 ^ t.bits - 1 else t.wrapped ((p j).tdiv (q j)))
  ∧ fma (.vfma cv mk b a d) (fun j => p j * q j + r j) ∧ fma (.vfms cv mk b a d) (fun j => p j * q j - r j) ∧ fma (.vfnma cv mk b a d) (fun j => r j - p j * q j)
  ∧ un (.vabs cv mk b x d) (fun j => t.wrapped (q j).natAbs) ∧ un (.vneg cv mk b x d) (fun j => t.wrapped (-q j)) ∧ un (.vnot cv mk b x d) (fun j => 2 ^ t.bits - 1 - v j)
  ∧ from' b (.vmov cv mk b x d) (s.hart.moveOk d b) v ∧ VecGives (.vsplat cv mk g d) s (s.hart.splatOk d) (fun w => ElemsAre s w o t mk (fun _ => (s.gr g).toNat % 2 ^ t.bits))

/-- R259, R260, R261, R272 to R278: element arithmetic in every form completes and changes nothing but what it names; the elements of float forms are the exact results
rounded once, and those of integer forms the results of R272 to R278. The zero of an exact sum, the roots, exp2 and log2 are as log entries 28, 29 and 30 say. -/
def Obligations.VectorArithmetic : Prop := Claims.VectorBinary ∧ Claims.VectorUnary ∧ Claims.CompactForms ∧ Claims.FloatElements ∧ Claims.IntegerForms


/-- R259, R261, R279, R280, R301: the compares, hard and soft, complete where their operands are as R261 asks, and change nothing but their mask register and the flags. -/
def Claims.Compares : Prop := ∀ (s : State) (cv mk : Bool) (a b d : Fld6) (g : GReg),
  let two (i : Instr) : Prop := Ready i s → s.hart.compareOk a b = true → VecDone i s
  let one (i : Instr) : Prop := Ready i s → s.hart.compareXOk a = true → VecDone i s
  two (.vcmpEqVv cv mk b a d) ∧ one (.vcmpEqVx cv mk g a d) ∧ two (.vcmpNeVv cv mk b a d) ∧ one (.vcmpNeVx cv mk g a d)
  ∧ two (.vcmpLtVv cv mk b a d) ∧ one (.vcmpLtVx cv mk g a d) ∧ two (.vcmpLeVv cv mk b a d) ∧ one (.vcmpLeVx cv mk g a d)
  ∧ two (.vcmpGtVv cv mk b a d) ∧ one (.vcmpGtVx cv mk g a d) ∧ two (.vcmpGeVv cv mk b a d) ∧ one (.vcmpGeVx cv mk g a d) ∧ two (.vscmpLt cv mk b a d)
  ∧ two (.vscmpLe cv mk b a d) ∧ two (.vscmpGt cv mk b a d) ∧ two (.vscmpGe cv mk b a d)

/-- R259, R261, R281, R282, R283: the fixed-point forms complete where their operands are as R283 asks; a wide operand is a group of twice the registers. -/
def Claims.FixedPoint : Prop := ∀ (s : State) (cv mk : Bool) (a b d : Fld6) (g : GReg),
  (Ready (.vwmacVv cv mk b a d) s → s.hart.widenVVOk d a b = true → VecDone (.vwmacVv cv mk b a d) s)
  ∧ (Ready (.vsad cv mk b a d) s → s.hart.widenVVOk d a b = true → VecDone (.vsad cv mk b a d) s)
  ∧ (Ready (.vwmacVx cv mk g a d) s → s.hart.widenVXOk d a = true → VecDone (.vwmacVx cv mk g a d) s)
  ∧ (Ready (.vnshr cv mk g a d) s → s.hart.narrowOk d a g = true → VecDone (.vnshr cv mk g a d) s)
  ∧ (Ready (.vclip cv mk g a d) s → s.hart.clipOk d a g = true → VecDone (.vclip cv mk g a d) s)

/-- R279, R280, R301: what a compare writes: 0x8000 where the relation holds and 0 where not, a NaN failing every relation but ne. A soft compare writes 0 for a NaN, is hard
where TEMP is zero, and writes 0x4000 for equal operands or an infinite TEMP; for other operands it is the logistic function of their difference over TEMP, which the model computes to about 200 bits and rounds once (log entry 30, DEDUCED). -/
def Claims.CompareElements : Prop := ∀ (s : State) (cv mk : Bool) (a b d : Fld6) (g : GReg),
  let c := s.hart.csr
  let t := s.hart.opTag (s.hart.vop a)
  let u (j : Nat) : Nat := s.codeOf (s.hart.vop a) t j
  let v (j : Nat) : Nat := s.codeOf (s.hart.vop b) t j
  let val (n : Nat) : Val := t.decode c.ftz n
  let bad (m n : Nat) : Prop := t.isInt = false ∧ ((val m).isNan = true ∨ (val n).isNan = true)
  let diff (m n : Nat) : Int := if t.isInt then t.intOf m - t.intOf n else Val.cmp (val m) (val n)
  let hard (ne : Bool) (rel : Int → Prop) (m n k : Nat) : Prop :=
    (bad m n → k = if ne then 0x8000 else 0) ∧ (¬ bad m n → (rel (diff m n) → k = 0x8000) ∧ (¬ rel (diff m n) → k = 0))
  let masks (i : Instr) (ok : Bool) (n : Nat → Nat) (P : Nat → Nat → Nat → Prop) : Prop :=
    VecGives i s ok (fun r => ∃ f, MasksAre s r d.toNat mk f ∧ ∀ j, P (u j) (n j) (f j))
  let two (i : Instr) (ne : Bool) (rel : Int → Prop) : Prop := masks i (s.hart.compareOk a b) v (hard ne rel)
  let one (i : Instr) (ne : Bool) (rel : Int → Prop) : Prop := masks i (s.hart.compareXOk a) (fun _ => (s.gr g).toNat % 2 ^ t.bits) (hard ne rel)
  let soft (i : Instr) (less : Bool) (rel : Int → Bool) : Prop := masks i (s.hart.compareOk a b) v (fun m n k =>
    ((val m).isNan = true ∨ (val n).isNan = true → k = 0) ∧ ((val m).isNan = false → (val n).isNan = false →
      if c.tempVal.isZero then k = (if rel (Val.cmp (val m) (val n)) then 0x8000 else 0)
      else if Val.cmp (val m) (val n) = 0 ∨ c.tempVal.isInf then k = 0x4000
      else k = softCode rel less c.tempVal (val m) (val n)))
  two (.vcmpEqVv cv mk b a d) false (· = 0) ∧ one (.vcmpEqVx cv mk g a d) false (· = 0) ∧ two (.vcmpNeVv cv mk b a d) true (· ≠ 0) ∧ one (.vcmpNeVx cv mk g a d) true (· ≠ 0)
  ∧ two (.vcmpLtVv cv mk b a d) false (· < 0) ∧ one (.vcmpLtVx cv mk g a d) false (· < 0) ∧ two (.vcmpLeVv cv mk b a d) false (· ≤ 0) ∧ one (.vcmpLeVx cv mk g a d) false (· ≤ 0)
  ∧ two (.vcmpGtVv cv mk b a d) false (0 < ·) ∧ one (.vcmpGtVx cv mk g a d) false (0 < ·) ∧ two (.vcmpGeVv cv mk b a d) false (0 ≤ ·) ∧ one (.vcmpGeVx cv mk g a d) false (0 ≤ ·)
  ∧ soft (.vscmpLt cv mk b a d) true (fun z => decide (z < 0)) ∧ soft (.vscmpLe cv mk b a d) true (fun z => decide (z ≤ 0))
  ∧ soft (.vscmpGt cv mk b a d) false (fun z => decide (0 < z)) ∧ soft (.vscmpGe cv mk b a d) false (fun z => decide (0 ≤ z))

/-- R281, R282, R283: the elements of the fixed-point forms: wide sums clamped to the wide tag, a wide element divided under XRM and clamped to the narrow one, and a clip
between the two halves of a scalar register. -/
def Claims.FixedPointElements : Prop := ∀ (s : State) (cv mk : Bool) (a b d : Fld6) (g : GReg),
  let t := s.hart.opTag (s.hart.vop a)
  let u (j : Nat) : Int := t.intOf (s.codeOf (s.hart.vop a) t j)
  let v (j : Nat) : Int := t.intOf (s.codeOf (s.hart.vop b) t j)
  let o := s.hart.vop d
  let x := s.hart.opTag o
  let w := s.hart.vop d 2
  let y := s.hart.opTag w
  let n := s.hart.vop a 2
  let half (k : Nat) : Int := if t.signed then (BitVec.ofNat 32 k).toInt else (k % 2 ^ 32 : Nat)
  let into (i : Instr) (ok : Bool) (e : VOp) (z : Tag) (f : Nat → Int) : Prop := VecGives i s ok (fun r => ElemsAre s r e z mk (fun j => z.clamped (f j)))
  into (.vwmacVv cv mk b a d) (s.hart.widenVVOk d a b) w y (fun j => y.intOf (s.codeOf w y j) + u j * v j)
  ∧ into (.vwmacVx cv mk g a d) (s.hart.widenVXOk d a) w y (fun j => y.intOf (s.codeOf w y j) + u j * t.intOf (s.gr g).toNat)
  ∧ into (.vsad cv mk b a d) (s.hart.widenVVOk d a b) w y (fun j => y.intOf (s.codeOf w y j) + (u j - v j).natAbs)
  ∧ into (.vnshr cv mk g a d) (s.hart.narrowOk d a g) o x
      (fun j => xround s.hart.csr.xrm ((s.hart.opTag n).intOf (s.codeOf n (s.hart.opTag n) j)) ((s.gr g).toNat % 64))
  ∧ (x = t → into (.vclip cv mk g a d) (s.hart.clipOk d a g) o x (fun j => min (max (u j) (half (s.gr g).toNat)) (half ((s.gr g).toNat / 2 ^ 32))))

/-- R259, R279, R280, R281, R282, R283, R301: compares and fixed-point forms complete and change nothing but what they name, and their elements are as their rules say; the
logistic function of a soft compare is that of log entry 30 (DEDUCED). -/
def Obligations.ComparesAndFixedPoint : Prop := Claims.Compares ∧ Claims.FixedPoint ∧ Claims.CompareElements ∧ Claims.FixedPointElements


/-- R259, R261, R284, R285, R286: reductions and scans complete where their operands are as R261 asks (the destination meets no source), and change nothing else. -/
def Claims.Reductions : Prop := ∀ (s : State) (cv mk : Bool) (a b d : Fld6),
  let red (floats : Bool) (i : Instr) : Prop := Ready i s → s.hart.unaryOk true floats true d a = true → VecDone i s
  red true (.vredSum cv mk a d) ∧ red true (.vredMax cv mk a d) ∧ red true (.vredMin cv mk a d) ∧ red false (.vredAnd cv mk a d) ∧ red false (.vredOr cv mk a d)
  ∧ red true (.vscanAdd cv mk a d) ∧ red true (.vscanMax cv mk a d) ∧ red true (.vscanMin cv mk a d)
  ∧ (Ready (.vredoSum cv mk b a d) s → s.hart.binaryOk true true true d a b = true → VecDone (.vredoSum cv mk b a d) s)

/-- R259, R288, R289, R290, R291, R292, R293, R294, R295: the permutes complete where their operands are as R288 asks, and change nothing else. -/
def Claims.Permutes : Prop := ∀ (s : State) (cv mk : Bool) (a b d : Fld6) (g r : GReg),
  let copy (i : Instr) : Prop := Ready i s → s.hart.copyOk d a = true → VecDone i s
  let number (i : Instr) : Prop := Ready i s → s.hart.numberOk d = true → VecDone i s
  (Ready (.vrgather cv mk b a d) s → s.hart.gatherOk d a b = true → VecDone (.vrgather cv mk b a d) s) ∧ copy (.vslideup cv mk g a d) ∧ copy (.vslidedn cv mk g a d)
  ∧ copy (.vcompress cv b a d) ∧ copy (.vexpand cv b a d) ∧ (Ready (.vmergeM cv b a d) s → s.hart.mergeOk d a b = true → VecDone (.vmergeM cv b a d) s)
  ∧ (Ready (.vtrans8 cv d) s → s.hart.trans8Ok d = true → VecDone (.vtrans8 cv d) s) ∧ number (.vid cv mk d)
  ∧ (Ready (.viota cv mk a d) s → s.hart.iotaOk d a = true → VecDone (.viota cv mk a d) s)
  ∧ (Ready (.vins cv g r d) s → s.hart.pickOk d = true → VecDone (.vins cv g r d) s)

/-- R284, R285, R286: integer reductions under one tag write element 0, whatever its mask, with the sum, the extremes, the conjunction or the disjunction of the active
elements; element 1 and above are the tail. An integer scan gives each active element the result over the active elements up to it. -/
def Claims.ReductionElements : Prop := ∀ (s : State) (cv mk : Bool) (a b d : Fld6),
  let o := s.hart.vop d
  let t := s.hart.opTag o
  let u (j : Nat) : Nat := s.codeOf (s.hart.vop a) t j
  let p (n : Nat) : List Int := (s.actives mk n).map (fun j => t.intOf (u j))
  let all := s.actives mk s.hart.csr.vlN
  s.hart.opTag (s.hart.vop a) = t → t.isInt = true →
  let ok (floats : Bool) : Bool := s.hart.unaryOk true floats true d a
  let red (i : Instr) (ok : Bool) (z : Nat) : Prop := VecGives i s ok (fun r =>
    ∀ i, i < s.hart.opCount o t → r.codeOf o t i = if i = 0 then z else if s.hart.csr.tz then 0 else s.codeOf o t i)
  let scan (i : Instr) (f : List Int → Int) : Prop := VecGives i s (ok true) (fun r => ElemsAre s r o t mk (fun j => t.wrapped (f (p (j + 1)))))
  let high (l : List Int) : Int := l.foldl max t.minInt
  let low (l : List Int) : Int := l.foldl min t.maxInt
  red (.vredSum cv mk a d) (ok true) (t.wrapped (p s.hart.csr.vlN).sum) ∧ red (.vredMax cv mk a d) (ok true) (t.wrapped (high (p s.hart.csr.vlN)))
  ∧ red (.vredMin cv mk a d) (ok true) (t.wrapped (low (p s.hart.csr.vlN)))
  ∧ red (.vredAnd cv mk a d) (ok false) (all.foldl (fun z j => z &&& u j) (2 ^ t.bits - 1)) ∧ red (.vredOr cv mk a d) (ok false) (all.foldl (fun z j => z ||| u j) 0)
  ∧ red (.vredoSum cv mk b a d) (s.hart.binaryOk true true true d a b) (t.wrapped (t.intOf (s.codeOf (s.hart.vop b) t 0) + (p s.hart.csr.vlN).sum))
  ∧ scan (.vscanAdd cv mk a d) List.sum ∧ scan (.vscanMax cv mk a d) high ∧ scan (.vscanMin cv mk a d) low

/-- R288 to R295: what the permutes write: an element picked by an index below VL and 0 for others; elements moved up or down; the elements whose mask is active, packed, and
spread again; each of two elements by its mask; squares of up to 8 by 8 elements transposed; an element's own number and the number of active mask elements below it, clamped
to the destination's tag; and the one element that a scalar register names. -/
def Claims.PermuteElements : Prop := ∀ (s : State) (cv mk : Bool) (a b d : Fld6) (g r : GReg),
  let h := s.hart
  let vl := h.csr.vlN
  let lo := h.csr.estart.toNat
  let o := h.vop d
  let t := h.opTag o
  let u (j : Nat) : Nat := s.codeOf (h.vop a) t j
  let v (j : Nat) : Nat := s.codeOf (h.vop b) (h.opTag (h.vop b)) j
  let k := (s.gr g).toNat
  let on (j : Nat) : Bool := decide (0x4000 ≤ s.maskOf b.toNat j)
  let rest (i : Nat) : Nat := if h.csr.tz then 0 else s.codeOf o t i
  let elems (P : State → Nat → Prop) (w : State) : Prop := ∀ i, i < h.opCount o t → P w i
  VecGives (.vrgather cv mk b a d) s (h.gatherOk d a b) (fun w => ElemsAre s w o t mk (fun j => if v j < vl then u (v j) else 0))
  ∧ VecGives (.vslidedn cv mk g a d) s (h.copyOk d a) (fun w => ElemsAre s w o t mk (fun j => if j + k < vl then u (j + k) else 0))
  ∧ VecGives (.vslideup cv mk g a d) s (h.copyOk d a) (elems fun w i => w.codeOf o t i =
      if vl ≤ i then rest i else if i < lo ∨ i < k then s.codeOf o t i else if s.active mk i then u (i - k) else if h.csr.mz then 0 else s.codeOf o t i)
  ∧ (lo ≤ vl → VecGives (.vcompress cv b a d) s (h.copyOk d a && h.maskOk) (elems fun w i =>
      (∀ j, lo ≤ j → j < vl → on j = true → s.maskCount b.toNat j = i → w.codeOf o t i = u j)
      ∧ (s.maskCount b.toNat vl ≤ i → w.codeOf o t i = rest i) ∧ (i < s.maskCount b.toNat lo → w.codeOf o t i = s.codeOf o t i)))
  ∧ VecGives (.vexpand cv b a d) s (h.copyOk d a && h.maskOk) (elems fun w i => w.codeOf o t i =
      if vl ≤ i then rest i else if i < lo then s.codeOf o t i else if on i then u (s.maskCount b.toNat i) else if h.csr.mz then 0 else s.codeOf o t i)
  ∧ (h.opTag (h.vop a) = t → t.isBx = false → VecGives (.vmergeM cv b a d) s (h.mergeOk d a b) (fun w => ElemsAre s w o t false (fun j => if s.active true j then u j else v j)))
  ∧ (let x := (h.vreg d.toNat).tag
     VecGives (.vtrans8 cv d) s (h.trans8Ok d) (fun w => ∀ n i j, lo / 8 ≤ n → lo < vl → i < 8 → j < 8 → 8 * n + i < vl → 8 * n + j < vl →
       w.codeOf (.reg (d.toNat + j) 1) x (8 * n + i) = s.codeOf (.reg (d.toNat + i) 1) x (8 * n + j)))
  ∧ (t.isInt = true → VecGives (.vid cv mk d) s (h.numberOk d) (fun w => ElemsAre s w o t mk (fun j => (min (j : Int) t.maxInt).toNat))
      ∧ VecGives (.viota cv mk a d) s (h.iotaOk d a) (fun w => ElemsAre s w o t mk
          (fun j => (min (((s.actives mk j).filter (fun i => decide (0x4000 ≤ s.maskOf a.toNat i))).length : Int) t.maxInt).toNat)))
  ∧ VecGives (.vins cv g r d) s (h.pickOk d) (elems fun w i => w.codeOf o t i = if i = (s.gr r).toNat then k % 2 ^ t.bits else s.codeOf o t i)

/-- R298, R304 to R311: what the probability instructions write, by the fractions P and Q of their mask elements: the combinations of independent and of fully dependent
events, the complement, the threshold at a half; a blend of two elements, exact at its ends; a collapse that is certain at 0 and 1; gradients; and moves between masks and P16.
That an exact zero sum of unlike signs in a blend or its gradient is -0 under RDN is log entry 28 (PRESUMED). -/
def Claims.ProbabilityElements : Prop := ∀ (s : State) (cv mk : Bool) (a b x d : Fld6),
  let h := s.hart
  let c := h.csr
  let frac (m : Fld6) (j : Nat) : Nat := min (s.maskOf m.toNat j) 0x8000
  let near (n : Nat) : Nat := n / 0x8000 + (if 0x4000 < n % 0x8000 ∨ (n % 0x8000 = 0x4000 ∧ n / 0x8000 % 2 = 1) then 1 else 0)
  let two (i : Instr) (f : Nat → Nat → Nat) : Prop := VecGives i s h.maskOk (fun w => MasksAre s w d.toNat mk (fun j => f (frac a j) (frac b j)))
  let o := h.vop d
  let t := h.opTag o
  let u (j : Nat) : Nat := s.codeOf (h.vop a) t j
  let v (j : Nat) : Nat := s.codeOf (h.vop b) t j
  let val (n : Nat) : Val := t.decode c.ftz n
  let part (n : Nat) : Val := .num false n (-15) false
  let same : Prop := h.opTag (h.vop a) = t
  let grad (i : Instr) (f : Nat → Nat) : Prop := VecGives i s (h.gradOk d) (fun w => ElemsAre s w o t mk f)
  two (.pandInd cv mk b a d) (fun p q => near (p * q)) ∧ two (.pandPos cv mk b a d) min ∧ two (.pandNeg cv mk b a d) (fun p q => p + q - 0x8000)
  ∧ two (.porInd cv mk b a d) (fun p q => near ((p + q) * 0x8000 - p * q)) ∧ two (.porPos cv mk b a d) max ∧ two (.porNeg cv mk b a d) (fun p q => min 0x8000 (p + q))
  ∧ two (.pnot cv mk b x d) (fun _ q => 0x8000 - q) ∧ two (.pthr cv mk a d) (fun p _ => if 0x4000 ≤ p then 0x8000 else 0)
  ∧ VecGives (.pcoll cv mk a d) s h.maskOk (fun w => ∃ f, MasksAre s w d.toNat mk f
      ∧ ∀ j, (f j = 0 ∨ f j = 0x8000) ∧ (frac a j = 0 → f j = 0) ∧ (frac a j = 0x8000 → f j = 0x8000))
  ∧ (same → VecGives (.pblendM cv b a d) s (h.blendOk d a b && h.maskOk) (fun w => ∃ f, ElemsAre s w o t false f
      ∧ ∀ j, (frac 0 j = 0x8000 → f j = u j) ∧ (frac 0 j = 0 → f j = v j) ∧ (t = .f32 → c.mode ≠ 5 → 0 < frac 0 j → frac 0 j < 0x8000 →
        f j = c.rounded t (((part (frac 0 j)).mul (val (u j))).1.add (c.mode == 2) ((part (0x8000 - frac 0 j)).mul (val (v j))).1).1)))
  ∧ (same → (t.isInt = true ∨ c.mode ≠ 5) → VecGives (.pbgrad cv mk b a d) s (h.blendOk d a b) (fun w => ElemsAre s w o t mk
      (fun j => if t.isInt then t.wrapped (t.intOf (u j) - t.intOf (v j)) else c.rounded t ((val (u j)).add (c.mode == 2) (val (v j)).neg).1)))
  ∧ (c.mode ≠ 5 → grad (.pgrad cv mk a d) (fun j => if c.tempVal.isZero ∨ c.tempVal.isInf then 0
      else c.rounded t ((Val.num false (frac a j * (0x8000 - frac a j)) (-30) false).div c.tempVal).1))
  ∧ grad (.pgradSt cv mk a d) (fun _ => if t = .f16 then 0x3C00 else if t = .bf16 then 0x3F80 else if t = .f32 then 0x3F800000 else 0x3FF0000000000000)
  ∧ (t = .p16 → VecGives (.pmovV cv mk a d) s (h.pmovOk d) (fun w => ElemsAre s w o t mk (frac a)))
  ∧ (let A := h.vop a
     h.opTag A = .p16 → VecGives (.pmovM cv mk a d) s (h.pmovOk a) (fun w => MasksAre s w d.toNat mk (fun j => min (s.codeOf A .p16 j) 0x8000)))

/-- R259, R298, R304, R305, R306, R307, R308, R309, R310, R311: the probability instructions complete where their operands are as their rules ask, and change nothing but
their destination, the flags and the mask register that OVFM names. -/
def Claims.ProbabilityForms : Prop := ∀ (s : State) (cv mk : Bool) (a b x d : Fld6),
  let mask (i : Instr) : Prop := Ready i s → VecDone i s
  mask (.pandInd cv mk b a d) ∧ mask (.pandPos cv mk b a d) ∧ mask (.pandNeg cv mk b a d) ∧ mask (.porInd cv mk b a d) ∧ mask (.porPos cv mk b a d)
  ∧ mask (.porNeg cv mk b a d) ∧ mask (.pnot cv mk b x d) ∧ mask (.pcoll cv mk a d) ∧ mask (.pthr cv mk a d)
  ∧ (Ready (.pblendM cv b a d) s → s.hart.blendOk d a b = true → VecDone (.pblendM cv b a d) s)
  ∧ (Ready (.pbgrad cv mk b a d) s → s.hart.blendOk d a b = true → VecDone (.pbgrad cv mk b a d) s)
  ∧ (Ready (.pgrad cv mk a d) s → s.hart.gradOk d = true → VecDone (.pgrad cv mk a d) s)
  ∧ (Ready (.pgradSt cv mk a d) s → s.hart.gradOk d = true → VecDone (.pgradSt cv mk a d) s)
  ∧ (Ready (.pmovV cv mk a d) s → s.hart.pmovOk d = true → VecDone (.pmovV cv mk a d) s)
  ∧ (Ready (.pmovM cv mk a d) s → s.hart.pmovOk a = true → VecDone (.pmovM cv mk a d) s)

/-- R259, R298, R304 to R311: the probability instructions complete, change nothing but what they name, and their elements are as their rules say, with the zero of log entry 28
(PRESUMED) in a blend's exact sum. -/
def Obligations.Probability : Prop := Claims.ProbabilityForms ∧ Claims.ProbabilityElements

/-! Vector configuration. -/

/-- R205, R265: `vcfg` with legal fields, storage within the Chamber partition and no bound window in its way places every register at its default position with the tag
FP32 and live length 0, and sets VL and SC to 0; the last vector destination is v0. -/
def Claims.RegisterPlacement : Prop := ∀ (s : State) (g : GReg),
  let v := s.gr g
  let h := s.hart
  let b := h.csr.chbase.toNat + vcfgRbase v
  h.inSpan = false → h.vcfgOk v = true → ∃ t, exec (.vcfg g) s = .next t ∧ PastBy s t 4 ∧ t.hart.lastDest = 0
    ∧ t.hart.csr = { h.csr with vcfg := v, vl := 0, sc := 0, ovfm := if h.csr.ovfm.toNat % 32 < vcfgNm v then h.csr.ovfm &&& 0x1F else 0x10 }
    ∧ (∀ n, n < vcfgNv v → t.hart.vreg n = { base := b + n * vcfgW v, tag := .f32, len := 0 })
    ∧ (∀ j, j < vcfgNm v → t.hart.mreg j = { base := b + vcfgVsz v + j * (2 * vcfgEm v), len := 0 })
    ∧ (∀ k, k < 4 → (t.hart.bypass k).tag = .f32 ∧ (t.hart.bypass k).written = false)
    ∧ { t with hart := { t.hart with pc := h.pc, wait := h.wait, csr := h.csr, vregs := h.vregs, mregs := h.mregs, byp := h.byp, lastDest := h.lastDest }, wr := s.wr, groups := s.groups } = s

/-- R266, R267: `vtag` sets the tag of a register or a bypass name; `vwin` moves the window of a vector or mask register to an aligned place in the Chamber partition that
meets no other register and no bound window, and its live length is 0. Nothing else changes but the last vector destination and ESTART. -/
def Claims.RegisterWindows : Prop := ∀ (s : State) (code : BitVec 5) (x : Tag) (d : Fld6) (g : GReg), s.hart.convoy = none → s.hart.span = none →
  let h := s.hart
  let rest (i : Instr) (last : Nat) (P : State → Prop) : Prop := ∃ t, exec i s = .next t ∧ PastBy s t 4 ∧ t.hart.lastDest = last ∧ t.hart.csr = { h.csr with estart := 0 } ∧ P t
    ∧ { t with hart := { t.hart with pc := h.pc, wait := h.wait, csr := h.csr, vregs := h.vregs, mregs := h.mregs, byp := h.byp, lastDest := h.lastDest }, wr := s.wr, groups := s.groups } = s
  let vsame (t : State) : Prop := ∀ n, n ≠ d.toNat → t.hart.vreg n = h.vreg n
  let msame (t : State) : Prop := ∀ j, j ≠ d.toNat → t.hart.mreg j = h.mreg j
  (tagOf code.toNat = some x → d.toNat < h.nv → d.toNat < h.vregs.length →
    rest (.vtag code d) d.toNat (fun t => t.hart.vreg d.toNat = { h.vreg d.toNat with tag := x } ∧ vsame t ∧ t.hart.mregs = h.mregs ∧ t.hart.byp = h.byp))
  ∧ (tagOf code.toNat = some x → h.nv ≤ 32 → 60 ≤ d.toNat → d.toNat - 60 < h.byp.length →
    rest (.vtag code d) d.toNat (fun t => t.hart.bypass (d.toNat - 60) = { h.bypass (d.toNat - 60) with tag := x } ∧ t.hart.vregs = h.vregs ∧ t.hart.mregs = h.mregs))
  ∧ (tagOf code.toNat = none → h.vfld d = true → Traps (.vtag code d) s 0x02 0 1)
  ∧ (d.toNat < h.nv → d.toNat < h.vregs.length → h.vwinOk (s.gr g) h.vw (h.vecRanges.eraseIdx d.toNat ++ h.maskRanges) = true →
    rest (.vwinV g d) d.toNat (fun t => t.hart.vreg d.toNat = { h.vreg d.toNat with base := (s.gr g).toNat, len := 0 } ∧ vsame t ∧ t.hart.mregs = h.mregs ∧ t.hart.byp = h.byp))
  ∧ (d.toNat < h.nm → d.toNat < h.mregs.length → h.vwinOk (s.gr g) (2 * h.em) (h.vecRanges ++ h.maskRanges.eraseIdx d.toNat) = true →
    rest (.vwinM g d) h.lastDest (fun t => t.hart.mreg d.toNat = { base := (s.gr g).toNat, len := 0 } ∧ msame t ∧ t.hart.vregs = h.vregs ∧ t.hart.byp = h.byp))

/-- R181, R206, R268, R269, R270: `vsetl` grants the request or MVL, whichever is smaller; `vloop` puts the count into SC and grants from it; `vnext` takes VL from SC and
branches with a new VL while SC is not 0; `vflat` does for the flattened length of a tensor what `vloop` does, and returns VL and the outer count. -/
def Claims.LoopControl : Prop := ∀ (s : State) (g d : GReg) (off : BitVec 17), s.hart.inSpan = false →
  let c := s.hart.csr
  let mvl := Nat.min 65536 (c.lmul * vcfgVsz c.vcfg * 8 / (vcfgNv c.vcfg * c.rw))
  let grant (v : W64) : W64 := BitVec.ofNat 64 (Nat.min v.toNat mvl)
  let left := if c.vl.toNat ≤ c.sc.toNat then c.sc - c.vl else 0
  CsrGives (.vsetl g d) s d (grant (s.gr g)) { c with vl := grant (s.gr g) }
  ∧ CsrGives (.vloop g) s 0 0 { c with sc := s.gr g, vl := grant (s.gr g) }
  ∧ (left = 0 → CsrGives (.vnext off) s 0 0 { c with sc := 0, vl := 0 })
  ∧ (left ≠ 0 → ∃ t, exec (.vnext off) s = .next t ∧ AtPc t (s.hart.pc + off.signExtend 64 * 2) ∧ t.hart.csr = { c with sc := left, vl := grant left }
    ∧ { t with hart := { t.hart with pc := s.hart.pc, wait := s.hart.wait, csr := c }, wr := s.wr, groups := s.groups } = s)
  ∧ (∀ ks s1 T, (s.gr g).toNat % 64 = 0 → Reads s .read false (s.gr g) 64 ks s1 → parseTdesc (s1.pathBytes pathLS ks) = some T →
    (flatten T).1 < 2 ^ 64 → (flatten T).2 < 2 ^ 64 → ∃ t, exec (.vflat g d) s = .next t ∧ PastBy s t 4
      ∧ t.hart.csr = { c with sc := BitVec.ofNat 64 (flatten T).1, vl := grant (BitVec.ofNat 64 (flatten T).1) }
      ∧ (∀ r : GReg, t.gr r = if r = 0 then 0 else if r = d + 1 then BitVec.ofNat 64 (flatten T).2 else if r = d then grant (BitVec.ofNat 64 (flatten T).1) else s.gr r)
      ∧ { t with hart := { t.hart with pc := s.hart.pc, wait := s.hart.wait, g := s.hart.g, csr := c }, unseen := s1.unseen, wr := s1.wr, groups := s1.groups } = s1.afterRead ks ∧ FewerHidden s1 t)

/-- R205, R206, R265 to R270: what the configuration instructions set. -/
def Obligations.VectorConfiguration : Prop := Claims.RegisterPlacement ∧ Claims.RegisterWindows ∧ Claims.LoopControl


/-- R200, R271: `vrgn` begins a span over the next n instructions of the vector queue, which are skipped where no element of the mask register below VL is active. -/
def Claims.SpanBegins : Prop := ∀ (s : State) (a : Fld6) (n : BitVec 5), s.hart.convoy = none → s.hart.inSpan = false → a.toNat < s.hart.nm →
  s.hart.csr.vlN ≤ s.hart.em → s.poison = [] → s.flaws = [] → s.checks = [] → AllSeen s s.hart.id pathLS → ∃ t, exec (.vrgn a n) s = .next t ∧ PastBy s t 4 ∧ t.hart.csr = { s.hart.csr with estart := 0 }
    ∧ t.hart.span = some { left := n.toNat + 1, skip := !(List.range s.hart.csr.vlN).any (fun i => activeCode (s.maskOf a.toNat i)), members := [] }
    ∧ { t with hart := { t.hart with pc := s.hart.pc, wait := s.hart.wait, csr := s.hart.csr, span := s.hart.span, byp := s.hart.byp }, unseen := s.unseen, wr := s.wr, groups := s.groups } = s ∧ FewerHidden s t

/-- R201: inside a span `vcfg`, `vsetl`, `vloop`, `vnext` and `vflat` are ILLEGAL with subcode 0x16. -/
def Claims.SpanTraps : Prop := ∀ (s : State) (g d : GReg) (off : BitVec 17), s.hart.inSpan = true →
  let bad (i : Instr) : Prop := Traps i s 0x01 (BitVec.ofNat 64 (0x16 + 2 ^ 32 * (encode i).2)) 0
  bad (.vcfg g) ∧ bad (.vsetl g d) ∧ bad (.vloop g) ∧ bad (.vnext off) ∧ bad (.vflat g d)

/-- R200, R201: a span begins with vrgn; the configuration instructions trap inside it. How a span counts is deduced (log entry 22). -/
def Obligations.SkipSpans : Prop := Claims.SpanBegins ∧ Claims.SpanTraps


/-! Vector memory. -/

/-- R288, R295, R296: `mpopc` counts the active elements of a mask register that its own mask lets it see, `mfirst` finds the lowest and gives all ones where there is none,
and `vext` reads one element of a group, sign- or zero-extended as its tag says, and 0 past its end. -/
def Claims.MaskAndElementReads : Prop := ∀ (s : State) (cv mk : Bool) (a : Fld6) (d g : GReg),
  let seen (i : Nat) : Bool := decide (i < s.hart.csr.vlN) && s.active mk i && activeCode (s.maskOf a.toNat i)
  let o := s.hart.vop a
  let x := s.hart.opTag o
  let gives (i : Instr) (P : W64 → Prop) : Prop := VecDoes i s (fun _ => False) (fun t => t.mxs = s.mxs ∧ t.hart.wins = s.hart.wins ∧ t.hart.strs = s.hart.strs
    ∧ (d = 0 → t.gr d = 0) ∧ (d ≠ 0 → P (t.gr d)))
  (Ready (.mpopc cv mk a d) s → gives (.mpopc cv mk a d) (fun v => v = BitVec.ofNat 64 ((List.range s.hart.csr.vlN).filter seen).length))
  ∧ (Ready (.mfirst cv mk a d) s → gives (.mfirst cv mk a d) (fun v => (∀ i, seen i = true → ∃ j, v = BitVec.ofNat 64 j ∧ j ≤ i ∧ seen j = true)
      ∧ ((∀ i, seen i = false) → v = BitVec.allOnes 64)))
  ∧ (Ready (.vext cv g a d) s → s.hart.pickOk a = true → gives (.vext cv g a d) (fun v => v =
      if s.hart.opCount o x ≤ (s.gr g).toNat then 0 else if x.isInt then BitVec.ofInt 64 (x.intOf (s.codeOf o x (s.gr g).toNat)) else BitVec.ofNat 64 (s.codeOf o x (s.gr g).toNat)))

/-- R284 to R296: reductions, scans, permutes and the reads of masks and single elements. -/
def Obligations.ReductionsAndPermutes : Prop := Claims.Reductions ∧ Claims.Permutes ∧ Claims.ReductionElements ∧ Claims.PermuteElements ∧ Claims.MaskAndElementReads


/-- R159, R160, R161, R162, R164: the vector loads of both lengths, unit stride, strided, indexed and segment, read each active element where its address says. -/
def Obligations.VectorLoads : Prop := ∀ (s : State) (cv mk ord fm a8 : Bool) (g r : GReg) (a d : Fld6) (nf : BitVec 3) (imm : W32),
  LoadsElems (.vld cv mk ord fm a8 g d) s (vldMem mk ord fm a8 g d) ∧ LoadsElems (.vldLong cv mk ord fm a8 g d imm) s (vldLongMem mk ord fm a8 g d imm)
  ∧ LoadsElems (.vlds cv mk ord fm a8 g r d) s (vldsMem mk ord fm a8 g r d) ∧ LoadsElems (.vldsLong cv mk ord fm a8 g r d imm) s (vldsLongMem mk ord fm a8 g r d imm)
  ∧ LoadsElems (.vldx cv mk ord fm a8 g a d) s (vldxMem mk ord fm a8 g a d) ∧ LoadsElems (.vldxLong cv mk ord fm a8 g a d imm) s (vldxLongMem mk ord fm a8 g a d imm)
  ∧ LoadsElems (.vldseg cv mk ord fm a8 g nf d) s (vldsegMem mk ord fm a8 g nf d)
  ∧ LoadsElems (.vldsegLong cv mk ord fm a8 g nf d imm) s (vldsegLongMem mk ord fm a8 g nf d imm)

/-- R159, R160, R161, R162, R164: the vector stores of both lengths write each active element where its address says, and no other byte of memory. -/
def Obligations.VectorStores : Prop := ∀ (s : State) (cv mk ord fm a8 : Bool) (g r : GReg) (a d : Fld6) (nf : BitVec 3) (imm : W32),
  StoresElems (.vst cv mk ord fm a8 g d) s (vstMem mk ord fm a8 g d) ∧ StoresElems (.vstLong cv mk ord fm a8 g d imm) s (vstLongMem mk ord fm a8 g d imm)
  ∧ StoresElems (.vsts cv mk ord fm a8 g r d) s (vstsMem mk ord fm a8 g r d) ∧ StoresElems (.vstsLong cv mk ord fm a8 g r d imm) s (vstsLongMem mk ord fm a8 g r d imm)
  ∧ StoresElems (.vstx cv mk ord fm a8 g a d) s (vstxMem mk ord fm a8 g a d) ∧ StoresElems (.vstxLong cv mk ord fm a8 g a d imm) s (vstxLongMem mk ord fm a8 g a d imm)
  ∧ StoresElems (.vstseg cv mk ord fm a8 g nf d) s (vstsegMem mk ord fm a8 g nf d)
  ∧ StoresElems (.vstsegLong cv mk ord fm a8 g nf d imm) s (vstsegLongMem mk ord fm a8 g nf d imm)

/-- R166, R167, R168: `vamo` gives each active element the old value at its address and stores the new one there; `vmcast` delivers the active codes to each Chamber
named by the map that has a live hart of the gang with room for them, and marks those in its mask register. -/
def Obligations.VectorAtomicsAndCast : Prop := ∀ (s : State) (cv mk ord : Bool) (g : GReg) (a d : Fld6) (imm : W32),
  let sx : W64 := imm.signExtend 64
  AtomicElems (.vamoAdd cv mk ord g a d) s vamoArithTag (vamoAddNew s.hart.csr.ftz) mk ord g a d 0 ∧ AtomicElems (.vamoAddLong cv mk ord g a d imm) s vamoArithTag (vamoAddNew s.hart.csr.ftz) mk ord g a d sx
  ∧ AtomicElems (.vamoMax cv mk ord g a d) s vamoArithTag (vamoMaxNew s.hart.csr.ftz) mk ord g a d 0 ∧ AtomicElems (.vamoMaxLong cv mk ord g a d imm) s vamoArithTag (vamoMaxNew s.hart.csr.ftz) mk ord g a d sx
  ∧ AtomicElems (.vamoMin cv mk ord g a d) s vamoArithTag (vamoMinNew s.hart.csr.ftz) mk ord g a d 0 ∧ AtomicElems (.vamoMinLong cv mk ord g a d imm) s vamoArithTag (vamoMinNew s.hart.csr.ftz) mk ord g a d sx
  ∧ AtomicElems (.vamoSwap cv mk ord g a d) s vamoSwapTag (vamoSwapNew s.hart.csr.ftz) mk ord g a d 0 ∧ AtomicElems (.vamoSwapLong cv mk ord g a d imm) s vamoSwapTag (vamoSwapNew s.hart.csr.ftz) mk ord g a d sx
  ∧ (let v := (s.gr g).toNat
    let o := s.hart.vop a
    let x := s.hart.opTag o
    let n := s.hart.csr.vlN
    let core (j : Nat) : Nat := bits v 32 6 * 16 + j
    let off := bits v 0 23
    let got (j : Nat) : Bool := bit v (48 + j) && s.castTarget (core j) off (n * x.bytes)
    let keys (j i : Nat) : List Nat := (List.range x.bytes).map (fun b => chamberKey (chamberAddr (core j) (off + i * x.bytes + b)))
    let sent (j i k : Nat) : Prop := j < 16 ∧ got j = true ∧ i < n ∧ s.active mk i = true ∧ k ∈ keys j i
    Ready (.vmcast cv mk g a d) s → bits v 38 10 = 0 → bits v 23 9 = 0 → x.isBx = false → x ≠ .bxs → s.hart.groupOk o x = true → bits v 48 16 ≠ 0 →
    s.hart.csr.vl ≠ 0 → s.ownsDie s.hart.part (bits v 32 6) = true → off % x.bytes = 0 → off + n * x.bytes ≤ 0x600000 →
    (∀ j i k, sent j i k → ¬ s.hart.inWindow (128 + d.toNat) k) → (∀ j i, j < 16 → Seen s s.hart.id pathMX (keys j i)) →
    VecDoes (.vmcast cv mk g a d) s (fun k => ∃ j i, sent j i k) (fun t =>
      t.mxs = s.mxs ∧ t.hart.wins = s.hart.wins ∧ t.hart.strs = s.hart.strs ∧ (∀ j, j < 16 → t.maskOf d.toNat j = if got j then 0x8000 else 0)
      ∧ ∀ j i, j < 16 → got j = true → i < n → s.active mk i = true → (keys j i).map t.byteAt = leBytes x.bytes (s.codeOf o x i)))

/-! Spill frames, inline decoding and streams. -/

/-- R169, R170: `vsave` stores the frame of the configuration and the registers, and nothing else: VCFG, VTYPE, VL and SIZE, 32 zero bytes, an entry with BASE, TAG and LEN for
each vector register, and for each mask register one with TAG 0x10, and the live bytes of each in that order, the directory and each block padded with zeros to a multiple of 64.
`vrest` takes from a frame whose every check holds the configuration, VTYPE, VL, the places, tags and live lengths of the registers and their live bytes, and changes nothing
outside the registers' windows. That it sets SC to 0, the last vector destination to v0 and OVFM to 0x10 where OVFM names no mask register, as `vcfg` does (R205, R265), is log
entry 38 (DEDUCED). -/
def Obligations.SpillFrames : Prop := ∀ (s : State) (g : GReg) (ks : List Nat),
  let h := s.hart
  let va := s.gr g
  (Ready (.vsave g) s → va.toNat % 64 = 0 → Spans s (h.acc .write false) va s.frameBytes.length ks → Seen s h.id pathLS ks →
    VecDoes (.vsave g) s (fun k => k ∈ ks) (fun t => t.mxs = s.mxs ∧ t.hart.wins = h.wins ∧ t.hart.strs = h.strs ∧ ks.map t.byteAt = s.pathData pathLS ks s.frameBytes))
  ∧ (h.vregs.length = 64 → h.mregs.length = 16 → h.nv ≤ 64 → h.nm ≤ 16 →
    let f := s.frameBytes
    let n := h.nv + h.nm
    let base (j : Nat) : Nat := if j < h.nv then (h.vreg j).base else (h.mreg (j - h.nv)).base
    let tag (j : Nat) : Nat := if j < h.nv then (h.vreg j).tag.code else 0x10
    let len (j : Nat) : Nat := if j < h.nv then (h.vreg j).len else (h.mreg (j - h.nv)).len
    let start (j : Nat) : Nat := 64 + up64 (8 * n) + ((List.range j).map (fun i => up64 (len i))).sum
    (∀ j, j < n → base j < 2 ^ 23 ∧ len j < 2 ^ 23) → f.length < 2 ^ 64 →
    fieldAt f 0x00 8 = h.csr.vcfg.toNat ∧ fieldAt f 0x08 8 = h.csr.vtype.toNat ∧ fieldAt f 0x10 8 = h.csr.vlN % 2 ^ 32 ∧ fieldAt f 0x18 8 = f.length ∧ f.length = start n
    ∧ (f.drop 0x20).take 32 = List.replicate 32 0
    ∧ (∀ j, j < n → let e := fieldAt f (0x40 + 8 * j) 8
        bits e 55 9 = 0 ∧ bits e 32 23 = base j ∧ bits e 28 4 = 0 ∧ bits e 23 5 = tag j ∧ bits e 0 23 = len j)
    ∧ (f.drop (0x40 + 8 * n)).take (up64 (8 * n) - 8 * n) = List.replicate (up64 (8 * n) - 8 * n) 0
    ∧ (∀ j, j < n → (f.drop (start j)).take (up64 (len j)) = (h.ownKeys (base j) (len j)).map s.byteAt ++ List.replicate (up64 (len j) - len j) 0))
  ∧ (∀ f : List Byte, f = s.pathBytes pathLS ks → Ready (.vrest g) s → va.toNat % 64 = 0 → Spans s (h.acc .read false) va f.length ks → Seen s h.id pathLS ks →
    let v : W64 := BitVec.ofNat 64 (fieldAt f 0 8)
    let nv := vcfgNv v
    let n := nv + vcfgNm v
    let e (j : Nat) : Nat := fieldAt f (64 + 8 * j) 8
    let base (j : Nat) : Nat := bits (e j) 32 23
    let len (j : Nat) : Nat := bits (e j) 0 23
    let start (j : Nat) : Nat := 64 + up64 (8 * n) + ((List.range j).map (fun i => up64 (len i))).sum
    (f.drop 32).take 32 = List.replicate 32 0 → fieldAt f 16 8 < 2 ^ 32 → vtypeOk (BitVec.ofNat 64 (fieldAt f 8 8)) = true → h.vcfgOk v = true →
    ((f.drop (64 + 8 * n)).take (up64 (8 * n) - 8 * n)).all (fun b => b == 0) = true →
    h.frameOk v ((List.range nv).map e) ((List.range (vcfgNm v)).map (fun j => e (nv + j))) = true → f.length = start n → fieldAt f 24 8 = f.length →
    ∃ t, exec (.vrest g) s = .next t ∧ PastBy s t 4 ∧ t.hart.lastDest = 0
      ∧ t.hart.csr = { h.csr with vcfg := v, vtype := BitVec.ofNat 64 (fieldAt f 8 8), vl := BitVec.ofNat 64 (fieldAt f 16 8), sc := 0
                                  ovfm := ovfmStore (vcfgNm v) h.csr.ovfm, estart := 0 }
      ∧ (∀ j, j < nv → (t.hart.vreg j).base = base j ∧ some (t.hart.vreg j).tag = tagOf (bits (e j) 23 5) ∧ (t.hart.vreg j).len = len j)
      ∧ (∀ j, j < vcfgNm v → t.hart.mreg j = { base := base (nv + j), len := len (nv + j) })
      ∧ (∀ j, j < n → (h.ownKeys (base j) (len j)).map t.byteAt = (f.drop (start j)).take (len j))
      ∧ (∀ k, (∀ r, r < nv ∨ (128 ≤ r ∧ r < 128 + vcfgNm v) → ¬ t.hart.inWindow r k) → t.byteAt k = s.byteAt k)
      ∧ { (t.rememory s) with
          hart := { t.hart with pc := h.pc, wait := h.wait, csr := h.csr, vregs := h.vregs, mregs := h.mregs, byp := h.byp, lastDest := h.lastDest } } = s)

/-- R164, R165: `vldc` decodes whole chunks into its destination group. At the end of the input VL becomes 0 and the context stays; where one chunk is left that fits the
budget and the group, its elements are written, VL is their number, and the context is moved past the chunk. -/
def Obligations.InlineDecoding : Prop := ∀ (s : State) (g a : GReg) (d : Fld6) (v : VInfo) (kc : List Nat) (c : DecodeCtx),
  let h := s.hart
  let o := h.vop d
  let x := h.opTag o
  let va := s.gr g
  let ends (src : W64) (remain done n : Nat) (P : State → Prop) : Prop := ∃ t, exec (.vldc g a d) s = .next t ∧ PastBy s t 4 ∧ t.hart.csr.estart = 0 ∧ t.hart.lastDest = d.toNat
    ∧ t.hart.csr.vl = BitVec.ofNat 64 n
    ∧ (kc.take 16).map t.byteAt = s.pathData pathLS (kc.take 16) (leBytes 8 src.toNat ++ leBytes 8 remain)
    ∧ (kc.drop 24).map t.byteAt = s.pathData pathLS (kc.drop 24) (leBytes 8 done)
    ∧ VecFrame v.writes none (fun k => k ∈ kc.take 16 ++ kc.drop 24) s { t with hart := { t.hart with csr := { t.hart.csr with vl := h.csr.vl } } } ∧ P t
  infoOf (.vldc g a d) h = some v → Ready (.vldc g a d) s → windowTagsOk .u8 x = true → h.groupRegs o = true → va.toNat % 32 = 0 →
  Spans s (h.acc .read false) va 32 kc → Spans s (h.acc .write false) va 32 kc → parseDctx (s.pathBytes pathLS kc) = some c →
  Seen s h.id pathLS kc → (∀ k r, k ∈ kc → r ∈ v.writes → ¬ h.inWindow r k) → WindowsApart s v.writes →
  (c.remain = 0 → ends c.src 0 c.done 0 (fun _ => True))
  ∧ ∀ kh kp k bs, Spans s (h.acc .read false) c.src 16 kh → parseChunk c.fmt (s.pathBytes pathLS kh) = some k → Spans s (h.acc .read false) (c.src + 16) k.clen kp →
    Seen s h.id pathLS (kh ++ kp) → decodeChunk c.fmt k (s.pathBytes pathLS kp) (k.xlen + 1) = (bs, none) → c.remain = k.length → k.length ≤ (s.gr a).toNat → x = fmtTag c.fmt →
    (expandedCodes c.fmt bs).length = k.count c.fmt → k.count c.fmt ≤ Nat.min h.csr.mvl (h.opCount o x) →
    ends (c.src + BitVec.ofNat 64 k.length) 0 ((c.done + 1) % 2 ^ 64) (k.count c.fmt) (fun t => ∀ i, i < k.count c.fmt → t.codeOf o x i = (expandedCodes c.fmt bs).getD i 0)

/-- R171, R172, R173, R174, R175: `sbind` binds the stream its descriptor gives, `sfree` frees it, `vpop` takes the next VL elements of a read stream (zeros past its end),
`vpush` stores the next VL of a write stream, and both move its position on; a read ahead is kept, with its fault, for the element it belongs to. When a read ahead
happens is free (log entry 42). -/
def Obligations.Streams : Prop := ∀ (s : State) (cv mk : Bool) (g : GReg) (a d : Fld6) (str : BitVec 3) (n : Nat),
  let h := s.hart
  let o := h.vop d
  let x := h.opTag o
  let sets (i : Instr) (m : Nat) (y : Option Stream) (out : Nat → Prop) (P : State → Prop) : Prop :=
    VecDoes i s out (fun t => t.mxs = s.mxs ∧ t.hart.wins = h.wins ∧ t.hart.strs = h.strs.set m y ∧ P t)
  let moves (i : Instr) (y : Stream) (kind : AKind) (keys : Nat → List Nat) : Prop := ∀ v, infoOf i h = some v → WindowsApart s (v.reads ++ v.writes)
    ∧ ∀ j, Works s mk j → y.pos + j < y.total → Resident s (h.acc kind false) (y.va (y.pos + j)) x.bytes (keys j)
      ∧ Seen s h.id pathLS (keys j) ∧ ∀ k, k ∈ keys j → ∀ r, r ∈ v.reads ++ v.writes → ¬ h.inWindow r k
  (∀ ks y, Ready (.sbind g d) s → (s.gr g).toNat % 64 = 0 → Spans s (h.acc .read false) (s.gr g) 64 ks → Seen s h.id pathLS ks → parseSdesc (s.pathBytes pathLS ks) = some y →
    let dctx := fieldAt (s.pathBytes pathLS ks) 0x28 8
    (dctx = 0 → sets (.sbind g d) d.toNat (some y) (fun _ => False) (fun _ => True))
    ∧ ∀ kc c, dctx ≠ 0 → Spans s (h.acc .read false) (BitVec.ofNat 64 dctx) 32 kc → Seen s h.id pathLS kc → parseDctx (s.pathBytes pathLS kc) = some c → y.mtag = fmtTag c.fmt →
      sets (.sbind g d) d.toNat (some { y with ctx := some c }) (fun _ => False) (fun _ => True))
  ∧ (Ready (.sfree d) s → sets (.sfree d) d.toNat none (fun _ => False) (fun _ => True))
  ∧ (∀ y keys, Ready (.vpop cv mk a d) s → h.str a.toNat = some y → y.write = false → y.ctx = none → y.ahead = [] → y.scale = 0 → y.mtag = x → y.tagsOk x = true →
    h.groupOk o x = true → moves (.vpop cv mk a d) y .read keys →
    sets (.vpop cv mk a d) a.toNat (some (y.advance h.csr.vlN)) (fun _ => False) (fun t =>
      ∀ j, Works s mk j → t.codeOf o x j = if y.total ≤ y.pos + j then 0 else leNat (s.pathBytes pathLS (keys j))))
  ∧ (∀ y keys, Ready (.vpush cv mk a d) s → h.str a.toNat = some y → y.write = true → y.scale = 0 → y.mtag = x → y.tagsOk x = true → h.groupOk o x = true →
    (∀ j, Works s mk j → y.pos + j < y.total) → moves (.vpush cv mk a d) y .write keys →
    sets (.vpush cv mk a d) a.toNat (some (y.advance h.csr.vlN)) (fun k => ∃ j, Works s mk j ∧ k ∈ keys j) (fun t =>
      (∀ j j' k, Works s mk j → Works s mk j' → j ≠ j' → k ∈ keys j → k ∉ keys j') →
        ∀ j, Works s mk j → (keys j).map t.byteAt = s.pathData pathLS (keys j) (leBytes x.bytes (s.codeOf o x j))))
  ∧ ((∀ y, h.str str.toNat = some y → y.write = true ∨ n < y.pos ∨ y.total ≤ n ∨ y.ahead.any (fun e => e.1 == n) = true) → exec (.streamReadAhead str n) s = .next s.endWrites)
  ∧ (∀ y, h.str str.toNat = some y → y.write = false → y.pos ≤ n → n < y.total → y.ahead.any (fun e => e.1 == n) = false → y.ctx = none → y.scale = 0 →
    (∀ ks, Resident s (h.acc .read false) (y.va n) y.mtag.bytes ks → Clean s ks → Seen s h.id pathLS ks → (∀ k, k ∈ ks → s.inBoundWindow k = false) →
      ∃ t, Ordered s t ∧ exec (.streamReadAhead str n) s =
        .next (t.setStr str.toNat (some { y with ahead := y.ahead ++ [(n, .value (leNat (s.pathBytes pathLS ks)) 0x3F800000)] })).endWrites)
    ∧ ∀ f, SoundWalk s (h.acc .read false) (y.va n) y.mtag.bytes → s.resolveSpan (h.acc .read false) (y.va n) y.mtag.bytes = .error f → exec (.streamReadAhead str n) s =
      .next (s.setStr str.toNat (some { y with ahead := y.ahead ++ [(n, .fault { cause := f.cause, sub := f.tval.setWidth 8, tval := f.tval })] })).endWrites)

/-! Windows. -/

/-- R83, R85, R86, R87, R90: `winset` reads its two descriptors on path WN (log entry 44, DEDUCED) and binds a window that overlaps nothing, its whole set to be filled; `winflush` and `winclr` write the dirty elements back to their
addresses, and `winclr` and `winclr.d` unbind; `winwait` goes on once every line has arrived and waits before. A window with nothing bound is UNBOUND to `winwait` and
`winflush`. -/
def Obligations.WindowBinding : Prop := ∀ (s : State) (g : GReg) (d : Fld6),
  let h := s.hart
  let n := d.toNat
  let does (i : Instr) (y : Option Window) (out : Nat → Prop) (P : State → Prop) : Prop :=
    VecDoes i s out (fun t => t.mxs = s.mxs ∧ t.hart.wins = h.wins.set n y ∧ t.hart.strs = h.strs ∧ P t)
  let bare (i : Instr) (y : Option Window) : Prop := does i y (fun _ => False) (fun _ => True)
  let unbound : W64 := BitVec.ofNat 64 (7 + 256 * n)
  (∀ kw kt T W, Ready (.winset g d) s → (∀ w, h.win n = some w → w.faults = [] ∧ w.dirty = []) → (s.gr g).toNat % 64 = 0 → Resident s (h.wnAcc .read) (s.gr g) 64 kw →
    Seen s h.id pathWN kw →
    let wb := s.pathBytes pathWN kw
    let ta : W64 := BitVec.ofNat 64 (fieldAt wb 0 8)
    ta.toNat % 64 = 0 → Resident s (h.wnAcc .read) ta 64 kt → Seen s h.id pathWN kt → parseTdesc (s.pathBytes pathWN kt) = some T → parseWdesc wb T = some W →
    let w : Window := { t := T, d := W, lo := lowerBounds W h.ctrs, adv := 0, lead := none, dirty := [], pend := [], pre := [], faults := [] }
    W.cbase % 256 = 0 → h.inChamber (W.cbase, w.bytes) = true → meetsAny (W.cbase, w.bytes) (h.vecRanges ++ h.maskRanges ++ h.winRanges n) = false →
    firstOverlap h [(n, w, w.box)] = none → bare (.winset g d) (some { w with pend := (coordsIn w.box).map (fun c => { adv := 0, coord := c, mark := s.fences }) }))
  ∧ (∀ (w : Window) (keys : List Int → List Nat), h.win n = some w → w.faults = [] →
    (∀ c, c ∈ w.dirty → Resident s (h.wnAcc .write) (w.va c) w.esize (keys c) ∧ Seen s h.id pathWN (keys c) ∧ ∀ k, k ∈ keys c → s.inBoundWindow k = false ∧ ∀ c', c' ∈ w.dirty → k ∉ h.slotKeys w (w.slot c')) →
    let gone (t : State) : Prop := w.dirty.Nodup → (∀ c c' k, c ∈ w.dirty → c' ∈ w.dirty → c ≠ c' → k ∈ keys c → k ∉ keys c') →
      ∀ c, c ∈ w.dirty → (keys c).map t.byteAt = s.pathData pathWN (keys c) ((h.slotKeys w (w.slot c)).map s.slotByte)
    let out (k : Nat) : Prop := ∃ c, c ∈ w.dirty ∧ k ∈ keys c
    (Ready (.winflush d) s → does (.winflush d) (some { w with dirty := [] }) out gone) ∧ (Ready (.winclr d) s → does (.winclr d) none out gone))
  ∧ ((∀ w, h.win n = some w → w.faults = []) → Ready (.winclrD d) s → bare (.winclrD d) none)
  ∧ (∀ w, h.win n = some w → w.faults = [] → Ready (.winwait d) s → if w.pend = [] then bare (.winwait d) (some w) else exec (.winwait d) s = .next (s.endWrites.waiting .line))
  ∧ (h.win n = none → (Ready (.winclr d) s → bare (.winclr d) none) ∧ (Ready (.winwait d) s → Traps (.winwait d) s 0x07 unbound 1)
    ∧ (Ready (.winflush d) s → Traps (.winflush d) s 0x07 unbound 1))

/-- R91, R92: `vldw` reads and `vstw` writes the elements of a bound window at their slots, each at the window's lower bounds plus its offsets; outside the tensor a read gives
FILL and a write writes nothing. An element outside the declared box is BOUNDS, and a window of mode R takes no write. -/
def Obligations.WindowElements : Prop := ∀ (s : State) (cv mk : Bool) (dim : BitVec 2) (g : GReg) (a d : Fld6) (w : Window),
  let h := s.hart
  let o := h.vop d
  let x := h.opTag o
  let offs (i : Nat) : List Nat := windowOffsets (s.gr g) dim.toNat i
  let at' (i : Nat) : List Int := List.zipWith (fun (l : Int) (j : Nat) => l + j) w.lo (offs i)
  let inside (i : Nat) : Bool := ((at' i).zip w.t.dims).all (fun e => decide (0 ≤ e.1) && decide (e.1 < e.2))
  let declared (i : Nat) : Bool := ((offs i).zip w.d.e).all (fun e => decide (e.1 < e.2))
  let keys (i : Nat) : List Nat := h.slotKeys w (w.slot (at' i))
  let goes (i : Instr) : Prop := Ready i s ∧ s.hart.csr.vl ≠ 0 ∧ h.win a.toNat = some w ∧ w.pend = [] ∧ w.faults = [] ∧ w.t.tag = x ∧ x ≠ .bx4 ∧ h.groupOk o x = true
    ∧ h.bxOk o x = true ∧ (∀ v, infoOf i h = some v → WindowsApart s (v.reads ++ v.writes) ∧ ∀ j k r, Works s mk j → inside j = true → k ∈ keys j → r ∈ v.reads ++ v.writes → ¬ h.inWindow r k)
  (goes (.vldw cv mk dim g a d) → w.d.fill.toNat < 2 ^ (8 * x.bytes) → (∀ j, Works s mk j → declared j = true) → VecDoes (.vldw cv mk dim g a d) s (fun _ => False) (fun t =>
    t.mxs = s.mxs ∧ t.hart.wins = h.wins ∧ t.hart.strs = h.strs
    ∧ ∀ j, Works s mk j → t.codeOf o x j = if inside j then leNat ((keys j).map s.slotByte) else w.d.fill.toNat))
  ∧ (goes (.vstw cv mk dim g a d) → w.d.mode ≠ .r → (∀ j, Works s mk j → declared j = true) →
    VecDoes (.vstw cv mk dim g a d) s (fun k => ∃ j, Works s mk j ∧ inside j = true ∧ k ∈ keys j) (fun t =>
      t.mxs = s.mxs ∧ t.hart.strs = h.strs
      ∧ (∃ dirty, t.hart.wins = h.wins.set a.toNat (some { w with dirty := dirty }) ∧ ∀ c, c ∈ dirty ↔ c ∈ w.dirty ∨ ∃ j, Works s mk j ∧ inside j = true ∧ c = at' j)
      ∧ ((∀ j j', Works s mk j → Works s mk j' → inside j = true → inside j' = true → j ≠ j' → w.slot (at' j) ≠ w.slot (at' j')) →
        ∀ j, Works s mk j → inside j = true → (keys j).map t.byteAt = leBytes x.bytes (s.codeOf o x j))))
  ∧ (goes (.vldw cv mk dim g a d) → s.choices = [] → ∀ j, h.csr.estart.toNat = j → Works s mk j → declared j = false →
    ∃ u, Ordered s u ∧ exec (.vldw cv mk dim g a d) s = .next (u.endWrites.takeTrap { cause := 0x07, tval := BitVec.ofNat 64 (1 + 256 * a.toNat), elem := some j, queue := 1, fatal := false }))
  ∧ (goes (.vstw cv mk dim g a d) → w.d.mode = .r → Traps (.vstw cv mk dim g a d) s 0x07 (BitVec.ofNat 64 (6 + 256 * a.toNat)) 1)

/-- R73, R76, R88, R89: `lcset` and `lcadv` set a counter, and every window that selects it advances to its new lower bounds, unless the new value is out of range; ADVANCE
performs one that waited; `lcrd` reads the counter and `winq` the status word of a window. Bit PF of
`winq` is a free choice (log entry 8), and when a waiting advance is performed is an event (log entry 43). -/
def Obligations.WindowCounters : Prop := ∀ (s : State) (g r : GReg) (imm a d : Fld6) (imm32 : W32),
  let h := s.hart
  let k := d.toNat
  let x : Int := (s.gr g).toInt + imm.toInt
  let selected (n : Nat) (w : Window) : Prop := n ∈ h.bound ∧ h.win n = some w ∧ w.selects k = true
  let counts (i : Instr) (isSet : Bool) (len : Nat) (x : Int) : Prop :=
    let new : Int := if isSet then x else ctrAt h.ctrs k + x
    let cs := h.ctrs.set k new
    s.hart.convoy = none → s.hart.span = none → k < 8 →
    (-2147483648 ≤ new → new ≤ 2147483647 → (∀ n w, ¬ selected n w) → ∃ t, exec i s = .next t ∧ PastBy s t len ∧ t.hart.csr = { h.csr with estart := 0 } ∧ t.hart.ctrs = cs
      ∧ t.hart.pred = h.pred.set k (if isSet then 1 else x)
      ∧ { t with hart := { t.hart with pc := h.pc, wait := h.wait, csr := h.csr, ctrs := h.ctrs, pred := h.pred }, wr := s.wr, groups := s.groups } = s)
    ∧ (-2147483648 ≤ new → new ≤ 2147483647 → (∀ n w, selected n w → w.faults = [] ∧ w.behind < 4) →
      firstOverlap h ((h.bound.filterMap (fun n => (h.win n).map (fun w => (n, w, clipped w (lowerBounds w.d cs))))).filter (fun c => c.2.1.selects k && c.2.2 != c.2.1.box)) = none →
      ∃ t, exec i s = .next t ∧ PastBy s t len ∧ t.hart.g = h.g ∧ t.hart.csr = { h.csr with estart := 0 } ∧ t.hart.ctrs = cs
        ∧ ∀ n, n < h.wins.length → ∀ w, h.win n = some w → if w.selects k ∧ n < 16 then
            ∃ w', t.hart.win n = some w' ∧ w'.t = w.t ∧ w'.d = w.d ∧ w'.lo = lowerBounds w.d cs ∧ w'.adv = (w.adv + 1) % 2 ^ 32 ∧ w'.lead = some k ∧ w'.pre = []
          else t.hart.win n = some w)
    ∧ ((new < -2147483648 ∨ 2147483647 < new) → Traps i s 0x07 (BitVec.ofNat 64 (8 + 256 * k)) 1)
  counts (.lcset g imm d) true 4 x ∧ counts (.lcsetLong g imm d imm32) true 8 (x + imm32.toInt) ∧ counts (.lcadv g imm d) false 4 x
  ∧ counts (.lcadvLong g imm d imm32) false 8 (x + imm32.toInt)
  ∧ (∀ isSet low len y, h.wait = .advance isSet low len d y → counts .advance isSet len y)
  ∧ ((∀ isSet low len e y, h.wait ≠ .advance isSet low len e y) → exec .advance s = .next s)
  ∧ (Ready (.lcrd a r) s → VecDoes (.lcrd a r) s (fun _ => False) (fun t => t.mxs = s.mxs ∧ t.hart.wins = h.wins ∧ t.hart.strs = h.strs
    ∧ t.gr r = if r = 0 then 0 else BitVec.ofInt 64 (ctrAt h.ctrs a.toNat)))
  ∧ (Ready (.winq a r) s → (h.win a.toNat = none → VecDoes (.winq a r) s (fun _ => False) (fun t => t.mxs = s.mxs ∧ t.hart.wins = h.wins ∧ t.hart.strs = h.strs ∧ t.gr r = 0))
    ∧ ∀ w, h.win a.toNat = some w → ∃ t pf, exec (.winq a r) s = .next t ∧ PastBy s t 4 ∧ pf < 2 ∧ ((h.prefetchDelta w).isNone = true → pf = 0)
      ∧ t.gr r = (if r = 0 then 0 else BitVec.ofNat 64 (w.adv * 2 ^ 32 + Nat.min w.openAdvances.length 4 * 2 ^ 24 + (w.faults.any (fun f => !f.isFill)).toNat * 2 ^ 23
          + (w.faults.any (fun f => !f.raised)).toNat * 2 ^ 22 + pf * 2 ^ 21 + w.d.mode.code * 2 ^ 19 + w.d.pd * 2 ^ 17 + w.d.strict.toNat * 2 ^ 16 + 1))
      ∧ { t with hart := { t.hart with pc := h.pc, wait := h.wait, csr := h.csr, g := h.g }, choices := s.choices, wr := s.wr, groups := s.groups } = s)

/-- R71, R72, R73, R74: the residency engine's own steps. A line arrives with the elements that waited for it; a prefetch changes nothing but which elements the window has fetched
ahead, and no slot of the set: it completes, and where no access faults it brings every element of the set that the window would have after that many further advances
whose slot holds none already, as path WN reads it, and changes no other byte and nothing else of the machine; an early write-back writes a dirty element and leaves it clean. A hart that is not placed has none of them (R82). When these
events come is free (log entry 42). -/
def Obligations.ResidencyEngine : Prop := ∀ (s : State) (n : BitVec 4) (m : Nat),
  let h := s.hart
  let quiet (i : Instr) : Prop := exec i s = .next s.endWrites
  let wins (i : Instr) (w : Window) (ks : List Nat) (bs : List Byte) : Prop := ∃ t, exec i s = .next t ∧ t.hart.pc = h.pc ∧ t.hart.wins = h.wins.set n.toNat (some w)
    ∧ (ks.Nodup → ks.map t.byteAt = bs) ∧ VecFrame [] none (fun k => k ∈ ks) s t
  (h.win n.toNat = none ∨ h.status.placed = false → quiet (.lineArrival n m) ∧ quiet (.residencyPrefetch n m) ∧ quiet (.earlyWriteback n m))
  ∧ ∀ w, h.win n.toNat = some w →
    (∀ p, w.pend.filter (fun q => w.lineOf (w.slot q.coord) == m) = [p] → w.held (w.slot p.coord) = false → h.status.placed = true →
      let rest : Window := { w with pend := w.pend.filter (fun q => !(w.lineOf (w.slot q.coord) == m)) }
      let dst := h.slotKeys w (w.slot p.coord)
      (w.d.mode = .w → wins (.lineArrival n m) rest dst (leBytes w.esize w.d.fill.toNat))
      ∧ ∀ ks, w.d.mode ≠ .w → Resident s (h.wnAcc .read) (w.va p.coord) w.esize ks → Clean s ks → Seen s h.id pathWN ks →
        wins (.lineArrival n m) rest dst (s.pathBytes pathWN ks))
    ∧ ((h.prefetchDelta w = none ∨ m = 0 ∨ w.d.pd < m) → quiet (.residencyPrefetch n m))
    ∧ (∃ t pre, exec (.residencyPrefetch n m) s = .next t ∧ t.hart = { h with wins := h.wins.set n.toNat (some { w with pre := pre }) }
      ∧ ∀ c, c ∈ coordsIn w.box → ∀ k, k ∈ h.slotKeys w (w.slot c) → t.byteAt k = s.byteAt k)
    ∧ (∀ k p (keys : List Int → List Nat), h.prefetchDelta w = some (k, p) → 1 ≤ m → m ≤ w.d.pd → h.status.placed = true →
      let next := coordsIn (clipped w (lowerBounds w.d (h.ctrs.set k (ctrAt h.ctrs k + m * p))))
      let used := (coordsIn w.box).map w.slot ++ w.pend.map (fun q => w.slot q.coord) ++ w.faults.map RecFault.slot ++ w.pre.map w.slot
      let brings (c : List Int) : Prop := c ∈ next ∧ w.slot c ∉ used
      (∀ c, brings c → Resident s (h.wnAcc .read) (w.va c) w.esize (keys c) ∧ Clean s (keys c) ∧ Seen s h.id pathWN (keys c)
        ∧ ∀ k, k ∈ keys c → s.inBoundWindow k = false ∧ ∀ c', brings c' → ∀ k', k' ∈ h.slotKeys w (w.slot c') → k / 4 ≠ k' / 4) →
      ∃ t pre, exec (.residencyPrefetch n m) s = .next t ∧ t.hart = { h with wins := h.wins.set n.toNat (some { w with pre := pre }) } ∧ (∀ c, c ∈ pre ↔ c ∈ w.pre ∨ brings c)
        ∧ ((∀ c c', brings c → brings c' → c ≠ c' → w.slot c ≠ w.slot c') → ∀ c, brings c → (h.slotKeys w (w.slot c)).map t.slotByte = s.pathBytes pathWN (keys c))
        ∧ VecFrame [] none (fun k => ∃ c, brings c ∧ k ∈ h.slotKeys w (w.slot c)) s t)
    ∧ (w.dirty.find? (fun c => w.slot c == m) = none → quiet (.earlyWriteback n m))
    ∧ ∀ c ks, w.dirty.find? (fun c => w.slot c == m) = some c → w.faults = [] → h.status.placed = true →
      Resident s (h.wnAcc .write) (w.va c) w.esize ks → Clean s (h.slotKeys w m) → (∀ k, k ∈ ks → (isChamber k = false → s.flawed k = false) ∧ s.mismatch k = false) → Seen s h.id pathWN ks →
      wins (.earlyWriteback n m) { w with dirty := w.dirty.filter (fun e => e != c) } ks (s.pathData pathWN ks ((h.slotKeys w m).map s.slotByte))

/-! The matrix unit. -/

/-- R314, R315, R318, R329: `mxon` with a legal configuration gives the unit to a hart that holds it or finds it free and stands first in line, else the hart waits in line;
MATRIX_ACQUIRE tries again; `mxoff` releases it; `mzero` zeroes one tile. -/
def Obligations.MatrixUnit : Prop := ∀ (s : State) (g : GReg) (d : Fld6),
  let h := s.hart
  let v := (s.gr g).toNat
  let u := s.ownMx
  let line := if u.queue.contains h.id then u.queue else u.queue ++ [h.id]
  let does (i : Instr) (mxf mxl : W64) (w : MxUnit) : Prop := ∃ t, exec i s = .next t ∧ PastBy s t 4 ∧ t.hart.csr = { h.csr with mxf := mxf, mxl := mxl, estart := 0 }
    ∧ t.ownMx = w ∧ (∀ c, c ≠ h.core → t.mxUnit c = s.mxUnit c)
    ∧ { t with hart := { t.hart with pc := h.pc, wait := h.wait, csr := h.csr }, mxs := s.mxs, wr := s.wr, groups := s.groups } = s
  let enters (i : Instr) : Prop := Ready i s →
    (mxConfigOk v = false → Traps i s 0x02 0 2)
    ∧ (mxConfigOk v = true → u.holder = some h.id → does i (BitVec.ofNat 64 (0x80 + v % 64)) (BitVec.ofNat 64 (v / 256 % 128)) u)
    ∧ (mxConfigOk v = true → u.holder = none → line.head? = some h.id →
      does i (BitVec.ofNat 64 (0x80 + v % 64)) (BitVec.ofNat 64 (v / 256 % 128)) { u with holder := some h.id, queue := line.tail, cells := [] })
    ∧ (mxConfigOk v = true → u.holder ≠ some h.id → (u.holder ≠ none ∨ line.head? ≠ some h.id) → ∃ t, exec i s = .next t ∧ t.hart.wait = .mxon g ∧ t.hart.pc = h.pc
      ∧ t.ownMx = { u with queue := line } ∧ { t with hart := { t.hart with wait := h.wait }, mxs := s.mxs, wr := s.wr, groups := s.groups } = s)
  enters (.mxon g) ∧ (h.wait = .mxon g → enters .matrixAcquire) ∧ ((∀ r, h.wait ≠ .mxon r) → exec .matrixAcquire s = .next s)
  ∧ (Ready .mxoff s → does .mxoff 0 0 (if u.holder = some h.id then { u with holder := none } else u))
  ∧ (Ready (.mzero d) s → h.csr.mxLegal → VecDoes (.mzero d) s (fun _ => False) (fun t => t.hart.wins = h.wins ∧ t.hart.strs = h.strs ∧ UnitKeeps s t (fun x _ _ => x = d.toNat)
    ∧ ∀ r c, h.csr.inTile d.toNat r c → t.ownMx.tile h.csr d.toNat r c = 0))

/-- R330, R331, R332: `mrd` reads a row of a tile into a vector register or one cell into a scalar register, `mwr` writes a row, and `mld` and `mst` move the used square of a
tile from and to memory. -/
def Obligations.MatrixMoves : Prop := ∀ (s : State) (mk : Bool) (g : GReg) (a d : Fld6) (r : GReg),
  let h := s.hart
  let acc := accTag h.csr.mxFmt
  let n := h.csr.mxLen
  let row := (s.gr g).toNat
  let same (t : State) : Prop := t.hart.wins = h.wins ∧ t.hart.strs = h.strs
  let cellAt (e : Nat) : W64 := s.gr g + BitVec.ofNat 64 (e / n) * s.gr r + BitVec.ofNat 64 (e % n * acc.bytes)
  let used (e : Nat) : Prop := h.csr.estart.toNat ≤ e ∧ e < n * n
  h.csr.mxLegal →
  (Ready (.mrdV mk g a d) s → row < n → h.csr.vlN ≤ n → h.opTag (h.vop d) = acc → h.wholeOk d = true → (∀ v, infoOf (.mrdV mk g a d) h = some v → WindowsApart s (v.reads ++ v.writes)) →
    VecDoes (.mrdV mk g a d) s (fun _ => False) (fun t => same t ∧ t.mxs = s.mxs ∧ ∀ c, Works s mk c → t.codeOf (h.vop d) acc c = s.ownMx.tile h.csr a.toNat row c))
  ∧ (Ready (.mrdG g a r) s → row % 64 < n → row / 256 % 64 < n → row / 64 % 4 = 0 → row < 2 ^ 14 → VecDoes (.mrdG g a r) s (fun _ => False) (fun t => same t ∧ t.mxs = s.mxs
    ∧ (r = 0 → t.gr r = 0) ∧ (r ≠ 0 → t.gr r = if acc = .i32 then (BitVec.ofNat 32 (s.ownMx.tile h.csr a.toNat (row % 64) (row / 256 % 64))).signExtend 64
        else BitVec.ofNat 64 (s.ownMx.tile h.csr a.toNat (row % 64) (row / 256 % 64)))))
  ∧ (Ready (.mwr mk g a d) s → row < n → h.csr.vlN ≤ n → h.opTag (h.vop a) = acc → h.wholeOk a = true → VecDoes (.mwr mk g a d) s (fun _ => False) (fun t => same t
    ∧ UnitKeeps s t (fun x y c => x = d.toNat ∧ y = row ∧ Works s mk c) ∧ ∀ c, Works s mk c → t.ownMx.tile h.csr d.toNat row c = s.codeOf (h.vop a) acc c))
  ∧ (∀ keys : Nat → List Nat, Ready (.mld g r d) s → (∀ e, used e → (cellAt e).toNat % acc.bytes = 0 ∧ Resident s (h.acc .read false) (cellAt e) acc.bytes (keys e) ∧ Seen s h.id pathLS (keys e)) →
    VecDoes (.mld g r d) s (fun _ => False) (fun t => same t ∧ UnitKeeps s t (fun x y c => x = d.toNat ∧ ∃ e, used e ∧ y = e / n ∧ c = e % n)
      ∧ ∀ e, used e → t.ownMx.tile h.csr d.toNat (e / n) (e % n) = leNat (s.pathBytes pathLS (keys e))))
  ∧ (∀ keys : Nat → List Nat, Ready (.mst g r d) s → (∀ e, used e → (cellAt e).toNat % acc.bytes = 0 ∧ Resident s (h.acc .write false) (cellAt e) acc.bytes (keys e)
      ∧ Seen s h.id pathLS (keys e)) →
    VecDoes (.mst g r d) s (fun k => ∃ e, used e ∧ k ∈ keys e) (fun t => same t ∧ t.mxs = s.mxs
      ∧ ((∀ e e' k, used e → used e' → e ≠ e' → k ∈ keys e → k ∉ keys e') →
        ∀ e, used e → (keys e).map t.byteAt = s.pathData pathLS (keys e) (leBytes acc.bytes (s.ownMx.tile h.csr d.toNat (e / n) (e % n))))))

/-- R319, R321, R322, R323, R324, R327: an outer product whose operands have the unit's format changes the used square of its tile and the flags, and nothing else. Step by step, or
by two steps at once in the formats of one byte or less, each cell takes the exact sum of itself and the products of the active elements of its row and its column, or under `xps`
their negatives, with one rounding under FRM, and RNE for SR; `xpa.s` scales its elements by their block's word. The integer one adds the products modulo 2^32. A peer operand is
read on path MX. That an exact zero sum is -0 under RDN is log entry 28 (PRESUMED). -/
def Obligations.OuterProducts : Prop := ∀ (s : State) (cv mk pb pa : Bool) (b a d : Fld6),
  let h := s.hart
  let f := h.csr.mxFmt
  let n := h.csr.mxLen
  let operand (scaled peer : Bool) (o : Fld6) : Prop :=
    let w := (s.gr (o.setWidth 5)).toNat
    if peer then w / 2 ^ 33 = 0 ∧ w / 2 ^ 27 % 64 = h.die ∧ w % 2 ^ 23 + h.csr.vlN * f.bytes ≤ 0x600000 ∧ w % 2 ^ 23 % f.bytes = 0
    else h.opTag (h.vop o) = f ∧ h.wholeOk o = true ∧ (scaled = true → h.scaledOk (h.vop o) = true)
  let runs (i : Instr) (ok scaled pb pa : Bool) (P : State → Prop) : Prop := Ready i s → h.csr.mxLegal → h.csr.vlN % n = 0 → ok = true → operand scaled pa a → operand scaled pb b →
    VecDoes i s (fun _ => False) (fun t => t.hart.wins = h.wins ∧ t.hart.strs = h.strs ∧ UnitKeeps s t (fun x r c => x = d.toNat ∧ r < n ∧ c < n) ∧ P t)
  let steps := h.csr.vlN / n
  let on (r c j : Nat) : Bool := s.active mk (j * n + r) && s.active mk (j * n + c)
  let peerKeys (o : Fld6) (i : Nat) : List Nat :=
    let w := (s.gr (o.setWidth 5)).toNat
    (List.range f.bytes).map (fun k => chamberKey (chamberAddr (w / 2 ^ 23 % 1024) (w % 2 ^ 23 + i * f.bytes + k)))
  let code (peer : Bool) (o : Fld6) (i : Nat) : Nat := if peer then leNat (s.pathBytes pathMX (peerKeys o i)) else s.codeOf (h.vop o) f i
  let seen (peer : Bool) (o : Fld6) : Prop := peer = true → ∀ i, i < h.csr.vlN → Seen s h.id pathMX (peerKeys o i)
  let plain (peer : Bool) (o : Fld6) (i : Nat) : Val := f.decode h.csr.ftz (code peer o i)
  let scaled (o : Fld6) (i : Nat) : Val :=
    let w := s.codeOf (h.vop o).scale .bxs (if f.isBx then i / 32 else i / h.csr.bsz)
    if f.isBx then bxVal f w (code false o i) else if w % 256 = 255 ∨ w / 256 % 256 = 255 then .nan else (plain false o i).scale ((w % 256 : Nat) - 127)
  let cell (sub : Bool) (x y : Nat → Val) (r c : Nat) : Nat :=
    let acc := accTag f
    let p := if f.bytes = 1 then 2 else 1
    (List.range ((steps + p - 1) / p)).foldl (fun k q =>
      let ss := ((List.range p).map (fun i => q * p + i)).filter (fun j => decide (j < steps) && on r c j)
      if ss.isEmpty then k
      else
        let v := ss.foldl (fun v j => let m := ((x (j * n + r)).mul (y (j * n + c))).1; (v.add (h.csr.mode == 2) (if sub then m.neg else m)).1) (acc.decode h.csr.ftz k)
        (acc.fmt.round (if h.csr.mode = 5 then (h.csr.rnd 0).rne else h.csr.rnd 0) v).code) (s.ownMx.tile h.csr d.toNat r c)
  let cells (sub : Bool) (x y : Nat → Val) (t : State) : Prop := ∀ r c, r < n → c < n → t.ownMx.tile h.csr d.toNat r c = cell sub x y r c
  let term (j r c : Nat) : Int := if on r c j then f.intOf (code pa a (j * n + r)) * f.intOf (code pb b (j * n + c)) else 0
  runs (.xpa cv mk pb pa b a d) f.isFloat false pb pa (fun t => seen pa a → seen pb b → cells false (plain pa a) (plain pb b) t)
  ∧ runs (.xps cv mk pb pa b a d) f.isFloat false pb pa (fun t => seen pa a → seen pb b → cells true (plain pa a) (plain pb b) t)
  ∧ runs (.xpaI cv mk pb pa b a d) (f == .u8 || f == .i8 || f == .u16 || f == .i16) false pb pa (fun t => seen pa a → seen pb b → ∀ r c, r < n → c < n →
    (t.ownMx.tile h.csr d.toNat r c : Int) = ((s.ownMx.tile h.csr d.toNat r c : Int) + ((List.range steps).map (fun j => term j r c)).sum) % 2 ^ 32)
  ∧ runs (.xpaS cv mk b a d) (f.isBx || f == .e4m3 || f == .e5m2) true false false (cells false (scaled a) (scaled b))

/-! Engines. -/

/-- R333, R334, R335: `enq` with one record takes it to the engine where the engine has room, with the address space, the mode and the hart it came from, and marks its 16
mask elements; a record that is turned away, and one whose element 0 is inactive, leaves 0 there; a record with a bad header is ENGINE and is not taken. Whether the engine has room, and how many of the hart's records have left the EQ, are free choices (log entry 8). -/
def Obligations.Enqueue : Prop := ∀ (s : State) (mk : Bool) (a d : Fld6) (v : VInfo),
  let h := s.hart
  let o := h.vop a
  let x := h.opTag o
  let c : Command := { bytes := BitVec.ofNat 512 (leNat ((List.range 16).flatMap (fun i => leBytes 4 (s.codeOf o x i)))), part := h.part, asid := h.asid, die := h.die, hart := h.id
                       gang := h.gang, user := !h.sup, mark := s.fences }
  let room (s : State) : Prop := s.choose.1 = 0 ∧ (s.engines.filter (fun e => e.hart == h.id)).length - s.choose.2.choose.1 < Config.eqDepth
  let ends (mark : Nat) (engines : List Command) (choices : List Nat) : Prop := ∃ t, exec (.enq mk a d) s = .next t ∧ PastBy s t 4 ∧ t.hart.csr.estart = 0
    ∧ t.hart.lastDest = h.lastDest ∧ t.engines = engines ∧ t.choices = choices ∧ t.mxs = s.mxs ∧ t.hart.wins = h.wins ∧ t.hart.strs = h.strs
    ∧ (∀ i, i < 16 → t.maskOf d.toNat i = mark) ∧ VecFrame v.writes none (fun _ => False) s { t with engines := s.engines, choices := s.choices }
  infoOf (.enq mk a d) h = some v → Ready (.enq mk a d) s → (x = .u32 ∨ x = .i32 ∨ x = .f32) → h.groupOk o x = true → h.csr.vlN = 16 → h.csr.estart = 0 → WindowsApart s (v.reads ++ v.writes) →
  (s.active mk 0 = false → ends 0 s.engines s.choices)
  ∧ (s.active mk 0 = true → enqBad c.user c = none → room s → ends 0x8000 (s.engines ++ [c]) s.choose.2.choose.2.choices)
  ∧ (s.active mk 0 = true → enqBad c.user c = none → ¬ room s → ends 0 s.engines s.choose.2.choose.2.choices)
  ∧ (∀ sub, s.active mk 0 = true → enqBad c.user c = some sub →
    ∃ u, Ordered s u ∧ exec (.enq mk a d) s = .next (u.endWrites.takeTrap { cause := causeEngine, tval := BitVec.ofNat 64 sub, elem := some 0, queue := 4, fatal := false }))

/-- R336, R337, R338, R342, R343, R344: COPY copies its bytes and counts them; COPYT writes each element of its tile, scaled and rounded, or zero where the tensor has none,
and counts the saturated ones and the zeros; FPRINT counts its words and gives their sum and their rotated exclusive or. -/
def Obligations.CopyCommands : Prop := ∀ (s : State) (c : Command) (kw : List Nat), c.canEnd s pathCP c.die kw →
  let u := s.dropCommand c
  let reads (va : W64) (n : Nat) (ks : List Nat) : Prop := Spans u (c.acc c.site .read) va n ks ∧ Clean s ks ∧ ∀ k, k ∈ ks → s.unbound pathCP k
  let writes (va : W64) (n : Nat) (ks : List Nat) : Prop := Spans u (c.acc c.site .write) va n ks ∧ ∀ k, k ∈ ks → s.unbound pathCP k ∧ k ∉ kw
  (∀ ks kd, c.fld 0x20 8 ≤ 2 ^ 40 → c.fld 0x28 24 = 0 → reads (c.va 0x10) (c.fld 0x20 8) ks → writes (c.va 0x18) (c.fld 0x20 8) kd → (∀ k, k ∈ kd → k ∉ ks) →
    EndsWith (.copy c) c s s kw 1 0 0 (c.fld 0x20 8) 0 (fun k => k ∈ kd) (fun t => kd.map t.byteAt = ks.map s.byteAt))
  ∧ (∀ (T : Tdesc) (x : Tag) (kt : List Nat) (ke kd : Nat → List Nat),
    let cols := c.fld 0x28 2
    let rows := c.fld 0x2A 2
    let opt := c.fld 0x2D 1
    let n := rows * cols
    let col (e : Nat) : Int := (BitVec.ofNat 32 (c.fld 0x20 4)).toInt + (e % cols : Nat)
    let row (e : Nat) : Int := (BitVec.ofNat 32 (c.fld 0x24 4)).toInt + (e / cols : Nat)
    let inside (e : Nat) : Bool := decide (0 ≤ col e) && decide (col e < T.dims.getD 0 1) && decide (0 ≤ row e) && decide (row e < T.dims.getD 1 1)
    let place (e : Nat) : W64 := c.va 0x18 + BitVec.ofInt 64 (if opt % 2 = 1 then (e % cols : Nat) * c.sfld 0x30 + (e / cols : Nat) * (x.bytes : Int)
      else (e / cols : Nat) * c.sfld 0x30 + (e % cols : Nat) * (x.bytes : Int))
    let out (e : Nat) : Rounded := x.round { mode := opt / 2 % 8, ieee := bit opt 4, ftz := false, draw := 0 }
      ((T.tag.decode false (leNat ((ke e).map s.byteAt))).mul (ff32.decode false (c.fld 0x38 4))).1
    c.fld 0x10 8 % 64 = 0 → 1 ≤ cols → cols ≤ 4096 → 1 ≤ rows → rows ≤ 4096 → tagOf (c.fld 0x2C 1) = some x → (x.isInt || x.isFloat || x == .p16) = true → opt / 2 % 8 ≤ 4 → opt < 32 →
    c.fld 0x2E 2 = 0 → c.fld 0x3C 4 = 0 → reads (c.va 0x10) 64 kt → parseTdesc (kt.map s.byteAt) = some T → T.rank ≤ 2 → srcOk true true T.tag = true →
    (∀ e, e < n → writes (place e) x.bytes (kd e) ∧ (inside e = true →
      reads (T.base + BitVec.ofInt 64 (col e * T.strides.getD 0 0 + row e * T.strides.getD 1 0)) T.tag.bytes (ke e))) →
    (∀ e e' k, e < n → e' < n → k ∈ kd e → (e ≠ e' → k ∉ kd e') ∧ k ∉ ke e') →
    EndsWith (.copyt c) c s s kw 1 0 0 n
      (((List.range n).filter (fun e => inside e && (out e).sat)).length + ((List.range n).filter (fun e => !inside e)).length * 2 ^ 32)
      (fun k => ∃ e, e < n ∧ k ∈ kd e) (fun t => ∀ e, e < n → (kd e).map t.byteAt = leBytes x.bytes (if inside e then (out e).code else 0)))
  ∧ (∀ ks, c.fld 0x10 8 % 4 = 0 → c.fld 0x18 8 % 4 = 0 → c.fld 0x18 8 ≤ 2 ^ 34 → c.fld 0x20 32 = 0 → reads (c.va 0x10) (c.fld 0x18 8) ks →
    let n := c.fld 0x18 8 / 4
    let word (i : Nat) : Nat := fieldAt (ks.map s.byteAt) (4 * i) 4
    EndsWith (.fprint c) c s s kw 1 0 0 n
      (((List.range n).map word).sum % 2 ^ 32 + ((List.range n).foldl (fun (y : W32) i => y ^^^ (BitVec.ofNat 32 (word i)).rotateLeft (i % 32)) 0).toNat * 2 ^ 32)
      (fun _ => False) (fun _ => True))

/-- R345, R348, R349, R350: DECODE of an empty stream, and of one whole chunk, writes the decoded bytes and counts them and the chunk; where the watchdog cuts the
first chunk, what it emitted stands at the destination, COUNT is its length and AUX names the chunk's header. When the watchdog cuts is
an event, and AUX of a cut is deduced (log entry 66). -/
def Obligations.DecodeCommands : Prop := ∀ (s : State) (c : Command) (kw : List Nat) (chunks emitted : Nat), c.canEnd s pathCP c.die kw →
  let u := s.dropCommand c
  let src := c.va 0x10
  let slen := c.fld 0x18 8
  let fmt := c.fld 0x2C 1
  let wd := if c.fld 0x34 4 = 0 then 65536 else c.fld 0x34 4
  let reads (va : W64) (n : Nat) (ks : List Nat) : Prop := Spans u (c.acc c.site .read) va n ks ∧ Clean s ks ∧ ∀ k, k ∈ ks → s.unbound pathCP k
  let both (P : Instr → Prop) : Prop := P (.decode c) ∧ (0 < chunks ∨ c.wdog = false → P (.decodeWatchdogCut c chunks emitted))
  c.fld 0x10 8 % 16 = 0 → slen % 16 = 0 → fmt ≤ 1 → c.fld 0x2D 3 = 0 → (c.wdog = true → c.fld 0x34 4 ≤ 65536) → c.fld 0x38 8 = 0 →
  (slen = 0 → both (fun i => EndsWith i c s s kw 1 0 0 0 0 (fun _ => False) (fun _ => True)))
  ∧ ∀ kh kp kd k bs, reads src 16 kh → parseChunk fmt (kh.map s.byteAt) = some k → reads (src + 16) k.clen kp → slen = k.length → k.xlen ≤ c.fld 0x28 4 →
    Spans u (c.acc c.site .write) (c.va 0x20) bs.length kd → (∀ e, e ∈ kd → s.unbound pathCP e ∧ e ∉ kw ∧ e ∉ kh ∧ e ∉ kp) →
    (decodeChunk fmt k (kp.map s.byteAt) (if c.wdog then wd else k.xlen + 1) = (bs, none) → both (fun i => EndsWith i c s s kw 1 0 0 bs.length 1 (fun e => e ∈ kd) (fun t =>
      kd.map t.byteAt = bs)))
    ∧ (c.wdog = true → chunks = 0 → decodeChunk fmt k (kp.map s.byteAt) (Nat.min wd emitted) = (bs, some 11) →
      EndsWith (.decodeWatchdogCut c chunks emitted) c s s kw 3 causeStream.toNat 11 bs.length src.toNat (fun e => e ∈ kd) (fun t => kd.map t.byteAt = bs))

/-- R351, R352: TOPK of one block writes the pairs of the k largest magnitudes, lowest index first, and leaves zero for them and the sum for the others; RING adds its
contributions in order and writes the result. AUX of TOPK is left open here (log entry 64). -/
def Obligations.TopkAndRing : Prop := ∀ (s : State) (c : Command) (kw : List Nat),
  let u := s.dropCommand c
  let last := c.order.getLast?.getD c.die
  let reads (path die : Nat) (va : W64) (n : Nat) (ks : List Nat) : Prop := Spans u (c.acc die .read) va n ks ∧ Clean s ks ∧ ∀ k, k ∈ ks → s.unbound path k
  let writes (path die : Nat) (va : W64) (n : Nat) (ks : List Nat) : Prop := Spans u (c.acc die .write) va n ks ∧ ∀ k, k ∈ ks → s.unbound path k ∧ k ∉ kw
  (∀ ka kb ko, let n := c.fld 0x18 4
    let k := c.fld 0x1E 2
    let e (i : Nat) : Nat := topkSum (fieldAt (ka.map s.byteAt) (4 * i) 4) (fieldAt (kb.map s.byteAt) (4 * i) 4)
    let size (i : Nat) : Nat := e i % 2 ^ 31
    let kept (i : Nat) : Bool := decide (((List.range n).filter (fun j => decide (size i < size j) || (size i == size j && decide (j < i)))).length < k)
    let best := (List.range n).filter kept
    c.canEnd s pathCP c.die kw → c.fld 0x10 8 % 4 = 0 → 1 ≤ n → n ≤ c.fld 0x1C 2 → c.fld 0x1C 2 ≤ 4096 → 1 ≤ k → k ≤ c.fld 0x1C 2 → c.fld 0x20 8 % 8 = 0 → c.fld 0x28 8 % 4 = 0 → c.fld 0x30 16 = 0 →
    reads pathCP c.site (c.va 0x10) (4 * n) ka → reads pathCP c.site (c.va 0x28) (4 * n) kb → writes pathCP c.site (c.va 0x28) (4 * n) kb → writes pathCP c.site (c.va 0x20) (8 * best.length) ko →
    (∀ j, j ∈ ko → j ∉ kb) →
    ∃ aux, EndsWith (.topk c) c s s kw 1 0 0 best.length aux (fun j => j ∈ ko ∨ j ∈ kb) (fun t => ko.map t.byteAt = best.flatMap (fun i => leBytes 4 i ++ leBytes 4 (e i))
      ∧ kb.map t.byteAt = (List.range n).flatMap (fun i => leBytes 4 (if kept i then 0 else e i))))
  ∧ (∀ (ks : Nat → List Nat) kd, let n := c.fld 0x30 4
    let part (j : Nat) : List Nat := (List.range n).map (fun i => fieldAt ((ks j).map s.byteAt) (4 * i) 4)
    let total : List Nat := (List.range (c.order.length - 1)).foldl (fun p j => List.zipWith (fp32Add false) p (part (j + 1))) (part 0)
    c.canEnd s pathNT last kw → 2 ≤ c.order.length → (∀ d, d ∈ c.order → d < 64 ∧ s.ownsDie c.part d = true) → c.order.Nodup → c.fld 0x18 8 % 4 = 0 → c.fld 0x28 8 % 4 = 0 → 1 ≤ n → n ≤ 65536 →
    c.fld 0x34 12 = 0 → (∀ j, j < c.order.length → reads pathNT (c.order.getD j c.die) (c.va 0x18 + BitVec.ofInt 64 (j * c.sfld 0x20)) (4 * n) (ks j)) → writes pathNT last (c.va 0x28) (4 * n) kd →
    EndsWith (.ring c) c s s kw 1 0 0 n 0 (fun k => k ∈ kd) (fun t => kd.map t.byteAt = total.flatMap (leBytes 4)))

/-- R353, R354, R415: SRD and SWR with a record that passes its checks, on a namespace its partition is granted, go to the drive in its
blocks; a drive's completion ends the oldest of them: with its status, or with the data of a plain read placed, or with the write done. That commands wait at the drive in
order, and that COUNT is 0 where the drive's status is not, are the model's choice (log entry 67). -/
def Obligations.StorageCommands : Prop := ∀ (s : State) (c : Command) (m : Namespace),
  let u := s.dropCommand c
  let legal (fmts : Nat) : Prop := c.headerOk ∧ c.fld 0x10 1 ≤ 1 ∧ c.fld 0x11 3 = 0 ∧ s.usable c = some m ∧ 1 ≤ c.fld 0x20 4 ∧ c.fld 0x20 4 ≤ 65536 ∧ c.fld 0x24 4 = 0
    ∧ c.fld 0x28 8 % 4 = 0 ∧ c.fld 0x30 1 ≤ fmts ∧ c.fld 0x31 3 = 0 ∧ (c.fld 0x30 1 ≠ 0 → c.fld 0x3C 4 ≤ 65536)
  let sent : State := { u with drives := u.drives ++ [{ c with block := m.block }], wr := [], groups := [] }
  (legal 2 → exec (.srd c) s = .next sent)
  ∧ (∀ ks, legal 0 → c.settled s pathSG → Spans u (c.acc c.site .read) (c.va 0x28) (c.fld 0x20 4 * m.block) ks → Clean s ks →
    (∀ k, k ∈ ks → s.inBoundWindow k = false) → ∃ t, Ordered sent t ∧ exec (.swr c) s = .next t)
  ∧ ∀ (sct sc : Nat) (data : List Byte) (cut : Option (Nat × Nat)), (s.drives = [] → exec (.driveCompletion sct sc ⟨data, cut⟩) s = .next s.endWrites)
    ∧ ∀ rest kw, s.drives = c :: rest →
      let r : State := { s with drives := rest }
      c.settled s pathSG → Spans r (c.acc (portDie (c.fld 0x10 1)) .write) c.cwa 16 kw → (∀ k, k ∈ kw → s.unbound pathSG k) →
      let ends (status cause sub count : Nat) (out : Nat → Prop) (P : State → Prop) : Prop := ∃ aux, EndsFrom (.driveCompletion sct sc ⟨data, cut⟩) s r kw status cause sub count aux out P
      (sct ≠ 0 ∨ sc ≠ 0 → EndsFrom (.driveCompletion sct sc ⟨data, cut⟩) s r kw 2 causeEngine.toNat (sc % 256) 0 (sct % 8 * 256) (fun _ => False) (fun _ => True))
      ∧ (sct = 0 → sc = 0 → c.type = 8 → ends 1 0 0 (c.fld 0x20 4) (fun _ => False) (fun _ => True))
      ∧ ∀ kd, sct = 0 → sc = 0 → c.type = 7 → c.fld 0x30 1 = 0 → data.length = c.fld 0x20 4 * c.block → Spans r (c.acc c.site .write) (c.va 0x28) data.length kd →
        (∀ k, k ∈ kd → s.unbound pathSG k ∧ k ∉ kw) → ends 1 0 0 (c.fld 0x20 4) (fun k => k ∈ kd) (fun t => kd.map t.byteAt = data)

/-- R336, R355, R356, R362, R364, R366, R367, R368, R411: FLCFG, which ends on the die of the array it names, with IMG = 0 empties its slots; with an image that passes it loads them, a stream graph bound to the pages of the named die, and counts its arrays; FLRUN of a row
graph that takes no operand row and gives no second output replaces each row by what the graph makes of its elements, and counts the rows, the saturated elements and the NaNs. The order of rows and elements is deduced (log entry 61). -/
def Obligations.FlowCommands : Prop := ∀ (s : State) (c : Command) (kw : List Nat),
  let u := s.dropCommand c
  let ctrls := if c.fld 0x19 1 = 0xFF then [0, 1, 2, 3] else [c.fld 0x19 1]
  let others := s.flow.filter (fun f => !(f.die == c.fld 0x18 1 && ctrls.contains f.ctrl && f.slot == c.fld 0x1A 1))
  let legal : Prop := c.fld 0x10 8 % 64 = 0 ∧ c.fld 0x18 1 < 64 ∧ s.ownsDie c.part (c.fld 0x18 1) = true ∧ (c.fld 0x19 1 ≤ 3 ∨ c.fld 0x19 1 = 0xFF) ∧ c.fld 0x1A 1 ≤ 7 ∧ c.fld 0x1B 37 = 0
  let loads (i : Instr) (flow : List FSlot) : Prop := EndsWith i c s { s with flow := flow } kw 1 0 0 ctrls.length 0 (fun _ => False) (fun _ => True)
  let configures : Prop := c.canEnd s pathFL c.site kw ∧ legal
  (configures → loads (.flcfgEmpty c) others ∧ (c.fld 0x10 8 = 0 → loads (.flcfg c) others))
  ∧ (∀ ki kp, configures → c.fld 0x10 8 ≠ 0 → Spans u (c.acc c.site .read) (c.va 0x10) 8192 ki → Clean s ki → (∀ k, k ∈ ki → s.unbound pathFL k) →
    let image := ki.map s.byteAt
    let g := parseGraph image
    let pages := if g.kind = 0 then [] else ((List.range (fieldAt image 0x10 8 / 4096)).map (fun j => kp.getD (4096 * j) 0)).filter (fun k => k / 2 ^ 41 == 0 && bits k 35 6 == c.fld 0x18 1)
    imageBad image = none → (g.kind ≠ 0 → Spans u (c.acc c.site (if g.kind = 1 then .read else .write)) (BitVec.ofNat 64 (fieldAt image 8 8)) (fieldAt image 0x10 8) kp) →
    s.clash c g.kind pages = false →
    loads (.flcfg c) (ctrls.map (fun k => { die := c.fld 0x18 1, ctrl := k, slot := c.fld 0x1A 1
                                            graph := { g with bound := (pages.filter (fun p => p / 4096 % 4 == k)).map (fun p => (p, 4096)) } }) ++ others))
  ∧ (∀ (g : Graph) (ks : Nat → List Nat), let n := c.fld 0x18 4
    let w := g.mfmt.bytes
    let row (r : Nat) : List (FEnv × Bool) := g.evalRow [] ((List.range (c.fld 0x1C 4 / w)).map (fun j =>
      { x := fieldAt ((ks r).map s.byteAt) (j * w) w, p0 := 0, p1 := 0, r := r, j := j, vals := [] }))
    let code (e : FEnv × Bool) : Nat := e.1.vals.getD g.outw 0
    let nan (e : FEnv × Bool) : Bool := !g.mfmt.isInt && (g.mfmt.decode false (code e)).isNan
    c.canEnd s pathFL c.die kw → 1 ≤ n → n ≤ 2 ^ 24 → c.fld 0x1C 4 % 4 = 0 → 4 ≤ c.fld 0x1C 4 → c.fld 0x1C 4 ≤ 4096 → (n ≤ 1 ∨ c.fld 0x1C 4 ≤ (c.sfld 0x20).natAbs) → c.fld 0x28 1 ≤ 7 → c.fld 0x29 1 ≤ 1 →
    c.fld 0x2A 6 = 0 → c.fld 0x30 8 = 0 → c.fld 0x38 8 = 0 → g.kind = 0 → g.reads 0x41 = false → g.reads 0x42 = false → g.out1 = none → c.fld 0x1C 4 % w = 0 →
    (∀ r, r < n → (c.row 0x10 r).toNat % 4096 + c.fld 0x1C 4 ≤ 4096 ∧ Spans u (c.acc c.site .read) (c.row 0x10 r) (c.fld 0x1C 4) (ks r)
      ∧ Spans u (c.acc c.site .write) (c.row 0x10 r) (c.fld 0x1C 4) (ks r) ∧ Clean s (ks r) ∧ s.slotGraph ((ks r).head?.bind arrayOf) (c.fld 0x28 1) = some g
      ∧ ∀ k, k ∈ ks r → k ∉ kw) →
    (∀ r r' k, r < n → r' < n → r ≠ r' → k ∈ ks r → k ∉ ks r') →
    EndsWith (.flrun c) c s s kw 1 0 0 n
      (((List.range n).map (fun r => ((row r).filter (fun e => e.2)).length)).sum % 2 ^ 32 + ((List.range n).map (fun r => ((row r).filter nan).length)).sum % 2 ^ 32 * 2 ^ 32)
      (fun k => ∃ r, r < n ∧ k ∈ ks r) (fun t => ∀ r, r < n → (ks r).map t.byteAt = (row r).flatMap (fun e => leBytes w (code e))))

/-! Schedulers. -/

/-- R185, R371, R374, R375, R376: a queued gang becomes ready when all its wait words hold, and ends with the fault of a word that cannot be read; one that was ready before
keeps the cycles it has waited, though not those in which its words did not hold; a waiting gang's effective priority number falls, and a placed gang's rises towards its own, once in 2^20 cycles; a gang whose budget is spent is asked to halt; preloading changes nothing. Cycles pass only by turns (log entry 10), and that preloading
has no effect is deduced (log entry 54). Time is that of the gang's home die (R420). -/
def Obligations.GangReadiness : Prop := ∀ (s : State) (id : Nat),
  let same (i : Instr) : Prop := exec i s = .next s
  let sets (i : Instr) (g : Gang) : Prop := ∃ t, exec i s = .next t ∧ t.gangOf id = some g ∧ (∀ n, n ≠ id → t.gangOf n = s.gangOf n) ∧ { t with gangs := s.gangs } = s
  same (.nextPreload id)
  ∧ (s.gangOf id = none → same (.priorityAging id) ∧ same (.priorityRise id) ∧ same (.budgetOverrun id) ∧ exec (.gangReady id) s = .next s.endWrites)
  ∧ ∀ g, s.gangOf id = some g →
    let due : Prop := g.since + 2 ^ 20 ≤ s.ticksOf g.record.home
    let waits : Prop := g.status = .ready ∨ g.status = .requeued
    let holds (w : W64 × W32 × Nat) (x : W32) : Prop := (w.2.2 = 0 → x = w.2.1) ∧ (w.2.2 = 1 → x ≠ w.2.1) ∧ (w.2.2 = 2 → w.2.1.toNat ≤ x.toNat) ∧ (3 ≤ w.2.2 → w.2.1.toInt ≤ x.toInt)
    let owing : Gang := if s.owesCommands g.id none allPaths then { g with owed := some 2 } else g
    let reads (w : W64 × W32 × Nat) (ks : List Nat) : Prop := Resident s (g.acc .read) w.1 4 ks ∧ Sound s ks ∧ ∀ k, k ∈ ks → s.inBoundWindow k = false
    (waits → due → sets (.priorityAging id) { g with eff := g.eff - 1, since := g.since + 2 ^ 20 }) ∧ (¬ (waits ∧ due) → same (.priorityAging id))
    ∧ ((g.status = .placed ∨ g.status = .halting) → due →
      sets (.priorityRise id) { g with eff := if g.eff < g.record.prio then g.eff + 1 else g.eff, since := g.since + 2 ^ 20 })
    ∧ (¬ ((g.status = .placed ∨ g.status = .halting) ∧ due) → same (.priorityRise id))
    ∧ (g.record.budget ≠ 0 → g.budget = 0 → g.status = .placed → sets (.budgetOverrun id) { g with status := .halting })
    ∧ ((g.record.budget = 0 ∨ g.budget ≠ 0 ∨ g.status ≠ .placed) → same (.budgetOverrun id))
    ∧ (g.status ≠ .queued → g.status ≠ .returned → exec (.gangReady id) s = .next s.endWrites)
    ∧ (∀ keys : W64 × W32 × Nat → List Nat, g.status = .queued ∨ g.status = .returned → (∀ w, w ∈ g.record.waits → reads w (keys w)) →
      let word (w : W64 × W32 × Nat) : W32 := BitVec.ofNat 32 (leNat (s.pathBytes pathLS (keys w)))
      let readied : List Gang := if g.status = .queued then s.gangs.filter (fun x => x.id != id) ++ [{ g with status := .ready, since := s.ticksOf g.record.home }]
        else s.gangs.map (fun x => if x.id = id then { g with status := .ready, since := s.ticksOf g.record.home - g.since } else x)
      ((∀ w, w ∈ g.record.waits → holds w (word w)) → exec (.gangReady id) s = .next { s with gangs := readied, wr := [], groups := [] })
      ∧ (∀ w, w ∈ g.record.waits → ¬ holds w (word w) → exec (.gangReady id) s = .next s.endWrites))
    ∧ (∀ w r f, g.status = .queued ∨ g.status = .returned → g.record.waits = w :: r → s.resolveSpan (g.acc .read) w.1 4 = .error f →
      ∃ t, exec (.gangReady id) s = .next t ∧ GangOver t owing f.cause)

/-- R185, R187, R372, R376, R377, R378, R380, R381, R383, R389: a gang first in order that fits and waits for nothing is placed, its harts started in its slots; one whose wait word no
longer holds is not placed and keeps its place; a hart of a halting gang is pre-empted with a frame that holds its registers and its matrix tiles, and the gang is requeued once
all its harts are; KILL ends the gang it means, RERUN starts its harts again, RESUME by management or by its own partition lets its halted harts go on, in
their frames too (R252). The place is the first that fits (the model's choice, log entry 51), and ended harts start again at a RERUN (deduced, log entry 48). -/
def Obligations.PlacementAndCommands : Prop := ∀ (s : State) (g : Gang) (q : SchedCmd),
  let starts (t : State) (slots : List (Nat × Nat)) : Prop := (∀ r x, slots[r]? = some x → g.startHart slots.length r x.1 x.2 ∈ t.allHarts)
    ∧ ∀ h, h ∈ s.allHarts → h.live = true → h.gang ≠ g.id → h ∈ t.allHarts
  let took (t : State) (op n : Nat) : Prop := t.cmds = s.cmds.erase (op, q) ∧ (t.scmdOf q.die).toNat / 2 ^ 8 % 2 ^ 24 = n
  s.gangOf g.id = some g →
  (∀ slots, g.status = .ready → g.record.waits = [] → s.choices = [] → s.frames = [] → s.firstReady g.record.home = some g → s.fit g [] 0 = some slots → (slots.map (·.1)).Nodup →
    ∃ t, exec (.gangPlace g.id) s = .next t ∧ starts t slots
      ∧ t.gangs = s.gangs.filter (fun x => x.id != g.id) ++ [{ g with slots := slots, status := .placed, since := s.ticksOf g.record.home, placedAt := s.clock }]
      ∧ t.unseen = s.unseen.filter (fun u => !slots.any (fun x => x.1 == u.hart))
      ∧ { t with hart := s.hart, parked := s.parked, gangs := s.gangs, unseen := s.unseen, wr := s.wr, groups := s.groups } = s)
  ∧ (∀ slots w ks, g.status = .ready → g.record.waits = [w] → s.choices = [] → s.firstReady g.record.home = some g → s.fit g [] 0 = some slots →
    Resident s (g.acc .read) w.1 4 ks → Sound s ks → (∀ k, k ∈ ks → s.inBoundWindow k = false) → waitHolds (BitVec.ofNat 32 (leNat (s.pathBytes pathLS ks))) w.2.1 w.2.2 = false →
    exec (.gangPlace g.id) s = .next { s with gangs := s.gangs.map (fun x => if x.id = g.id then { g with status := .returned, since := s.ticksOf g.record.home - g.since } else x), wr := [], groups := [] })
  ∧ ((g.status ≠ .ready ∧ g.status ≠ .requeued) → exec (.gangPlace g.id) s = .next s.endWrites)
  ∧ (let h := s.hart
    (h.gang = g.id → g.status = .halting → (h.status = .running ∨ h.status = .halted) → ∃ t, exec (.hartHalt h.id) s = .next t
      ∧ t.hart.status = (if h.status = .halted then .preemptedHalted else .preempted) ∧ t.hart.g = h.g ∧ t.hart.csr = h.csr ∧ t.hart.pc = h.pc ∧ t.hart.sup = h.sup
      ∧ (∃ f, f ∈ t.frames ∧ f.hart = h.id ∧ f.gang = h.gang ∧ f.image = none ∧ (s.ownMx.holder = some h.id → f.tile = some s.ownMx.cells)
        ∧ f.words = h.frameWords f.tile.isSome (s.gangBudget g.id)) ∧ t.ownMx.holder ≠ some h.id
      ∧ (∃ p, t.gangOf g.id = some p ∧ p.record = g.record ∧ p.status = (if s.parked.any (fun x => x.live && x.gang == g.id && x.status.placed) then .halting else .requeued)
        ∧ (p.status = .requeued → p.eff = g.record.prio ∧ p.budget = if g.budget = 0 then g.record.budget else g.budget)))
    ∧ ∀ n, (∀ x, x ∈ s.allHarts → x.id = n → s.halting x = false) → exec (.hartHalt n) s = .next s.endWrites)
  ∧ (s.matched q = [g] →
    (∃ t, exec (.kill q) s = .next t ∧ took t 1 1 ∧ GangOver t (if s.owesCommands g.id none allPaths then { g with owed := some 3 } else g) 0)
    ∧ (∀ w, g.slots ≠ [] → g.status = .placed → s.frames = [] → (g.slots.map (·.1)).Nodup → w = g.slots →
      (∀ h, h ∈ s.allHarts → h.status.placed = true → g.record.cores.contains h.core = true → h.gang = g.id) →
      ∃ t, exec (.rerun q) s = .next t ∧ took t 2 1 ∧ starts t w ∧ t.gangOf g.id = some { g with budget := g.record.budget, barriers := 0, cause := 0 })
    ∧ (q.mgmt = false → g.part ≠ q.part → ∃ t, exec (.resume q) s = .next t ∧ took t 3 1 ∧ { t with cmds := s.cmds, scmd := s.scmd } = s)
    ∧ (q.mgmt = true ∨ g.part = q.part → ∃ t, exec (.resume q) s = .next t ∧ took t 3 1
      ∧ t.allHarts = s.allHarts.map (fun h => if h.gang = g.id ∧ h.status = .halted then { h with status := .running }
          else if h.gang = g.id ∧ h.status = .preemptedHalted then { h with status := .preempted } else h)
      ∧ t.frames = s.frames.map (fun f => if f.gang = g.id then { f with words := f.words.modify 1 (fun w => w &&& ~~~(2 : W64)) } else f)
      ∧ { t with hart := s.hart, parked := s.parked, frames := s.frames, cmds := s.cmds, scmd := s.scmd } = s))
  ∧ (s.matched q = [] → ∀ op i, (op, i) ∈ [(1, Instr.kill q), (2, Instr.rerun q), (3, Instr.resume q)] → ∃ t, exec i s = .next t ∧ took t op 0
    ∧ { t with cmds := s.cmds, scmd := s.scmd, wr := s.wr, groups := s.groups } = s)

/-! Errors, table walks and the outside. -/

/-- R54, R234, R392, R393, R394, R395: what a scrubber finds is logged, an error that stands in the line or one of its own, and an uncorrectable one poisons the line; reading a
slot of the log sets its read mark; a persistent fault, in a part whose fault it can be, and a failed noise monitor take the core or the die out of service, and no gang goes on
there. The records of a persistent fault and of a scrubber, and what counts as persistent beside words of memory, are the model's choice (log entries 57 and 70). -/
def Obligations.ErrorEvents : Prop := ∀ (s : State) (pa die slot point addr c : Nat),
  let d := pa / 2 ^ 35 % 64
  let line := pa / 64 * 64
  let hurt (t : State) : Prop := ∀ u, u ∈ t.poison ↔ u ∈ s.poison ∨ u = line ∨ u = line + 32
  let rest (t : State) : State := { t with elogs := s.elogs, errTimes := s.errTimes, flaws := s.flaws, wr := s.wr, groups := s.groups }
  let noUser (t : State) (cores : List Nat) : Prop := ∀ g, g ∈ t.gangs → g.status.live = true → g.record.cores.any cores.contains = false
  let often : Prop := ∃ t, 3 ≤ (s.errTimes.filter (fun e => e.1 == point && e.2.1 == addr && decide (t ≤ e.2.2) && decide (e.2.2 ≤ t + 2 ^ 30))).length
  let out (i : Instr) (cls : Nat) (core : Option Nat) : Prop := let cores := match core with | some k => [16 * die + k] | none => (List.range 16).map (fun k => 16 * die + k)
    ∃ t, exec i s = .next t ∧ (∀ k, k ∈ t.deadCores ↔ k ∈ s.deadCores ∨ k ∈ cores) ∧ (∀ k, k ∈ t.deadDies ↔ k ∈ s.deadDies ∨ (core = none ∧ k = die)) ∧ noUser t cores
      ∧ (noUser s cores → (∃ u, (if cls = 7 then Logged s u die 7 8 c 0 else u = s) ∧ Logged u t die 6 (if cls = 7 then 8 else point) (core.getD 0xFF) (if cls = 7 then 0 else addr))
        ∧ { t with elogs := s.elogs, errTimes := s.errTimes, deadCores := s.deadCores, deadDies := s.deadDies, wr := s.wr, groups := s.groups } = s)
  (pa < 2 ^ 41 → s.populated pa = true → (∀ f, f ∈ s.flaws → ¬ (f.point = 2 ∧ f.first = line)) → exec (.patrolScrub pa .clean) s = .next s
    ∧ (∃ t, exec (.patrolScrub pa .corrected) s = .next t ∧ Logged s t d 1 2 0xFF line ∧ rest t = s)
    ∧ ∃ t, exec (.patrolScrub pa .uncorrectable) s = .next t ∧ Logged s t d 2 2 0xFF line ∧ hurt t ∧ { (rest t) with poison := s.poison } = s)
  ∧ (∀ fatal, pa < 2 ^ 41 → s.populated pa = true → s.flaws.filter (fun f => f.point == 2 && f.first == line) = [{ point := 2, first := line, fatal := fatal }] →
    ∃ t, exec (.patrolScrub pa .clean) s = .next t ∧ Logged s t d (if fatal then 2 else 1) 2 0xFF line ∧ (if fatal then hurt t else t.poison = s.poison)
      ∧ t.flaws = s.flaws.filter (fun f => !(f.point == 2 && f.first == line)) ∧ { (rest t) with poison := s.poison } = s)
  ∧ ((2 ^ 41 ≤ pa ∨ s.populated pa = false) → ∀ f, exec (.patrolScrub pa f) s = .next s)
  ∧ (∃ t, exec (.errorLogRead die slot) s = .next t ∧ (t.elog die).head = (s.elog die).head ∧ (t.elog die).lost = (s.elog die).lost
    ∧ (∀ n, (t.elog die).inSlot n = ((s.elog die).inSlot n).map (fun r => if n = slot then (r.1, { r.2 with read := true }) else r)) ∧ (∀ k, k ≠ die → t.elog k = s.elog k)
    ∧ { t with elogs := s.elogs } = s)
  ∧ (∀ core, partOk die core point addr = true → (1 < point ∨ often) → out (.persistentFault die core point addr) 6 core)
  ∧ (∀ core, partOk die core point addr = false ∨ (point ≤ 1 ∧ ¬ often) → exec (.persistentFault die core point addr) s = .next s)
  ∧ out (.noiseHealthFailure die c) 7 (some c)

/-- R29, R31, R35, R36, R37, R38: a translation that the die TLB holds goes into the micro-TLB of the core; one that it does not hold is walked for, and a leaf that the access may use goes
into both, which stay within their sizes; a walk that faults, and an address that needs none, change nothing. An access that uses an entry without A, or that writes through one
without D, leaves the 8 bytes of the table entry with A, and for a write D, set, and changes no other byte. That the TLBs are filled by this event alone is deduced (log entry 13), and that an atomic
sets D as a write does (log entry 15). Where the entries hold no bit error and no wrong check (R51, R59). -/
def Obligations.TableWalks : Prop := ∀ (s : State) (va : W64) (write : Bool),
  let h := s.hart
  let a := h.acc (if write then .write else .read) true
  let held := s.tlb.find? (fun e => e.home == h.die && e.matches a va.toNat && pteA e.pte && !needsDirty a e.pte)
  let sound : Prop := Sound s (s.walkKeys a.part a.asid va.toNat)
  let same : Prop := exec (.pageWalk va write) s = .next s
  let within (n : Nat) (pick : TlbEntry → Bool) (l l' : List TlbEntry) : Prop := (l.filter pick).length ≤ n → (l'.filter pick).length ≤ n
  let caches (t : State) (e : TlbEntry) : Prop := exec (.pageWalk va write) s = .next t ∧ t.utlb.head? = some { e with home := h.core } ∧ (∀ x, x ∈ t.utlb.tail → x ∈ s.utlb)
    ∧ (∀ c, within 128 (fun x => x.home == c) s.utlb t.utlb) ∧ { t with tlb := s.tlb, utlb := s.utlb, choices := s.choices } = s
  ((canonical va.toNat = false ∨ inAperture va.toNat = true) → same)
  ∧ (held = none → sound → (∃ f, s.walk a.part a.asid va.toNat = .error f) → same)
  ∧ (∀ e, canonical va.toNat = true → inAperture va.toNat = false → held = some e → ∃ t, caches t e ∧ t.tlb = s.tlb)
  ∧ (∀ l, canonical va.toNat = true → inAperture va.toNat = false → held = none → sound → s.walk a.part a.asid va.toNat = .ok l → s.groupLeaf l = (l, s) →
    let size := leafBytes l.level (ptePs l.pte)
    entryFault l.level l.pte = none →
    (∀ f, s.leafCheck a l.pte (leafPa l.pte size va.toNat) = some f → same)
    ∧ (s.leafCheck a l.pte (leafPa l.pte size va.toNat) = none → ∃ t e, caches t e ∧ e = { home := h.die, part := a.part, asid := a.asid, va := va.toNat / size * size, size := size, pte := l.pte }
      ∧ t.tlb.head? = some e ∧ (∀ x, x ∈ t.tlb.tail → x ∈ s.tlb)
      ∧ ∀ d, within 8192 (fun x => x.home == d) s.tlb t.tlb ∧ within 768 (fun x => x.home == d && x.size == 2 ^ 30) s.tlb t.tlb))
  ∧ ∀ kind dev l, let b := h.acc kind dev
    let writes : Bool := kind == .write || kind == .amo
    sound → canonical va.toNat = true → inAperture va.toNat = false → (∀ e, s.tlbFind b va.toNat = some e → pteA e.pte = false ∨ (writes = true ∧ pteD e.pte = false)) →
    s.walk b.part b.asid va.toNat = .ok l → s.groupLeaf l = (l, s) → entryFault l.level l.pte = none →
    let pa := leafPa l.pte (leafBytes l.level (ptePs l.pte)) va.toNat
    s.leafCheck b l.pte pa = none → ∃ t, s.resolveSpan b va 1 = .ok ([pa], t) ∧ (t.rememory s) = s
      ∧ (List.range 8).map (fun j => t.byteAt (l.at' + j)) = leBytes 8 (l.pte + (if pteA l.pte then 0 else 0x40) + (if writes && !pteD l.pte then 0x80 else 0))
      ∧ ∀ k, k < l.at' ∨ l.at' + 8 ≤ k → t.byteAt k = s.byteAt k

/-- R60, R120, R356, R365, R378, R412, R413, R415, R416, R417, R418, R419, R420: what the outside does. Writes and reads of the host and of peers at DRAM, with the indication of poison that
data sent out carries; SCMD written by management; a partition block written; a supervisor started; DIES changed; power, the watchdog and the boot ROM; firmware and attestation; clocks,
links, and what management sets. What the host reads stands in `hostReply` (log entry 56); what a start leaves of memory is the model's choice (log entries 5 and 58), and the path of the
host and the list of digests are deduced (log entries 55, 59 and 60). -/
def Obligations.HostEvents : Prop := ∀ (s : State) (fn path pa n part off link island khz : Nat) (data nonce : List Byte) (mask : W64) (b : BootReport),
  let ks := (List.range data.length).map (fun j => pa + j)
  let kr := (List.range n).map (fun j => pa + j)
  let blk := s.pblock part
  let stores (i : Instr) (path : Nat) : Prop := ∃ t, exec i s = .next t ∧ ks.map t.byteAt = s.pathData path ks data ∧ (∀ k, k ∉ ks → t.byteAt k = s.byteAt k)
    ∧ { (t.rememory s) with choices := s.choices } = s
  let fits (l : List Nat) : Prop := ∀ k, k ∈ l → s.mismatch k = false
  let sends (i : Instr) (path : Nat) : Prop :=
    (Sound s kr → exec i s = .next { s with hostReply := s.pathBytes path kr, hostPoison := kr.any s.poisoned })
    ∧ ((∀ k, k ∈ kr → s.flawed k = false) → ¬ fits kr → ∃ t, exec i s = .next t ∧ t.hostPoison = true ∧ t.hostReply = s.pathBytes path kr
      ∧ { t with elogs := s.elogs, hostReply := s.hostReply, hostPoison := s.hostPoison } = s)
  let linked : Prop := path < 7 ∧ path ≠ pathWN ∧ s.bootstat.getLsbD 0 = false
  let home (l : List Nat) : Prop := ∀ k, k ∈ l → k < 2 ^ 41 ∧ s.populated k = true
  (s.inBar2 fn pa data.length = true → pa < 2 ^ 41 → Sound s ks → stores (.hostPostedWrite ⟨fn, pa⟩ data) pathLS)
  ∧ (pa < 2 ^ 41 → s.inBar2 fn pa data.length = false → exec (.hostPostedWrite ⟨fn, pa⟩ data) s = .next s)
  ∧ (∀ d op, pa = 2 ^ 41 + d * 2 ^ 28 → d < 64 → data.length = 16 → op = leNat data % 256 → 1 ≤ op → op ≤ 3 → ∃ t, exec (.hostPostedWrite ⟨fn, pa⟩ data) s = .next t
    ∧ t.cmds = s.cmds ++ [(op, { die := d, asid := leNat data / 2 ^ 32 % 2 ^ 16, done := BitVec.ofNat 64 (leNat data / 2 ^ 64), mgmt := true })]
    ∧ { t with cmds := s.cmds, scmd := s.scmd, wr := s.wr, groups := s.groups } = s)
  ∧ (0 < n → s.inBar2 fn pa n = true → sends (.hostRead ⟨fn, pa⟩ n) pathLS)
  ∧ ((∀ k, k ∈ kr → isRegSpace k = true) → exec (.hostRead ⟨fn, pa⟩ n) s = .next { s.touch kr with hostReply := s.keyBytes kr, hostPoison := false })
  ∧ (linked → home ks → Sound s ks → stores (.peerAccess true ⟨path, pa⟩ n data) path)
  ∧ (linked → home kr → sends (.peerAccess false ⟨path, pa⟩ n data) path)
  ∧ (¬ linked → ∀ w, exec (.peerAccess w ⟨path, pa⟩ n data) s = .next s)
  ∧ (link ∈ s.down → exec (.linkFailure link) s = .next s)
  ∧ (link ∉ s.down → ∃ t, exec (.linkFailure link) s = .next t ∧ t.down = link :: s.down ∧ (∀ m, t.reaches m = true → s.reaches m = true)
    ∧ ((∀ p, p ∈ s.peers → link ∉ p.2) → t.engines = s.engines ∧ t.drives = s.drives)
    ∧ (let same (l l' : List Command) : Prop := l.length = l'.length ∧ ∀ x, x ∈ l.zip l' → x.2 = x.1 ∨ x.2 = { x.1 with cut := true }
      same s.engines t.engines ∧ same s.drives t.drives) ∧ { t with down := s.down, engines := s.engines, drives := s.drives, choices := s.choices } = s)
  ∧ (∀ r, s.turns = .bar2 fn pa :: r → ∃ t, step s = .next t ∧ t.turns = r ∧ t.bar2Base fn = pa / 2 ^ 36 * 2 ^ 36 ∧ (∀ f, f ≠ fn → t.bar2Base f = s.bar2Base f)
    ∧ { t with turns := s.turns, bar2 := s.bar2 } = s)
  ∧ (∀ m ls r, s.turns = .route m ls :: r → ∃ t, step s = .next t ∧ t.turns = r ∧ (t.reaches m = true ↔ ∃ l, l ∈ ls ∧ l < 16 ∧ l ∉ s.down) ∧ (∀ p, p ≠ m → t.reaches p = s.reaches p)
    ∧ { t with turns := s.turns, peers := s.peers } = s)
  ∧ (∃ t, exec (.clockThrottle island khz) s = .next t ∧ (∀ j, t.islands.getD j 0 = if j = island ∧ j < s.islands.length then Nat.min khz 1250000 else s.islands.getD j 0)
    ∧ { t with islands := s.islands } = s)
  ∧ (nonce.length = 32 → exec (.attestation nonce) s =
    .next { s with hostReply := s.measured.flatMap Measured.digest ++ Config.sign (sha256 (nonce ++ s.measured.flatMap Measured.digest)), hostPoison := false })
  ∧ (part < 64 → (∀ g, g ∈ s.gangs → g.part = part → g.status.live = true → g.record.dies.any (fun d => blk.dies.getLsbD d && !mask.getLsbD d) = false) →
    ∃ t, exec (.diesChange part mask) s = .next t ∧ t.pblock part = { blk with dies := mask } ∧ (∀ p, p ≠ part → t.pblock p = s.pblock p)
      ∧ t.measured = s.measured ++ [.data ({ blk with dies := mask } : PBlock).bytes] ∧ t.flow = s.flow.filter (fun f => blk.dies.getLsbD f.die == mask.getLsbD f.die)
      ∧ { t with parts := s.parts, measured := s.measured, flow := s.flow, wr := s.wr, groups := s.groups } = s)
  ∧ (0x34 ≤ off → exec (.partitionBlockWrite part off data) s = .next s)
  ∧ (∀ bs, off < 0x34 → bs = (List.range 52).map (fun j => if off ≤ j ∧ j < off + data.length then data.getD (j - off) 0 else blk.bytes.getD j 0) → part < 64 → fieldAt bs 0 8 = blk.dies.toNat →
    fieldAt bs 0x2C 4 ≠ 1 → ∃ t, exec (.partitionBlockWrite part off data) s = .next t
      ∧ t.pblock part = { blk with astb := BitVec.ofNat 64 (fieldAt bs 8 8), ctxp := BitVec.ofNat 64 (fieldAt bs 16 8), srec := BitVec.ofNat 64 (fieldAt bs 24 8)
                                   ns := BitVec.ofNat 64 (fieldAt bs 32 8), share := BitVec.ofNat 32 (fieldAt bs 40 4) }
      ∧ (∀ p, p ≠ part → t.pblock p = s.pblock p) ∧ t.measured = s.measured ++ [.data (t.pblock part).bytes]
      ∧ { t with parts := s.parts, measured := s.measured, wr := s.wr, groups := s.groups } = s)
  ∧ (part < 64 →
    let bs := s.keyBytes ((List.range 128).map (fun j => blk.srec.toNat + j))
    let r := parseGang bs
    let code := s.launchCode part 0 false bs
    let first : Gang := { id := s.nextGang, part := part, supervisor := true, record := r, status := .queued, eff := r.prio, since := s.ticksOf r.home, placedAt := 0, barriers := 0,
                          slots := [], cause := 0, budget := r.budget, owed := none }
    let ends (code : Nat) (P : State → Prop) : Prop := ∃ t, exec (.startSupervisor part) s = .next t ∧ t.pblock part = { blk with pstat := BitVec.ofNat 32 code }
      ∧ (∀ p, p ≠ part → t.pblock p = s.pblock p) ∧ P t
    let same (t : State) : Prop := t.gangs = s.gangs
    let read (P : State → Prop) (t : State) : Prop := t.measured = s.measured ++ [.data bs] ∧ P t
    ((s.bootstat.getLsbD 0 = true ∨ s.gangs.any (fun g => g.part == part && g.supervisor && g.status.live) = true) → ends 6 same)
    ∧ (s.bootstat.getLsbD 0 = false → s.gangs.any (fun g => g.part == part && g.supervisor && g.status.live) = false →
      Sound s ((List.range 128).map (fun j => blk.srec.toNat + j)) →
      ((r.asid ≠ 0 ∨ r.supv = false) → ends 1 (read same)) ∧ (r.asid = 0 → r.supv = true → code ≠ 0 → ends code (read same))
      ∧ (r.asid = 0 → r.supv = true → code = 0 → ends 0 (read (fun t => t.gangs = s.gangs ++ [first] ∧ t.nextGang = s.nextGang + 1)))))
  ∧ (let base : State := { State.reset with moduleNo := s.moduleNo, peers := s.peers, namespaces := s.namespaces, bar2 := s.bar2, down := s.down, firmware := s.firmware
                                            measured := [.rom, .data s.firmware], deadDies := s.deadDies, deadCores := s.deadCores
                                            turns := s.turns, choices := s.choices, freeCtr := s.freeCtr }
    let fails := Nat.min (s.bootstat.toNat / 16 % 16 + 1) 15
    let word (reason die : Nat) : W64 := BitVec.ofNat 64 (die * 0x10000 + reason * 0x100 + fails * 0x10 + if 3 ≤ fails then 1 else 0)
    let failed (i : Instr) (reason die : Nat) : Prop := exec i s = .next { base with bootstat := word reason die }
    let sound : Prop := b.signatureOk = true ∧ b.versionOk = true
    let hurt (d : Nat) (P : FailedPart → Prop) : Prop := ∃ p, p ∈ b.failed ∧ partOk p.die p.core p.point p.addr = true ∧ p.die = d ∧ P p
    let dieOut (d : Nat) : Prop := hurt d (fun p => p.core = none) ∨ (d < 64 ∧ (d ∈ b.badDies ∨ d ∈ b.badStacks))
    let stack : Prop := hurt 0 (fun p => p.core = none ∧ p.point = 2) ∨ 0 ∈ b.badStacks
    let die0 : Prop := hurt 0 (fun p => p.core = none ∧ p.point ≠ 2) ∨ (0 ∈ b.badDies ∧ ¬ hurt 0 (fun p => p.core = none))
    let meshOk : Prop := ∀ l, l ∈ b.badMesh → dieOut l.1 ∨ dieOut l.2
    let fit : Prop := sound ∧ ¬ dieOut 0 ∧ b.badHostLink = false
    (b.signatureOk = false → failed (.powerOn b) 1 0xFF) ∧ (b.signatureOk = true → b.versionOk = false → failed (.powerOn b) 2 0xFF)
    ∧ (sound → die0 → failed (.powerOn b) 3 0) ∧ (sound → ¬ die0 → stack → failed (.powerOn b) 4 0)
    ∧ (sound → ¬ dieOut 0 → b.badHostLink = true → failed (.powerOn b) 5 0xFF)
    ∧ (∀ before l rest, fit → b.badMesh = before ++ l :: rest → (∀ x, x ∈ before → dieOut x.1 ∨ dieOut x.2) → ¬ dieOut l.1 → ¬ dieOut l.2 → failed (.powerOn b) 5 (Nat.min l.1 l.2))
    ∧ (fit → meshOk → b.watchdog = true → exec (.powerOn b) s = .next { base with bootstat := s.bootstat, starting := true })
    ∧ (fit → meshOk → b.watchdog = false → ∃ t, exec (.powerOn b) s = .next t ∧ (∀ d, d ∈ t.deadDies ↔ dieOut d)
      ∧ (∀ k, k ∈ t.deadCores ↔ (k < 1024 ∧ k ∈ b.badCores) ∨ (∃ c, hurt (k / 16) (fun p => p.core = some c) ∧ c = k % 16) ∨ dieOut (k / 16))
      ∧ { t with deadDies := [], deadCores := [], elogs := State.reset.elogs, errTimes := State.reset.errTimes } =
        { base with firmware := b.image, bootstat := 0xFF0000, measured := [.rom, .data b.image], deadDies := [], deadCores := [], down := b.badGrehal.eraseDups })
    ∧ (s.starting = true → failed .bootWatchdog 6 0xFF) ∧ (s.starting = false → exec .bootWatchdog s = .next s)
    ∧ exec (.firmwareWrite data) s = .next (if s.bootstat.getLsbD 0 then { s with firmware := data } else s)
    ∧ (s.bootstat.getLsbD 0 = true → exec (.startRequest b) s = exec (.powerOn { b with image := s.firmware }) s) ∧ (s.bootstat.getLsbD 0 = false → exec (.startRequest b) s = .next s))

/-! Results of division and of integer vector arithmetic. -/

/-- R238: division never traps; a zero divisor gives all ones and the dividend, the one quotient that overflows gives itself and 0, and in every case the dividend is quotient
times divisor plus remainder modulo 2^64. The printed word of `remu` decodes to it. -/
def Obligations.Division : Prop := (∀ (s : State) (b a d e : GReg), let x := s.gr a
    let y := s.gr b
    let results (quo rem : Instr) (ordinary : W64 → W64 → Prop) (special : Bool) : Prop := ∃ q r : W64, GivesG quo s d q 4 ∧ GivesG rem s e r 4 ∧ x = q * y + r
      ∧ (y = 0 → q = 0xFFFFFFFFFFFFFFFF ∧ r = x) ∧ (special = true → x = 0x8000000000000000 → y = 0xFFFFFFFFFFFFFFFF → q = 0x8000000000000000 ∧ r = 0)
      ∧ (y ≠ 0 → ¬ (special = true ∧ x = 0x8000000000000000 ∧ y = 0xFFFFFFFFFFFFFFFF) → ordinary q r)
    results (.div b a d) (.rem b a e) (fun q r => q.toInt = x.toInt.tdiv y.toInt ∧ r.toInt = x.toInt.tmod y.toInt) true
    ∧ results (.divu b a d) (.remu b a e) (fun q r => q.toNat = x.toNat / y.toNat ∧ r.toNat = x.toNat % y.toNat) false)
  ∧ decodeTableWord 32 0x0B948601 = some (.remu 5 4 6)

/-- R259, R261, R272, R273: the elements of the integer results of the two-source operations under one tag: sums, differences and products wrap in the element's width, the
bitwise operations act on its bits, and the smaller and the larger are taken as the tag reads them; inactive and tail elements follow MZ and TZ. -/
def Obligations.IntegerElements : Prop := ∀ (s : State) (cv mk : Bool) (a b d : Fld6),
  let o := s.hart.vop d
  let x := s.hart.opTag o
  let u (j : Nat) : Nat := s.codeOf (s.hart.vop a) x j
  let v (j : Nat) : Nat := s.codeOf (s.hart.vop b) x j
  let gives (i : Instr) (f : Nat → Nat) : Prop := ∀ w, infoOf i s.hart = some w → Ready i s → s.hart.binaryOk true false false d a b = true → s.hart.opTag (s.hart.vop a) = x →
    x.isInt = true → WindowsApart s (w.reads ++ w.writes) →
    VecDoes i s (fun _ => False) (fun t => t.mxs = s.mxs ∧ t.hart.wins = s.hart.wins ∧ t.hart.strs = s.hart.strs ∧ ElemsAre s t o x mk f)
  let wrap (z : Int) : Nat := (z % 2 ^ x.bits).toNat
  gives (.vaddVv cv mk b a d) (fun j => wrap (x.intOf (u j) + x.intOf (v j))) ∧ gives (.vsubVv cv mk b a d) (fun j => wrap (x.intOf (u j) - x.intOf (v j)))
  ∧ gives (.vmulVv cv mk b a d) (fun j => wrap (x.intOf (u j) * x.intOf (v j))) ∧ gives (.vandVv cv mk b a d) (fun j => u j &&& v j)
  ∧ gives (.vorVv cv mk b a d) (fun j => u j ||| v j) ∧ gives (.vxorVv cv mk b a d) (fun j => u j ^^^ v j)
  ∧ gives (.vminVv cv mk b a d) (fun j => if x.intOf (v j) < x.intOf (u j) then v j else u j) ∧ gives (.vmaxVv cv mk b a d) (fun j => if x.intOf (u j) < x.intOf (v j) then v j else u j)

/-! Convoys and spans. -/

/-- R191, R193: the convoy that an instruction opens. It is the first member; each later member follows the one before, has CV = 0 and can stand in a convoy; no two members
share a pipe class, no member writes a register that an earlier one writes or reads; and the instruction that breaks the convoy is named by the lowest rule it breaks. -/
def Claims.ConvoyMembers : Prop := ∀ (s : State) (i : Instr) (v : VInfo),
  let g := s.convoyOf i v
  g.members.head? = some { instr := i, info := v, pc := s.hart.pc }
  ∧ (∀ (j : Nat) (m n : Member), g.members[j]? = some m → g.members[j + 1]? = some n → n.pc = m.pc + BitVec.ofNat 64 m.info.len ∧ n.info.cv = false ∧ n.info.joins = true)
  ∧ (∀ m, g.members.getLast? = some m → g.next = m.pc + BitVec.ofNat 64 m.info.len)
  ∧ (∀ (j k : Nat) (m n : Member), j < k → g.members[j]? = some m → g.members[k]? = some n → n.info.cls ≠ m.info.cls ∧ ∀ r ∈ n.info.writes, r ∉ m.info.writes ∧ r ∉ m.info.reads)
  ∧ ∀ t, g.broken = some t → ∃ k w n, s.peek g.next = some k ∧ infoOf k (s.hart.after g.members) = some w ∧ w.joins = true ∧ w.cv = false
      ∧ breaks (sigs g.members) w (s.hart.spanRoom == some g.members.length) = some n ∧ t = illegalTrap n w.low w.queue

/-- R192, R194, R196: a step at an instruction that opens a convoy runs all its members. Where none traps, the next instruction is the one behind the last member and ESTART
is 0. Where one has noted a trap, the members have run again to the element e of the stop, and the trap is taken at the address of the first member, with e in ESTART where
an element trapped and the member's number in TSTAT. -/
def Claims.ConvoyRuns : Prop := ∀ (s s1 s2 : State) (bs rest : List Byte) (i : Instr) (v : VInfo), MyTurn s → Fetched s s1 bs → decode bs = .ok (i, rest) →
  infoOf i s1.hart = some v → s1.hart.opensConvoy v = true →
  let g := s1.convoyOf i v
  let e (c : ConvoyCtx) : Nat := stopElement g.members s1.hart.csr.estart.toNat (c.limit.getD 0)
  runMembers exec (fun _ => none) 0 g.members (s1.setHart (s1.hart.enterConvoy none)) = .next s2 → s2.hart.wait = .none →
  ((∀ c, s2.hart.convoy = some c → c.trap = none) → g.broken = none → ∃ t, step s = .next t ∧ AtPc t g.next
      ∧ t.hart = { s2.hart with pc := t.hart.pc, wait := t.hart.wait, convoy := none, csr := { s2.hart.csr with estart := 0 } } ∧ { t with hart := s2.hart } = s2)
  ∧ ∀ c cause tval elem queue s3, s2.hart.convoy = some c → c.trap = some (cause, tval, elem, queue) →
      runMembers exec (forcedBy g.members c.trapMember (elem.bind (fun _ => c.limit))) 0 g.members ({ s1 with choices := s2.choices }.setHart (s1.hart.enterConvoy (some (e c)))) = .next s3 →
      let ahead := (s3.hart.convoy.map ConvoyCtx.ahead).getD []
      let u := match g.members[c.trapMember]? with
        | some m => meetTrap exec m c.trapMember cause tval elem (ahead.drop (ahead.length - c.trapMember)) s3
        | none => s3
      HasHandler u → ∃ t, step s = .next t ∧ t.hart.csr.tcause = cause.setWidth 64 ∧ t.hart.csr.tval = tval ∧ t.hart.csr.tpc = s1.hart.pc
        ∧ t.hart.csr.estart = BitVec.ofNat 64 (if elem.isSome then e c else 0)
        ∧ t.hart.csr.tstat = BitVec.ofNat 64 (c.trapMember * 0x1000 + elem.isSome.toNat * 0x800 + queue * 0x100 + u.hart.sup.toNat * 2 + 1)
        ∧ t.hart.sup = true ∧ t.hart.convoy = none ∧ AtPc t u.hart.csr.tvec ∧ { t with hart := u.hart, wr := u.wr, groups := u.groups } = u

/-- R200, R201: inside a span that skips, a step at a VQ instruction other than vrgn changes only the PC, the span's count and the last vector destination; one that would
continue a skipped convoy across the span's end is ILLEGAL with the lowest subcode it breaks. -/
def Claims.SpanSkips : Prop := ∀ (s s1 : State) (bs rest : List Byte) (i : Instr) (v : VInfo), MyTurn s → Fetched s s1 bs → decode bs = .ok (i, rest) →
  infoOf i s1.hart = some v → (∀ a n, i ≠ .vrgn a n) → v.queue = qVq → v.ill = none →
  (s1.hart.skips v = true → (v.matrix && s1.owesTile) = false → ∃ t, step s = .next t ∧ PastBy s1 t v.len ∧ t.hart.span = (s1.hart.spanStep v).1
      ∧ t.hart.lastDest = v.lastAfter s1.hart.lastDest
      ∧ { t with hart := { t.hart with pc := s1.hart.pc, wait := s1.hart.wait, span := s1.hart.span, lastDest := s1.hart.lastDest, convoy := s1.hart.convoy } } = s1)
  ∧ ∀ n, s1.hart.spanBreaks v = some n → HasHandler s1 → ∃ t, step s = .next t ∧ t.hart.span = none ∧ Enters { s1 with hart := { s1.hart with span := none } } t
      0x01 (BitVec.ofNat 64 (n + 2 ^ 32 * v.low.toNat)) 1 none

/-- R191 to R196, R200, R201: what a step does where an instruction opens a convoy, and inside a span that skips. How far a convoy reaches and how a span counts are
deduced (log entries 12, 21 and 22). -/
def Obligations.ConvoysAndSpans : Prop := Claims.ConvoyMembers ∧ Claims.ConvoyRuns ∧ Claims.SpanSkips
end

