-- ==== Sys2Proof/Laws/State.lean ====
section
/-! SUPPORT. What each named update of the state does to each field: one lemma for a field and an update. -/
namespace Sys2Proof.Machine

/-! The focus hart replaced. -/

@[simp] theorem State.setHart_hart (s : State) (h : Hart) : (s.setHart h).hart = h := rfl
@[simp] theorem State.setHart_parked (s : State) (h : Hart) : (s.setHart h).parked = s.parked := rfl
@[simp] theorem State.setHart_mem (s : State) (h : Hart) : (s.setHart h).mem = s.mem := rfl
@[simp] theorem State.setHart_poison (s : State) (h : Hart) : (s.setHart h).poison = s.poison := rfl
@[simp] theorem State.setHart_undef (s : State) (h : Hart) : (s.setHart h).undef = s.undef := rfl
@[simp] theorem State.setHart_vague (s : State) (h : Hart) : (s.setHart h).vague = s.vague := rfl
@[simp] theorem State.setHart_flaws (s : State) (h : Hart) : (s.setHart h).flaws = s.flaws := rfl
@[simp] theorem State.setHart_checks (s : State) (h : Hart) : (s.setHart h).checks = s.checks := rfl
@[simp] theorem State.setHart_unseen (s : State) (h : Hart) : (s.setHart h).unseen = s.unseen := rfl
@[simp] theorem State.setHart_fences (s : State) (h : Hart) : (s.setHart h).fences = s.fences := rfl
@[simp] theorem State.setHart_tlb (s : State) (h : Hart) : (s.setHart h).tlb = s.tlb := rfl
@[simp] theorem State.setHart_utlb (s : State) (h : Hart) : (s.setHart h).utlb = s.utlb := rfl
@[simp] theorem State.setHart_parts (s : State) (h : Hart) : (s.setHart h).parts = s.parts := rfl
@[simp] theorem State.setHart_gangs (s : State) (h : Hart) : (s.setHart h).gangs = s.gangs := rfl
@[simp] theorem State.setHart_nextGang (s : State) (h : Hart) : (s.setHart h).nextGang = s.nextGang := rfl
@[simp] theorem State.setHart_clock (s : State) (h : Hart) : (s.setHart h).clock = s.clock := rfl
@[simp] theorem State.setHart_ticks (s : State) (h : Hart) : (s.setHart h).ticks = s.ticks := rfl
@[simp] theorem State.setHart_engines (s : State) (h : Hart) : (s.setHart h).engines = s.engines := rfl
@[simp] theorem State.setHart_drives (s : State) (h : Hart) : (s.setHart h).drives = s.drives := rfl
@[simp] theorem State.setHart_flow (s : State) (h : Hart) : (s.setHart h).flow = s.flow := rfl
@[simp] theorem State.setHart_elogs (s : State) (h : Hart) : (s.setHart h).elogs = s.elogs := rfl
@[simp] theorem State.setHart_scmd (s : State) (h : Hart) : (s.setHart h).scmd = s.scmd := rfl
@[simp] theorem State.setHart_cmds (s : State) (h : Hart) : (s.setHart h).cmds = s.cmds := rfl
@[simp] theorem State.setHart_mxs (s : State) (h : Hart) : (s.setHart h).mxs = s.mxs := rfl
@[simp] theorem State.setHart_frames (s : State) (h : Hart) : (s.setHart h).frames = s.frames := rfl
@[simp] theorem State.setHart_namespaces (s : State) (h : Hart) : (s.setHart h).namespaces = s.namespaces := rfl
@[simp] theorem State.setHart_peers (s : State) (h : Hart) : (s.setHart h).peers = s.peers := rfl
@[simp] theorem State.setHart_down (s : State) (h : Hart) : (s.setHart h).down = s.down := rfl
@[simp] theorem State.setHart_moduleNo (s : State) (h : Hart) : (s.setHart h).moduleNo = s.moduleNo := rfl
@[simp] theorem State.setHart_bar2 (s : State) (h : Hart) : (s.setHart h).bar2 = s.bar2 := rfl
@[simp] theorem State.setHart_starting (s : State) (h : Hart) : (s.setHart h).starting = s.starting := rfl
@[simp] theorem State.setHart_bootstat (s : State) (h : Hart) : (s.setHart h).bootstat = s.bootstat := rfl
@[simp] theorem State.setHart_firmware (s : State) (h : Hart) : (s.setHart h).firmware = s.firmware := rfl
@[simp] theorem State.setHart_measured (s : State) (h : Hart) : (s.setHart h).measured = s.measured := rfl
@[simp] theorem State.setHart_hostReply (s : State) (h : Hart) : (s.setHart h).hostReply = s.hostReply := rfl
@[simp] theorem State.setHart_hostPoison (s : State) (h : Hart) : (s.setHart h).hostPoison = s.hostPoison := rfl
@[simp] theorem State.setHart_islands (s : State) (h : Hart) : (s.setHart h).islands = s.islands := rfl
@[simp] theorem State.setHart_deadDies (s : State) (h : Hart) : (s.setHart h).deadDies = s.deadDies := rfl
@[simp] theorem State.setHart_deadCores (s : State) (h : Hart) : (s.setHart h).deadCores = s.deadCores := rfl
@[simp] theorem State.setHart_errTimes (s : State) (h : Hart) : (s.setHart h).errTimes = s.errTimes := rfl
@[simp] theorem State.setHart_wr (s : State) (h : Hart) : (s.setHart h).wr = s.wr := rfl
@[simp] theorem State.setHart_groups (s : State) (h : Hart) : (s.setHart h).groups = s.groups := rfl
@[simp] theorem State.setHart_turns (s : State) (h : Hart) : (s.setHart h).turns = s.turns := rfl
@[simp] theorem State.setHart_choices (s : State) (h : Hart) : (s.setHart h).choices = s.choices := rfl
@[simp] theorem State.setHart_freeCtr (s : State) (h : Hart) : (s.setHart h).freeCtr = s.freeCtr := rfl
@[simp] theorem State.setHart_setHart (s : State) (h k : Hart) : (s.setHart h).setHart k = s.setHart k := rfl
@[simp] theorem State.setHart_self (s : State) : s.setHart s.hart = s := rfl

/-! A scalar register written. -/

@[simp] theorem Hart.setG_id (h : Hart) (r : GReg) (v : W64) : (h.setG r v).id = h.id := by unfold Hart.setG; split <;> rfl
@[simp] theorem Hart.setG_part (h : Hart) (r : GReg) (v : W64) : (h.setG r v).part = h.part := by unfold Hart.setG; split <;> rfl
@[simp] theorem Hart.setG_asid (h : Hart) (r : GReg) (v : W64) : (h.setG r v).asid = h.asid := by unfold Hart.setG; split <;> rfl
@[simp] theorem Hart.setG_gang (h : Hart) (r : GReg) (v : W64) : (h.setG r v).gang = h.gang := by unfold Hart.setG; split <;> rfl
@[simp] theorem Hart.setG_status (h : Hart) (r : GReg) (v : W64) : (h.setG r v).status = h.status := by unfold Hart.setG; split <;> rfl
@[simp] theorem Hart.setG_sup (h : Hart) (r : GReg) (v : W64) : (h.setG r v).sup = h.sup := by unfold Hart.setG; split <;> rfl
@[simp] theorem Hart.setG_pc (h : Hart) (r : GReg) (v : W64) : (h.setG r v).pc = h.pc := by unfold Hart.setG; split <;> rfl
@[simp] theorem Hart.setG_csr (h : Hart) (r : GReg) (v : W64) : (h.setG r v).csr = h.csr := by unfold Hart.setG; split <;> rfl
@[simp] theorem Hart.setG_lastDest (h : Hart) (r : GReg) (v : W64) : (h.setG r v).lastDest = h.lastDest := by unfold Hart.setG; split <;> rfl
@[simp] theorem Hart.setG_vregs (h : Hart) (r : GReg) (v : W64) : (h.setG r v).vregs = h.vregs := by unfold Hart.setG; split <;> rfl
@[simp] theorem Hart.setG_mregs (h : Hart) (r : GReg) (v : W64) : (h.setG r v).mregs = h.mregs := by unfold Hart.setG; split <;> rfl
@[simp] theorem Hart.setG_byp (h : Hart) (r : GReg) (v : W64) : (h.setG r v).byp = h.byp := by unfold Hart.setG; split <;> rfl
@[simp] theorem Hart.setG_wins (h : Hart) (r : GReg) (v : W64) : (h.setG r v).wins = h.wins := by unfold Hart.setG; split <;> rfl
@[simp] theorem Hart.setG_ctrs (h : Hart) (r : GReg) (v : W64) : (h.setG r v).ctrs = h.ctrs := by unfold Hart.setG; split <;> rfl
@[simp] theorem Hart.setG_pred (h : Hart) (r : GReg) (v : W64) : (h.setG r v).pred = h.pred := by unfold Hart.setG; split <;> rfl
@[simp] theorem Hart.setG_strs (h : Hart) (r : GReg) (v : W64) : (h.setG r v).strs = h.strs := by unfold Hart.setG; split <;> rfl
@[simp] theorem Hart.setG_noiseBuf (h : Hart) (r : GReg) (v : W64) : (h.setG r v).noiseBuf = h.noiseBuf := by unfold Hart.setG; split <;> rfl
@[simp] theorem Hart.setG_span (h : Hart) (r : GReg) (v : W64) : (h.setG r v).span = h.span := by unfold Hart.setG; split <;> rfl
@[simp] theorem Hart.setG_convoy (h : Hart) (r : GReg) (v : W64) : (h.setG r v).convoy = h.convoy := by unfold Hart.setG; split <;> rfl
@[simp] theorem Hart.setG_wait (h : Hart) (r : GReg) (v : W64) : (h.setG r v).wait = h.wait := by unfold Hart.setG; split <;> rfl
@[simp] theorem Hart.setG_barrier (h : Hart) (r : GReg) (v : W64) : (h.setG r v).barrier = h.barrier := by unfold Hart.setG; split <;> rfl
@[simp] theorem Hart.setG_arrived (h : Hart) (r : GReg) (v : W64) : (h.setG r v).arrived = h.arrived := by unfold Hart.setG; split <;> rfl
@[simp] theorem State.setG_parked (s : State) (r : GReg) (v : W64) : (s.setG r v).parked = s.parked := rfl
@[simp] theorem State.setG_mem (s : State) (r : GReg) (v : W64) : (s.setG r v).mem = s.mem := rfl
@[simp] theorem State.setG_poison (s : State) (r : GReg) (v : W64) : (s.setG r v).poison = s.poison := rfl
@[simp] theorem State.setG_undef (s : State) (r : GReg) (v : W64) : (s.setG r v).undef = s.undef := rfl
@[simp] theorem State.setG_vague (s : State) (r : GReg) (v : W64) : (s.setG r v).vague = s.vague := rfl
@[simp] theorem State.setG_flaws (s : State) (r : GReg) (v : W64) : (s.setG r v).flaws = s.flaws := rfl
@[simp] theorem State.setG_checks (s : State) (r : GReg) (v : W64) : (s.setG r v).checks = s.checks := rfl
@[simp] theorem State.setG_unseen (s : State) (r : GReg) (v : W64) : (s.setG r v).unseen = s.unseen := rfl
@[simp] theorem State.setG_fences (s : State) (r : GReg) (v : W64) : (s.setG r v).fences = s.fences := rfl
@[simp] theorem State.setG_tlb (s : State) (r : GReg) (v : W64) : (s.setG r v).tlb = s.tlb := rfl
@[simp] theorem State.setG_utlb (s : State) (r : GReg) (v : W64) : (s.setG r v).utlb = s.utlb := rfl
@[simp] theorem State.setG_parts (s : State) (r : GReg) (v : W64) : (s.setG r v).parts = s.parts := rfl
@[simp] theorem State.setG_gangs (s : State) (r : GReg) (v : W64) : (s.setG r v).gangs = s.gangs := rfl
@[simp] theorem State.setG_nextGang (s : State) (r : GReg) (v : W64) : (s.setG r v).nextGang = s.nextGang := rfl
@[simp] theorem State.setG_clock (s : State) (r : GReg) (v : W64) : (s.setG r v).clock = s.clock := rfl
@[simp] theorem State.setG_ticks (s : State) (r : GReg) (v : W64) : (s.setG r v).ticks = s.ticks := rfl
@[simp] theorem State.setG_engines (s : State) (r : GReg) (v : W64) : (s.setG r v).engines = s.engines := rfl
@[simp] theorem State.setG_drives (s : State) (r : GReg) (v : W64) : (s.setG r v).drives = s.drives := rfl
@[simp] theorem State.setG_flow (s : State) (r : GReg) (v : W64) : (s.setG r v).flow = s.flow := rfl
@[simp] theorem State.setG_elogs (s : State) (r : GReg) (v : W64) : (s.setG r v).elogs = s.elogs := rfl
@[simp] theorem State.setG_scmd (s : State) (r : GReg) (v : W64) : (s.setG r v).scmd = s.scmd := rfl
@[simp] theorem State.setG_cmds (s : State) (r : GReg) (v : W64) : (s.setG r v).cmds = s.cmds := rfl
@[simp] theorem State.setG_mxs (s : State) (r : GReg) (v : W64) : (s.setG r v).mxs = s.mxs := rfl
@[simp] theorem State.setG_frames (s : State) (r : GReg) (v : W64) : (s.setG r v).frames = s.frames := rfl
@[simp] theorem State.setG_namespaces (s : State) (r : GReg) (v : W64) : (s.setG r v).namespaces = s.namespaces := rfl
@[simp] theorem State.setG_peers (s : State) (r : GReg) (v : W64) : (s.setG r v).peers = s.peers := rfl
@[simp] theorem State.setG_down (s : State) (r : GReg) (v : W64) : (s.setG r v).down = s.down := rfl
@[simp] theorem State.setG_moduleNo (s : State) (r : GReg) (v : W64) : (s.setG r v).moduleNo = s.moduleNo := rfl
@[simp] theorem State.setG_bar2 (s : State) (r : GReg) (v : W64) : (s.setG r v).bar2 = s.bar2 := rfl
@[simp] theorem State.setG_starting (s : State) (r : GReg) (v : W64) : (s.setG r v).starting = s.starting := rfl
@[simp] theorem State.setG_bootstat (s : State) (r : GReg) (v : W64) : (s.setG r v).bootstat = s.bootstat := rfl
@[simp] theorem State.setG_firmware (s : State) (r : GReg) (v : W64) : (s.setG r v).firmware = s.firmware := rfl
@[simp] theorem State.setG_measured (s : State) (r : GReg) (v : W64) : (s.setG r v).measured = s.measured := rfl
@[simp] theorem State.setG_hostReply (s : State) (r : GReg) (v : W64) : (s.setG r v).hostReply = s.hostReply := rfl
@[simp] theorem State.setG_hostPoison (s : State) (r : GReg) (v : W64) : (s.setG r v).hostPoison = s.hostPoison := rfl
@[simp] theorem State.setG_islands (s : State) (r : GReg) (v : W64) : (s.setG r v).islands = s.islands := rfl
@[simp] theorem State.setG_deadDies (s : State) (r : GReg) (v : W64) : (s.setG r v).deadDies = s.deadDies := rfl
@[simp] theorem State.setG_deadCores (s : State) (r : GReg) (v : W64) : (s.setG r v).deadCores = s.deadCores := rfl
@[simp] theorem State.setG_errTimes (s : State) (r : GReg) (v : W64) : (s.setG r v).errTimes = s.errTimes := rfl
@[simp] theorem State.setG_wr (s : State) (r : GReg) (v : W64) : (s.setG r v).wr = s.wr := rfl
@[simp] theorem State.setG_groups (s : State) (r : GReg) (v : W64) : (s.setG r v).groups = s.groups := rfl
@[simp] theorem State.setG_turns (s : State) (r : GReg) (v : W64) : (s.setG r v).turns = s.turns := rfl
@[simp] theorem State.setG_choices (s : State) (r : GReg) (v : W64) : (s.setG r v).choices = s.choices := rfl
@[simp] theorem State.setG_freeCtr (s : State) (r : GReg) (v : W64) : (s.setG r v).freeCtr = s.freeCtr := rfl
@[simp] theorem State.setG_hart (s : State) (r : GReg) (v : W64) : (s.setG r v).hart = s.hart.setG r v := rfl

/-- A write of g0 is discarded (R203). -/
@[simp] theorem Hart.setG_zero (h : Hart) (v : W64) : h.setG 0 v = h := rfl
@[simp] theorem State.setG_zero (s : State) (v : W64) : s.setG 0 v = s := rfl

/-- g0 reads as zero (R203). -/
@[simp] theorem Hart.gr_zero (h : Hart) : h.gr 0 = 0 := rfl

/-- What a scalar register reads after a write of one. -/
@[simp] theorem Hart.gr_setG (h : Hart) (d r : GReg) (v : W64) : (h.setG d v).gr r = if r = d ∧ r ≠ 0 then v else h.gr r := by
  unfold Hart.setG Hart.gr
  by_cases hr : r = 0
  · rw [if_pos hr, if_pos hr, if_neg (fun x => x.2 hr)]
  · rw [if_neg hr, if_neg hr]
    by_cases hd : d = 0
    · rw [if_pos hd, if_neg (fun x => hr (x.1.trans hd))]
    · rw [if_neg hd]
      by_cases e : r = d
      · subst e; rw [if_pos ⟨rfl, hr⟩]; simp
      · rw [if_neg (fun x => e x.1)]
        have : d.toNat ≠ r.toNat := fun x => e (BitVec.eq_of_toNat_eq x.symm)
        simp [this]

theorem Hart.gr_setG_self (h : Hart) (d : GReg) (v : W64) : (h.setG d v).gr d = if d = 0 then 0 else v := by
  rw [Hart.gr_setG]
  by_cases e : d = 0
  · subst e; rfl
  · rw [if_pos ⟨rfl, e⟩, if_neg e]

theorem Hart.gr_setG_ne (h : Hart) {d r : GReg} (v : W64) (e : r ≠ d) : (h.setG d v).gr r = h.gr r := by
  rw [Hart.gr_setG, if_neg (fun x => e x.1)]

@[simp] theorem State.gr_setG (s : State) (d r : GReg) (v : W64) : (s.setG d v).gr r = if r = d ∧ r ≠ 0 then v else s.gr r := Hart.gr_setG _ _ _ _

/-! The PC moved to an address. -/

@[simp] theorem State.jumpTo_parked (s : State) (pc : W64) : (s.jumpTo pc).parked = s.parked := rfl
@[simp] theorem State.jumpTo_mem (s : State) (pc : W64) : (s.jumpTo pc).mem = s.mem := rfl
@[simp] theorem State.jumpTo_poison (s : State) (pc : W64) : (s.jumpTo pc).poison = s.poison := rfl
@[simp] theorem State.jumpTo_undef (s : State) (pc : W64) : (s.jumpTo pc).undef = s.undef := rfl
@[simp] theorem State.jumpTo_vague (s : State) (pc : W64) : (s.jumpTo pc).vague = s.vague := rfl
@[simp] theorem State.jumpTo_flaws (s : State) (pc : W64) : (s.jumpTo pc).flaws = s.flaws := rfl
@[simp] theorem State.jumpTo_checks (s : State) (pc : W64) : (s.jumpTo pc).checks = s.checks := rfl
@[simp] theorem State.jumpTo_unseen (s : State) (pc : W64) : (s.jumpTo pc).unseen = s.unseen := rfl
@[simp] theorem State.jumpTo_fences (s : State) (pc : W64) : (s.jumpTo pc).fences = s.fences := rfl
@[simp] theorem State.jumpTo_tlb (s : State) (pc : W64) : (s.jumpTo pc).tlb = s.tlb := rfl
@[simp] theorem State.jumpTo_utlb (s : State) (pc : W64) : (s.jumpTo pc).utlb = s.utlb := rfl
@[simp] theorem State.jumpTo_parts (s : State) (pc : W64) : (s.jumpTo pc).parts = s.parts := rfl
@[simp] theorem State.jumpTo_gangs (s : State) (pc : W64) : (s.jumpTo pc).gangs = s.gangs := rfl
@[simp] theorem State.jumpTo_nextGang (s : State) (pc : W64) : (s.jumpTo pc).nextGang = s.nextGang := rfl
@[simp] theorem State.jumpTo_clock (s : State) (pc : W64) : (s.jumpTo pc).clock = s.clock := rfl
@[simp] theorem State.jumpTo_ticks (s : State) (pc : W64) : (s.jumpTo pc).ticks = s.ticks := rfl
@[simp] theorem State.jumpTo_engines (s : State) (pc : W64) : (s.jumpTo pc).engines = s.engines := rfl
@[simp] theorem State.jumpTo_drives (s : State) (pc : W64) : (s.jumpTo pc).drives = s.drives := rfl
@[simp] theorem State.jumpTo_flow (s : State) (pc : W64) : (s.jumpTo pc).flow = s.flow := rfl
@[simp] theorem State.jumpTo_elogs (s : State) (pc : W64) : (s.jumpTo pc).elogs = s.elogs := rfl
@[simp] theorem State.jumpTo_scmd (s : State) (pc : W64) : (s.jumpTo pc).scmd = s.scmd := rfl
@[simp] theorem State.jumpTo_cmds (s : State) (pc : W64) : (s.jumpTo pc).cmds = s.cmds := rfl
@[simp] theorem State.jumpTo_mxs (s : State) (pc : W64) : (s.jumpTo pc).mxs = s.mxs := rfl
@[simp] theorem State.jumpTo_frames (s : State) (pc : W64) : (s.jumpTo pc).frames = s.frames := rfl
@[simp] theorem State.jumpTo_namespaces (s : State) (pc : W64) : (s.jumpTo pc).namespaces = s.namespaces := rfl
@[simp] theorem State.jumpTo_peers (s : State) (pc : W64) : (s.jumpTo pc).peers = s.peers := rfl
@[simp] theorem State.jumpTo_down (s : State) (pc : W64) : (s.jumpTo pc).down = s.down := rfl
@[simp] theorem State.jumpTo_moduleNo (s : State) (pc : W64) : (s.jumpTo pc).moduleNo = s.moduleNo := rfl
@[simp] theorem State.jumpTo_bar2 (s : State) (pc : W64) : (s.jumpTo pc).bar2 = s.bar2 := rfl
@[simp] theorem State.jumpTo_starting (s : State) (pc : W64) : (s.jumpTo pc).starting = s.starting := rfl
@[simp] theorem State.jumpTo_bootstat (s : State) (pc : W64) : (s.jumpTo pc).bootstat = s.bootstat := rfl
@[simp] theorem State.jumpTo_firmware (s : State) (pc : W64) : (s.jumpTo pc).firmware = s.firmware := rfl
@[simp] theorem State.jumpTo_measured (s : State) (pc : W64) : (s.jumpTo pc).measured = s.measured := rfl
@[simp] theorem State.jumpTo_hostReply (s : State) (pc : W64) : (s.jumpTo pc).hostReply = s.hostReply := rfl
@[simp] theorem State.jumpTo_hostPoison (s : State) (pc : W64) : (s.jumpTo pc).hostPoison = s.hostPoison := rfl
@[simp] theorem State.jumpTo_islands (s : State) (pc : W64) : (s.jumpTo pc).islands = s.islands := rfl
@[simp] theorem State.jumpTo_deadDies (s : State) (pc : W64) : (s.jumpTo pc).deadDies = s.deadDies := rfl
@[simp] theorem State.jumpTo_deadCores (s : State) (pc : W64) : (s.jumpTo pc).deadCores = s.deadCores := rfl
@[simp] theorem State.jumpTo_errTimes (s : State) (pc : W64) : (s.jumpTo pc).errTimes = s.errTimes := rfl
@[simp] theorem State.jumpTo_wr (s : State) (pc : W64) : (s.jumpTo pc).wr = s.wr := rfl
@[simp] theorem State.jumpTo_groups (s : State) (pc : W64) : (s.jumpTo pc).groups = s.groups := rfl
@[simp] theorem State.jumpTo_turns (s : State) (pc : W64) : (s.jumpTo pc).turns = s.turns := rfl
@[simp] theorem State.jumpTo_choices (s : State) (pc : W64) : (s.jumpTo pc).choices = s.choices := rfl
@[simp] theorem State.jumpTo_freeCtr (s : State) (pc : W64) : (s.jumpTo pc).freeCtr = s.freeCtr := rfl
@[simp] theorem State.jumpTo_hart_id (s : State) (pc : W64) : (s.jumpTo pc).hart.id = s.hart.id := rfl
@[simp] theorem State.jumpTo_hart_part (s : State) (pc : W64) : (s.jumpTo pc).hart.part = s.hart.part := rfl
@[simp] theorem State.jumpTo_hart_asid (s : State) (pc : W64) : (s.jumpTo pc).hart.asid = s.hart.asid := rfl
@[simp] theorem State.jumpTo_hart_gang (s : State) (pc : W64) : (s.jumpTo pc).hart.gang = s.hart.gang := rfl
@[simp] theorem State.jumpTo_hart_status (s : State) (pc : W64) : (s.jumpTo pc).hart.status = s.hart.status := rfl
@[simp] theorem State.jumpTo_hart_sup (s : State) (pc : W64) : (s.jumpTo pc).hart.sup = s.hart.sup := rfl
@[simp] theorem State.jumpTo_hart_pc (s : State) (pc : W64) : (s.jumpTo pc).hart.pc = pc := rfl
@[simp] theorem State.jumpTo_hart_g (s : State) (pc : W64) : (s.jumpTo pc).hart.g = s.hart.g := rfl
@[simp] theorem State.jumpTo_hart_csr (s : State) (pc : W64) : (s.jumpTo pc).hart.csr = s.hart.csr := rfl
@[simp] theorem State.jumpTo_hart_lastDest (s : State) (pc : W64) : (s.jumpTo pc).hart.lastDest = s.hart.lastDest := rfl
@[simp] theorem State.jumpTo_hart_vregs (s : State) (pc : W64) : (s.jumpTo pc).hart.vregs = s.hart.vregs := rfl
@[simp] theorem State.jumpTo_hart_mregs (s : State) (pc : W64) : (s.jumpTo pc).hart.mregs = s.hart.mregs := rfl
@[simp] theorem State.jumpTo_hart_byp (s : State) (pc : W64) : (s.jumpTo pc).hart.byp = s.hart.byp := rfl
@[simp] theorem State.jumpTo_hart_wins (s : State) (pc : W64) : (s.jumpTo pc).hart.wins = s.hart.wins := rfl
@[simp] theorem State.jumpTo_hart_ctrs (s : State) (pc : W64) : (s.jumpTo pc).hart.ctrs = s.hart.ctrs := rfl
@[simp] theorem State.jumpTo_hart_pred (s : State) (pc : W64) : (s.jumpTo pc).hart.pred = s.hart.pred := rfl
@[simp] theorem State.jumpTo_hart_strs (s : State) (pc : W64) : (s.jumpTo pc).hart.strs = s.hart.strs := rfl
@[simp] theorem State.jumpTo_hart_noiseBuf (s : State) (pc : W64) : (s.jumpTo pc).hart.noiseBuf = s.hart.noiseBuf := rfl
@[simp] theorem State.jumpTo_hart_span (s : State) (pc : W64) : (s.jumpTo pc).hart.span = s.hart.span := rfl
@[simp] theorem State.jumpTo_hart_convoy (s : State) (pc : W64) : (s.jumpTo pc).hart.convoy = s.hart.convoy := rfl
@[simp] theorem State.jumpTo_hart_wait (s : State) (pc : W64) : (s.jumpTo pc).hart.wait = .none := rfl
@[simp] theorem State.jumpTo_hart_barrier (s : State) (pc : W64) : (s.jumpTo pc).hart.barrier = s.hart.barrier := rfl
@[simp] theorem State.jumpTo_hart_arrived (s : State) (pc : W64) : (s.jumpTo pc).hart.arrived = s.hart.arrived := rfl
@[simp] theorem State.jumpTo_gr (s : State) (pc : W64) (r : GReg) : (s.jumpTo pc).gr r = s.gr r := rfl

/-! The PC moved past an instruction. -/

@[simp] theorem State.advance_parked (s : State) (n : Nat) : (s.advance n).parked = s.parked := rfl
@[simp] theorem State.advance_mem (s : State) (n : Nat) : (s.advance n).mem = s.mem := rfl
@[simp] theorem State.advance_poison (s : State) (n : Nat) : (s.advance n).poison = s.poison := rfl
@[simp] theorem State.advance_undef (s : State) (n : Nat) : (s.advance n).undef = s.undef := rfl
@[simp] theorem State.advance_vague (s : State) (n : Nat) : (s.advance n).vague = s.vague := rfl
@[simp] theorem State.advance_flaws (s : State) (n : Nat) : (s.advance n).flaws = s.flaws := rfl
@[simp] theorem State.advance_checks (s : State) (n : Nat) : (s.advance n).checks = s.checks := rfl
@[simp] theorem State.advance_unseen (s : State) (n : Nat) : (s.advance n).unseen = s.unseen := rfl
@[simp] theorem State.advance_fences (s : State) (n : Nat) : (s.advance n).fences = s.fences := rfl
@[simp] theorem State.advance_tlb (s : State) (n : Nat) : (s.advance n).tlb = s.tlb := rfl
@[simp] theorem State.advance_utlb (s : State) (n : Nat) : (s.advance n).utlb = s.utlb := rfl
@[simp] theorem State.advance_parts (s : State) (n : Nat) : (s.advance n).parts = s.parts := rfl
@[simp] theorem State.advance_gangs (s : State) (n : Nat) : (s.advance n).gangs = s.gangs := rfl
@[simp] theorem State.advance_nextGang (s : State) (n : Nat) : (s.advance n).nextGang = s.nextGang := rfl
@[simp] theorem State.advance_clock (s : State) (n : Nat) : (s.advance n).clock = s.clock := rfl
@[simp] theorem State.advance_ticks (s : State) (n : Nat) : (s.advance n).ticks = s.ticks := rfl
@[simp] theorem State.advance_engines (s : State) (n : Nat) : (s.advance n).engines = s.engines := rfl
@[simp] theorem State.advance_drives (s : State) (n : Nat) : (s.advance n).drives = s.drives := rfl
@[simp] theorem State.advance_flow (s : State) (n : Nat) : (s.advance n).flow = s.flow := rfl
@[simp] theorem State.advance_elogs (s : State) (n : Nat) : (s.advance n).elogs = s.elogs := rfl
@[simp] theorem State.advance_scmd (s : State) (n : Nat) : (s.advance n).scmd = s.scmd := rfl
@[simp] theorem State.advance_cmds (s : State) (n : Nat) : (s.advance n).cmds = s.cmds := rfl
@[simp] theorem State.advance_mxs (s : State) (n : Nat) : (s.advance n).mxs = s.mxs := rfl
@[simp] theorem State.advance_frames (s : State) (n : Nat) : (s.advance n).frames = s.frames := rfl
@[simp] theorem State.advance_namespaces (s : State) (n : Nat) : (s.advance n).namespaces = s.namespaces := rfl
@[simp] theorem State.advance_peers (s : State) (n : Nat) : (s.advance n).peers = s.peers := rfl
@[simp] theorem State.advance_down (s : State) (n : Nat) : (s.advance n).down = s.down := rfl
@[simp] theorem State.advance_moduleNo (s : State) (n : Nat) : (s.advance n).moduleNo = s.moduleNo := rfl
@[simp] theorem State.advance_bar2 (s : State) (n : Nat) : (s.advance n).bar2 = s.bar2 := rfl
@[simp] theorem State.advance_starting (s : State) (n : Nat) : (s.advance n).starting = s.starting := rfl
@[simp] theorem State.advance_bootstat (s : State) (n : Nat) : (s.advance n).bootstat = s.bootstat := rfl
@[simp] theorem State.advance_firmware (s : State) (n : Nat) : (s.advance n).firmware = s.firmware := rfl
@[simp] theorem State.advance_measured (s : State) (n : Nat) : (s.advance n).measured = s.measured := rfl
@[simp] theorem State.advance_hostReply (s : State) (n : Nat) : (s.advance n).hostReply = s.hostReply := rfl
@[simp] theorem State.advance_hostPoison (s : State) (n : Nat) : (s.advance n).hostPoison = s.hostPoison := rfl
@[simp] theorem State.advance_islands (s : State) (n : Nat) : (s.advance n).islands = s.islands := rfl
@[simp] theorem State.advance_deadDies (s : State) (n : Nat) : (s.advance n).deadDies = s.deadDies := rfl
@[simp] theorem State.advance_deadCores (s : State) (n : Nat) : (s.advance n).deadCores = s.deadCores := rfl
@[simp] theorem State.advance_errTimes (s : State) (n : Nat) : (s.advance n).errTimes = s.errTimes := rfl
@[simp] theorem State.advance_wr (s : State) (n : Nat) : (s.advance n).wr = s.wr := rfl
@[simp] theorem State.advance_groups (s : State) (n : Nat) : (s.advance n).groups = s.groups := rfl
@[simp] theorem State.advance_turns (s : State) (n : Nat) : (s.advance n).turns = s.turns := rfl
@[simp] theorem State.advance_choices (s : State) (n : Nat) : (s.advance n).choices = s.choices := rfl
@[simp] theorem State.advance_freeCtr (s : State) (n : Nat) : (s.advance n).freeCtr = s.freeCtr := rfl
@[simp] theorem State.advance_hart_id (s : State) (n : Nat) : (s.advance n).hart.id = s.hart.id := rfl
@[simp] theorem State.advance_hart_part (s : State) (n : Nat) : (s.advance n).hart.part = s.hart.part := rfl
@[simp] theorem State.advance_hart_asid (s : State) (n : Nat) : (s.advance n).hart.asid = s.hart.asid := rfl
@[simp] theorem State.advance_hart_gang (s : State) (n : Nat) : (s.advance n).hart.gang = s.hart.gang := rfl
@[simp] theorem State.advance_hart_status (s : State) (n : Nat) : (s.advance n).hart.status = s.hart.status := rfl
@[simp] theorem State.advance_hart_sup (s : State) (n : Nat) : (s.advance n).hart.sup = s.hart.sup := rfl
@[simp] theorem State.advance_hart_pc (s : State) (n : Nat) : (s.advance n).hart.pc = s.hart.pc + BitVec.ofNat 64 n := rfl
@[simp] theorem State.advance_hart_g (s : State) (n : Nat) : (s.advance n).hart.g = s.hart.g := rfl
@[simp] theorem State.advance_hart_csr (s : State) (n : Nat) : (s.advance n).hart.csr = s.hart.csr := rfl
@[simp] theorem State.advance_hart_lastDest (s : State) (n : Nat) : (s.advance n).hart.lastDest = s.hart.lastDest := rfl
@[simp] theorem State.advance_hart_vregs (s : State) (n : Nat) : (s.advance n).hart.vregs = s.hart.vregs := rfl
@[simp] theorem State.advance_hart_mregs (s : State) (n : Nat) : (s.advance n).hart.mregs = s.hart.mregs := rfl
@[simp] theorem State.advance_hart_byp (s : State) (n : Nat) : (s.advance n).hart.byp = s.hart.byp := rfl
@[simp] theorem State.advance_hart_wins (s : State) (n : Nat) : (s.advance n).hart.wins = s.hart.wins := rfl
@[simp] theorem State.advance_hart_ctrs (s : State) (n : Nat) : (s.advance n).hart.ctrs = s.hart.ctrs := rfl
@[simp] theorem State.advance_hart_pred (s : State) (n : Nat) : (s.advance n).hart.pred = s.hart.pred := rfl
@[simp] theorem State.advance_hart_strs (s : State) (n : Nat) : (s.advance n).hart.strs = s.hart.strs := rfl
@[simp] theorem State.advance_hart_noiseBuf (s : State) (n : Nat) : (s.advance n).hart.noiseBuf = s.hart.noiseBuf := rfl
@[simp] theorem State.advance_hart_span (s : State) (n : Nat) : (s.advance n).hart.span = s.hart.span := rfl
@[simp] theorem State.advance_hart_convoy (s : State) (n : Nat) : (s.advance n).hart.convoy = s.hart.convoy := rfl
@[simp] theorem State.advance_hart_wait (s : State) (n : Nat) : (s.advance n).hart.wait = .none := rfl
@[simp] theorem State.advance_hart_barrier (s : State) (n : Nat) : (s.advance n).hart.barrier = s.hart.barrier := rfl
@[simp] theorem State.advance_hart_arrived (s : State) (n : Nat) : (s.advance n).hart.arrived = s.hart.arrived := rfl
@[simp] theorem State.advance_gr (s : State) (n : Nat) (r : GReg) : (s.advance n).gr r = s.gr r := rfl

/-! The focus hart made to wait. -/

@[simp] theorem State.waiting_parked (s : State) (w : Wait) : (s.waiting w).parked = s.parked := rfl
@[simp] theorem State.waiting_mem (s : State) (w : Wait) : (s.waiting w).mem = s.mem := rfl
@[simp] theorem State.waiting_poison (s : State) (w : Wait) : (s.waiting w).poison = s.poison := rfl
@[simp] theorem State.waiting_undef (s : State) (w : Wait) : (s.waiting w).undef = s.undef := rfl
@[simp] theorem State.waiting_vague (s : State) (w : Wait) : (s.waiting w).vague = s.vague := rfl
@[simp] theorem State.waiting_flaws (s : State) (w : Wait) : (s.waiting w).flaws = s.flaws := rfl
@[simp] theorem State.waiting_checks (s : State) (w : Wait) : (s.waiting w).checks = s.checks := rfl
@[simp] theorem State.waiting_unseen (s : State) (w : Wait) : (s.waiting w).unseen = s.unseen := rfl
@[simp] theorem State.waiting_fences (s : State) (w : Wait) : (s.waiting w).fences = s.fences := rfl
@[simp] theorem State.waiting_tlb (s : State) (w : Wait) : (s.waiting w).tlb = s.tlb := rfl
@[simp] theorem State.waiting_utlb (s : State) (w : Wait) : (s.waiting w).utlb = s.utlb := rfl
@[simp] theorem State.waiting_parts (s : State) (w : Wait) : (s.waiting w).parts = s.parts := rfl
@[simp] theorem State.waiting_gangs (s : State) (w : Wait) : (s.waiting w).gangs = s.gangs := rfl
@[simp] theorem State.waiting_nextGang (s : State) (w : Wait) : (s.waiting w).nextGang = s.nextGang := rfl
@[simp] theorem State.waiting_clock (s : State) (w : Wait) : (s.waiting w).clock = s.clock := rfl
@[simp] theorem State.waiting_ticks (s : State) (w : Wait) : (s.waiting w).ticks = s.ticks := rfl
@[simp] theorem State.waiting_engines (s : State) (w : Wait) : (s.waiting w).engines = s.engines := rfl
@[simp] theorem State.waiting_drives (s : State) (w : Wait) : (s.waiting w).drives = s.drives := rfl
@[simp] theorem State.waiting_flow (s : State) (w : Wait) : (s.waiting w).flow = s.flow := rfl
@[simp] theorem State.waiting_elogs (s : State) (w : Wait) : (s.waiting w).elogs = s.elogs := rfl
@[simp] theorem State.waiting_scmd (s : State) (w : Wait) : (s.waiting w).scmd = s.scmd := rfl
@[simp] theorem State.waiting_cmds (s : State) (w : Wait) : (s.waiting w).cmds = s.cmds := rfl
@[simp] theorem State.waiting_mxs (s : State) (w : Wait) : (s.waiting w).mxs = s.mxs := rfl
@[simp] theorem State.waiting_frames (s : State) (w : Wait) : (s.waiting w).frames = s.frames := rfl
@[simp] theorem State.waiting_namespaces (s : State) (w : Wait) : (s.waiting w).namespaces = s.namespaces := rfl
@[simp] theorem State.waiting_peers (s : State) (w : Wait) : (s.waiting w).peers = s.peers := rfl
@[simp] theorem State.waiting_down (s : State) (w : Wait) : (s.waiting w).down = s.down := rfl
@[simp] theorem State.waiting_moduleNo (s : State) (w : Wait) : (s.waiting w).moduleNo = s.moduleNo := rfl
@[simp] theorem State.waiting_bar2 (s : State) (w : Wait) : (s.waiting w).bar2 = s.bar2 := rfl
@[simp] theorem State.waiting_starting (s : State) (w : Wait) : (s.waiting w).starting = s.starting := rfl
@[simp] theorem State.waiting_bootstat (s : State) (w : Wait) : (s.waiting w).bootstat = s.bootstat := rfl
@[simp] theorem State.waiting_firmware (s : State) (w : Wait) : (s.waiting w).firmware = s.firmware := rfl
@[simp] theorem State.waiting_measured (s : State) (w : Wait) : (s.waiting w).measured = s.measured := rfl
@[simp] theorem State.waiting_hostReply (s : State) (w : Wait) : (s.waiting w).hostReply = s.hostReply := rfl
@[simp] theorem State.waiting_hostPoison (s : State) (w : Wait) : (s.waiting w).hostPoison = s.hostPoison := rfl
@[simp] theorem State.waiting_islands (s : State) (w : Wait) : (s.waiting w).islands = s.islands := rfl
@[simp] theorem State.waiting_deadDies (s : State) (w : Wait) : (s.waiting w).deadDies = s.deadDies := rfl
@[simp] theorem State.waiting_deadCores (s : State) (w : Wait) : (s.waiting w).deadCores = s.deadCores := rfl
@[simp] theorem State.waiting_errTimes (s : State) (w : Wait) : (s.waiting w).errTimes = s.errTimes := rfl
@[simp] theorem State.waiting_wr (s : State) (w : Wait) : (s.waiting w).wr = s.wr := rfl
@[simp] theorem State.waiting_groups (s : State) (w : Wait) : (s.waiting w).groups = s.groups := rfl
@[simp] theorem State.waiting_turns (s : State) (w : Wait) : (s.waiting w).turns = s.turns := rfl
@[simp] theorem State.waiting_choices (s : State) (w : Wait) : (s.waiting w).choices = s.choices := rfl
@[simp] theorem State.waiting_freeCtr (s : State) (w : Wait) : (s.waiting w).freeCtr = s.freeCtr := rfl
@[simp] theorem State.waiting_hart_id (s : State) (w : Wait) : (s.waiting w).hart.id = s.hart.id := rfl
@[simp] theorem State.waiting_hart_part (s : State) (w : Wait) : (s.waiting w).hart.part = s.hart.part := rfl
@[simp] theorem State.waiting_hart_asid (s : State) (w : Wait) : (s.waiting w).hart.asid = s.hart.asid := rfl
@[simp] theorem State.waiting_hart_gang (s : State) (w : Wait) : (s.waiting w).hart.gang = s.hart.gang := rfl
@[simp] theorem State.waiting_hart_status (s : State) (w : Wait) : (s.waiting w).hart.status = s.hart.status := rfl
@[simp] theorem State.waiting_hart_sup (s : State) (w : Wait) : (s.waiting w).hart.sup = s.hart.sup := rfl
@[simp] theorem State.waiting_hart_pc (s : State) (w : Wait) : (s.waiting w).hart.pc = s.hart.pc := rfl
@[simp] theorem State.waiting_hart_g (s : State) (w : Wait) : (s.waiting w).hart.g = s.hart.g := rfl
@[simp] theorem State.waiting_hart_csr (s : State) (w : Wait) : (s.waiting w).hart.csr = s.hart.csr := rfl
@[simp] theorem State.waiting_hart_lastDest (s : State) (w : Wait) : (s.waiting w).hart.lastDest = s.hart.lastDest := rfl
@[simp] theorem State.waiting_hart_vregs (s : State) (w : Wait) : (s.waiting w).hart.vregs = s.hart.vregs := rfl
@[simp] theorem State.waiting_hart_mregs (s : State) (w : Wait) : (s.waiting w).hart.mregs = s.hart.mregs := rfl
@[simp] theorem State.waiting_hart_byp (s : State) (w : Wait) : (s.waiting w).hart.byp = s.hart.byp := rfl
@[simp] theorem State.waiting_hart_wins (s : State) (w : Wait) : (s.waiting w).hart.wins = s.hart.wins := rfl
@[simp] theorem State.waiting_hart_ctrs (s : State) (w : Wait) : (s.waiting w).hart.ctrs = s.hart.ctrs := rfl
@[simp] theorem State.waiting_hart_pred (s : State) (w : Wait) : (s.waiting w).hart.pred = s.hart.pred := rfl
@[simp] theorem State.waiting_hart_strs (s : State) (w : Wait) : (s.waiting w).hart.strs = s.hart.strs := rfl
@[simp] theorem State.waiting_hart_noiseBuf (s : State) (w : Wait) : (s.waiting w).hart.noiseBuf = s.hart.noiseBuf := rfl
@[simp] theorem State.waiting_hart_span (s : State) (w : Wait) : (s.waiting w).hart.span = s.hart.span := rfl
@[simp] theorem State.waiting_hart_convoy (s : State) (w : Wait) : (s.waiting w).hart.convoy = s.hart.convoy := rfl
@[simp] theorem State.waiting_hart_wait (s : State) (w : Wait) : (s.waiting w).hart.wait = w := rfl
@[simp] theorem State.waiting_hart_barrier (s : State) (w : Wait) : (s.waiting w).hart.barrier = s.hart.barrier := rfl
@[simp] theorem State.waiting_hart_arrived (s : State) (w : Wait) : (s.waiting w).hart.arrived = s.hart.arrived := rfl
@[simp] theorem State.waiting_gr (s : State) (w : Wait) (r : GReg) : (s.waiting w).gr r = s.gr r := rfl

/-! The control registers replaced. -/

@[simp] theorem State.setCsr_parked (s : State) (c : Csr) : (s.setCsr c).parked = s.parked := rfl
@[simp] theorem State.setCsr_mem (s : State) (c : Csr) : (s.setCsr c).mem = s.mem := rfl
@[simp] theorem State.setCsr_poison (s : State) (c : Csr) : (s.setCsr c).poison = s.poison := rfl
@[simp] theorem State.setCsr_undef (s : State) (c : Csr) : (s.setCsr c).undef = s.undef := rfl
@[simp] theorem State.setCsr_vague (s : State) (c : Csr) : (s.setCsr c).vague = s.vague := rfl
@[simp] theorem State.setCsr_flaws (s : State) (c : Csr) : (s.setCsr c).flaws = s.flaws := rfl
@[simp] theorem State.setCsr_checks (s : State) (c : Csr) : (s.setCsr c).checks = s.checks := rfl
@[simp] theorem State.setCsr_unseen (s : State) (c : Csr) : (s.setCsr c).unseen = s.unseen := rfl
@[simp] theorem State.setCsr_fences (s : State) (c : Csr) : (s.setCsr c).fences = s.fences := rfl
@[simp] theorem State.setCsr_tlb (s : State) (c : Csr) : (s.setCsr c).tlb = s.tlb := rfl
@[simp] theorem State.setCsr_utlb (s : State) (c : Csr) : (s.setCsr c).utlb = s.utlb := rfl
@[simp] theorem State.setCsr_parts (s : State) (c : Csr) : (s.setCsr c).parts = s.parts := rfl
@[simp] theorem State.setCsr_gangs (s : State) (c : Csr) : (s.setCsr c).gangs = s.gangs := rfl
@[simp] theorem State.setCsr_nextGang (s : State) (c : Csr) : (s.setCsr c).nextGang = s.nextGang := rfl
@[simp] theorem State.setCsr_clock (s : State) (c : Csr) : (s.setCsr c).clock = s.clock := rfl
@[simp] theorem State.setCsr_ticks (s : State) (c : Csr) : (s.setCsr c).ticks = s.ticks := rfl
@[simp] theorem State.setCsr_engines (s : State) (c : Csr) : (s.setCsr c).engines = s.engines := rfl
@[simp] theorem State.setCsr_drives (s : State) (c : Csr) : (s.setCsr c).drives = s.drives := rfl
@[simp] theorem State.setCsr_flow (s : State) (c : Csr) : (s.setCsr c).flow = s.flow := rfl
@[simp] theorem State.setCsr_elogs (s : State) (c : Csr) : (s.setCsr c).elogs = s.elogs := rfl
@[simp] theorem State.setCsr_scmd (s : State) (c : Csr) : (s.setCsr c).scmd = s.scmd := rfl
@[simp] theorem State.setCsr_cmds (s : State) (c : Csr) : (s.setCsr c).cmds = s.cmds := rfl
@[simp] theorem State.setCsr_mxs (s : State) (c : Csr) : (s.setCsr c).mxs = s.mxs := rfl
@[simp] theorem State.setCsr_frames (s : State) (c : Csr) : (s.setCsr c).frames = s.frames := rfl
@[simp] theorem State.setCsr_namespaces (s : State) (c : Csr) : (s.setCsr c).namespaces = s.namespaces := rfl
@[simp] theorem State.setCsr_peers (s : State) (c : Csr) : (s.setCsr c).peers = s.peers := rfl
@[simp] theorem State.setCsr_down (s : State) (c : Csr) : (s.setCsr c).down = s.down := rfl
@[simp] theorem State.setCsr_moduleNo (s : State) (c : Csr) : (s.setCsr c).moduleNo = s.moduleNo := rfl
@[simp] theorem State.setCsr_bar2 (s : State) (c : Csr) : (s.setCsr c).bar2 = s.bar2 := rfl
@[simp] theorem State.setCsr_starting (s : State) (c : Csr) : (s.setCsr c).starting = s.starting := rfl
@[simp] theorem State.setCsr_bootstat (s : State) (c : Csr) : (s.setCsr c).bootstat = s.bootstat := rfl
@[simp] theorem State.setCsr_firmware (s : State) (c : Csr) : (s.setCsr c).firmware = s.firmware := rfl
@[simp] theorem State.setCsr_measured (s : State) (c : Csr) : (s.setCsr c).measured = s.measured := rfl
@[simp] theorem State.setCsr_hostReply (s : State) (c : Csr) : (s.setCsr c).hostReply = s.hostReply := rfl
@[simp] theorem State.setCsr_hostPoison (s : State) (c : Csr) : (s.setCsr c).hostPoison = s.hostPoison := rfl
@[simp] theorem State.setCsr_islands (s : State) (c : Csr) : (s.setCsr c).islands = s.islands := rfl
@[simp] theorem State.setCsr_deadDies (s : State) (c : Csr) : (s.setCsr c).deadDies = s.deadDies := rfl
@[simp] theorem State.setCsr_deadCores (s : State) (c : Csr) : (s.setCsr c).deadCores = s.deadCores := rfl
@[simp] theorem State.setCsr_errTimes (s : State) (c : Csr) : (s.setCsr c).errTimes = s.errTimes := rfl
@[simp] theorem State.setCsr_wr (s : State) (c : Csr) : (s.setCsr c).wr = s.wr := rfl
@[simp] theorem State.setCsr_groups (s : State) (c : Csr) : (s.setCsr c).groups = s.groups := rfl
@[simp] theorem State.setCsr_turns (s : State) (c : Csr) : (s.setCsr c).turns = s.turns := rfl
@[simp] theorem State.setCsr_choices (s : State) (c : Csr) : (s.setCsr c).choices = s.choices := rfl
@[simp] theorem State.setCsr_freeCtr (s : State) (c : Csr) : (s.setCsr c).freeCtr = s.freeCtr := rfl
@[simp] theorem State.setCsr_hart_id (s : State) (c : Csr) : (s.setCsr c).hart.id = s.hart.id := rfl
@[simp] theorem State.setCsr_hart_part (s : State) (c : Csr) : (s.setCsr c).hart.part = s.hart.part := rfl
@[simp] theorem State.setCsr_hart_asid (s : State) (c : Csr) : (s.setCsr c).hart.asid = s.hart.asid := rfl
@[simp] theorem State.setCsr_hart_gang (s : State) (c : Csr) : (s.setCsr c).hart.gang = s.hart.gang := rfl
@[simp] theorem State.setCsr_hart_status (s : State) (c : Csr) : (s.setCsr c).hart.status = s.hart.status := rfl
@[simp] theorem State.setCsr_hart_sup (s : State) (c : Csr) : (s.setCsr c).hart.sup = s.hart.sup := rfl
@[simp] theorem State.setCsr_hart_pc (s : State) (c : Csr) : (s.setCsr c).hart.pc = s.hart.pc := rfl
@[simp] theorem State.setCsr_hart_g (s : State) (c : Csr) : (s.setCsr c).hart.g = s.hart.g := rfl
@[simp] theorem State.setCsr_hart_csr (s : State) (c : Csr) : (s.setCsr c).hart.csr = c := rfl
@[simp] theorem State.setCsr_hart_lastDest (s : State) (c : Csr) : (s.setCsr c).hart.lastDest = s.hart.lastDest := rfl
@[simp] theorem State.setCsr_hart_vregs (s : State) (c : Csr) : (s.setCsr c).hart.vregs = s.hart.vregs := rfl
@[simp] theorem State.setCsr_hart_mregs (s : State) (c : Csr) : (s.setCsr c).hart.mregs = s.hart.mregs := rfl
@[simp] theorem State.setCsr_hart_byp (s : State) (c : Csr) : (s.setCsr c).hart.byp = s.hart.byp := rfl
@[simp] theorem State.setCsr_hart_wins (s : State) (c : Csr) : (s.setCsr c).hart.wins = s.hart.wins := rfl
@[simp] theorem State.setCsr_hart_ctrs (s : State) (c : Csr) : (s.setCsr c).hart.ctrs = s.hart.ctrs := rfl
@[simp] theorem State.setCsr_hart_pred (s : State) (c : Csr) : (s.setCsr c).hart.pred = s.hart.pred := rfl
@[simp] theorem State.setCsr_hart_strs (s : State) (c : Csr) : (s.setCsr c).hart.strs = s.hart.strs := rfl
@[simp] theorem State.setCsr_hart_noiseBuf (s : State) (c : Csr) : (s.setCsr c).hart.noiseBuf = s.hart.noiseBuf := rfl
@[simp] theorem State.setCsr_hart_span (s : State) (c : Csr) : (s.setCsr c).hart.span = s.hart.span := rfl
@[simp] theorem State.setCsr_hart_convoy (s : State) (c : Csr) : (s.setCsr c).hart.convoy = s.hart.convoy := rfl
@[simp] theorem State.setCsr_hart_wait (s : State) (c : Csr) : (s.setCsr c).hart.wait = s.hart.wait := rfl
@[simp] theorem State.setCsr_hart_barrier (s : State) (c : Csr) : (s.setCsr c).hart.barrier = s.hart.barrier := rfl
@[simp] theorem State.setCsr_hart_arrived (s : State) (c : Csr) : (s.setCsr c).hart.arrived = s.hart.arrived := rfl
@[simp] theorem State.setCsr_gr (s : State) (c : Csr) (r : GReg) : (s.setCsr c).gr r = s.gr r := rfl

/-! The end of an instruction's writes. -/

@[simp] theorem State.endWrites_hart (s : State) : s.endWrites.hart = s.hart := rfl
@[simp] theorem State.endWrites_parked (s : State) : s.endWrites.parked = s.parked := rfl
@[simp] theorem State.endWrites_mem (s : State) : s.endWrites.mem = s.mem := rfl
@[simp] theorem State.endWrites_poison (s : State) : s.endWrites.poison = s.poison := rfl
@[simp] theorem State.endWrites_undef (s : State) : s.endWrites.undef = s.undef := rfl
@[simp] theorem State.endWrites_vague (s : State) : s.endWrites.vague = s.vague := rfl
@[simp] theorem State.endWrites_flaws (s : State) : s.endWrites.flaws = s.flaws := rfl
@[simp] theorem State.endWrites_checks (s : State) : s.endWrites.checks = s.checks := rfl
@[simp] theorem State.endWrites_unseen (s : State) : s.endWrites.unseen = s.unseen := rfl
@[simp] theorem State.endWrites_fences (s : State) : s.endWrites.fences = s.fences := rfl
@[simp] theorem State.endWrites_tlb (s : State) : s.endWrites.tlb = s.tlb := rfl
@[simp] theorem State.endWrites_utlb (s : State) : s.endWrites.utlb = s.utlb := rfl
@[simp] theorem State.endWrites_parts (s : State) : s.endWrites.parts = s.parts := rfl
@[simp] theorem State.endWrites_gangs (s : State) : s.endWrites.gangs = s.gangs := rfl
@[simp] theorem State.endWrites_nextGang (s : State) : s.endWrites.nextGang = s.nextGang := rfl
@[simp] theorem State.endWrites_clock (s : State) : s.endWrites.clock = s.clock := rfl
@[simp] theorem State.endWrites_ticks (s : State) : s.endWrites.ticks = s.ticks := rfl
@[simp] theorem State.endWrites_engines (s : State) : s.endWrites.engines = s.engines := rfl
@[simp] theorem State.endWrites_drives (s : State) : s.endWrites.drives = s.drives := rfl
@[simp] theorem State.endWrites_flow (s : State) : s.endWrites.flow = s.flow := rfl
@[simp] theorem State.endWrites_elogs (s : State) : s.endWrites.elogs = s.elogs := rfl
@[simp] theorem State.endWrites_scmd (s : State) : s.endWrites.scmd = s.scmd := rfl
@[simp] theorem State.endWrites_cmds (s : State) : s.endWrites.cmds = s.cmds := rfl
@[simp] theorem State.endWrites_mxs (s : State) : s.endWrites.mxs = s.mxs := rfl
@[simp] theorem State.endWrites_frames (s : State) : s.endWrites.frames = s.frames := rfl
@[simp] theorem State.endWrites_namespaces (s : State) : s.endWrites.namespaces = s.namespaces := rfl
@[simp] theorem State.endWrites_peers (s : State) : s.endWrites.peers = s.peers := rfl
@[simp] theorem State.endWrites_down (s : State) : s.endWrites.down = s.down := rfl
@[simp] theorem State.endWrites_moduleNo (s : State) : s.endWrites.moduleNo = s.moduleNo := rfl
@[simp] theorem State.endWrites_bar2 (s : State) : s.endWrites.bar2 = s.bar2 := rfl
@[simp] theorem State.endWrites_starting (s : State) : s.endWrites.starting = s.starting := rfl
@[simp] theorem State.endWrites_bootstat (s : State) : s.endWrites.bootstat = s.bootstat := rfl
@[simp] theorem State.endWrites_firmware (s : State) : s.endWrites.firmware = s.firmware := rfl
@[simp] theorem State.endWrites_measured (s : State) : s.endWrites.measured = s.measured := rfl
@[simp] theorem State.endWrites_hostReply (s : State) : s.endWrites.hostReply = s.hostReply := rfl
@[simp] theorem State.endWrites_hostPoison (s : State) : s.endWrites.hostPoison = s.hostPoison := rfl
@[simp] theorem State.endWrites_islands (s : State) : s.endWrites.islands = s.islands := rfl
@[simp] theorem State.endWrites_deadDies (s : State) : s.endWrites.deadDies = s.deadDies := rfl
@[simp] theorem State.endWrites_deadCores (s : State) : s.endWrites.deadCores = s.deadCores := rfl
@[simp] theorem State.endWrites_errTimes (s : State) : s.endWrites.errTimes = s.errTimes := rfl
@[simp] theorem State.endWrites_wr (s : State) : s.endWrites.wr = [] := rfl
@[simp] theorem State.endWrites_groups (s : State) : s.endWrites.groups = [] := rfl
@[simp] theorem State.endWrites_turns (s : State) : s.endWrites.turns = s.turns := rfl
@[simp] theorem State.endWrites_choices (s : State) : s.endWrites.choices = s.choices := rfl
@[simp] theorem State.endWrites_freeCtr (s : State) : s.endWrites.freeCtr = s.freeCtr := rfl
@[simp] theorem State.endWrites_gr (s : State) (r : GReg) : s.endWrites.gr r = s.gr r := rfl

end Sys2Proof.Machine
end

