-- ==== Sys2Proof/Laws/Memory.lean ====
section
/-! SUPPORT. Memory: its canonical form is kept by every write, a byte reads as it was last written, and a write leaves every other byte alone. -/
namespace Sys2Proof.Machine

/-! The list of cells. -/

/-- A list in canonical form stays so with a lower bound dropped. -/
theorem cellsWf_none {lo : Option Nat} {l : List Host.Cell} (h : cellsWf lo l = true) : cellsWf none l = true := by
  cases l with
  | nil => rfl
  | cons c r => obtain ⟨a, b⟩ := c; simp only [cellsWf, Bool.and_eq_true] at h ⊢; exact ⟨⟨trivial, h.1.2⟩, h.2⟩

/-- What the canonical form says of its first cell and the rest. -/
theorem cellsWf_cons (lo : Option Nat) (a : Nat) (b : Byte) (r : List Host.Cell) :
    cellsWf lo ((a, b) :: r) = true ↔ (∀ l, lo = some l → l < a) ∧ b ≠ 0 ∧ cellsWf (some a) r = true := by
  cases lo <;> simp [cellsWf, and_assoc]

/-- A bound may be lowered. -/
theorem cellsWf_le {l m : Nat} {r : List Host.Cell} (h : cellsWf (some m) r = true) (e : l ≤ m) : cellsWf (some l) r = true := by
  cases r with
  | nil => rfl
  | cons c r =>
    obtain ⟨a, b⟩ := c
    rw [cellsWf_cons] at h ⊢
    exact ⟨fun x hx => by cases hx; have := h.1 m rfl; omega, h.2⟩

theorem cellsWf_filter (p : Host.Cell → Bool) : ∀ (lo : Option Nat) (l : List Host.Cell), cellsWf lo l = true → cellsWf lo (l.filter p) = true
  | _, [], _ => rfl
  | lo, (a, b) :: r, h => by
    rw [cellsWf_cons] at h
    have ih := cellsWf_filter p (some a) r h.2.2
    by_cases hp : p (a, b) = true
    · rw [List.filter_cons_of_pos hp, cellsWf_cons]; exact ⟨h.1, h.2.1, ih⟩
    · rw [List.filter_cons_of_neg hp]
      cases lo with
      | none => exact cellsWf_none ih
      | some l => exact cellsWf_le ih (Nat.le_of_lt (h.1 l rfl))

theorem cellsWf_insert (k : Nat) (b : Byte) (hb : b ≠ 0) :
    ∀ (lo : Option Nat) (l : List Host.Cell), cellsWf lo l = true → (∀ x, lo = some x → x < k) → (∀ c ∈ l, c.1 ≠ k) → cellsWf lo (insertCell k b l) = true
  | lo, [], _, hlo, _ => by rw [insertCell, cellsWf_cons]; exact ⟨hlo, hb, rfl⟩
  | lo, (a, c) :: r, h, hlo, hk => by
    rw [cellsWf_cons] at h
    unfold insertCell
    split
    · rename_i lt
      rw [cellsWf_cons]
      exact ⟨hlo, hb, by rw [cellsWf_cons]; exact ⟨fun x hx => by cases hx; exact lt, h.2⟩⟩
    · rename_i nlt
      rw [cellsWf_cons]
      have ne : a ≠ k := hk (a, c) (by simp)
      exact ⟨h.1, h.2.1, cellsWf_insert k b hb (some a) r h.2.2 (fun x hx => by cases hx; omega) (fun d hd => hk d (by simp [hd]))⟩

/-- Every write of a byte keeps the canonical form. -/
theorem Memory.write_wf (m : Memory) (k : Nat) (b : Byte) (h : m.wf = true) : (m.write k b).wf = true := by
  unfold Memory.write Memory.wf
  have hf := cellsWf_filter (fun c => decide (c.1 ≠ k)) none m.cells h
  dsimp only
  split
  · exact hf
  · rename_i hb
    exact cellsWf_insert k b hb none _ hf (fun _ e => nomatch e) (fun c hc => by simpa using (List.mem_filter.mp hc).2)

theorem cellsFind_filter_ne {k j : Nat} (hj : j ≠ k) : ∀ l : List Host.Cell, cellsFind (l.filter (fun c => decide (c.1 ≠ k))) j = cellsFind l j
  | [] => rfl
  | (a, b) :: r => by
    by_cases e : a = k
    · subst e
      rw [List.filter_cons_of_neg (by simp), cellsFind_filter_ne hj r]
      simp [cellsFind, Ne.symm hj]
    · rw [List.filter_cons_of_pos (by simpa using e)]
      simp only [cellsFind, cellsFind_filter_ne hj r]

theorem cellsFind_filter_self (k : Nat) : ∀ l : List Host.Cell, cellsFind (l.filter (fun c => decide (c.1 ≠ k))) k = 0
  | [] => rfl
  | (a, b) :: r => by
    by_cases e : a = k
    · subst e; rw [List.filter_cons_of_neg (by simp)]; exact cellsFind_filter_self a r
    · rw [List.filter_cons_of_pos (by simpa using e)]; simp only [cellsFind, if_neg e, cellsFind_filter_self k r]

theorem cellsFind_insert_ne {k j : Nat} (b : Byte) (hj : j ≠ k) : ∀ l : List Host.Cell, cellsFind (insertCell k b l) j = cellsFind l j
  | [] => by simp [insertCell, cellsFind, Ne.symm hj]
  | (a, c) :: r => by
    unfold insertCell
    split
    · simp [cellsFind, Ne.symm hj]
    · simp only [cellsFind, cellsFind_insert_ne b hj r]

theorem cellsFind_insert_self (k : Nat) (b : Byte) : ∀ l : List Host.Cell, (∀ c ∈ l, c.1 ≠ k) → cellsFind (insertCell k b l) k = b
  | [], _ => by simp [insertCell, cellsFind]
  | (a, c) :: r, h => by
    unfold insertCell
    split
    · simp [cellsFind]
    · have e : a ≠ k := h (a, c) (by simp)
      simp only [cellsFind, if_neg e]
      exact cellsFind_insert_self k b r (fun d hd => h d (by simp [hd]))

/-- A byte reads as it was written, and a write leaves every other byte alone. -/
theorem Memory.read_write (m : Memory) (k j : Nat) (b : Byte) : (m.write k b).read j = if j = k then b else m.read j := by
  unfold Memory.write Memory.read
  dsimp only
  by_cases hj : j = k
  · subst hj
    rw [if_pos rfl]
    split
    · rename_i hb; rw [cellsFind_filter_self, hb]
    · exact cellsFind_insert_self j b _ (fun c hc => by simpa using (List.mem_filter.mp hc).2)
  · rw [if_neg hj]
    split
    · exact cellsFind_filter_ne hj _
    · rw [cellsFind_insert_ne b hj, cellsFind_filter_ne hj]

/-! Undefined bytes. -/

/-- The region that makes a byte undefined. -/
def undefAt (l : List (Nat × Nat × Nat)) (k : Nat) : Option (Nat × Nat × Nat) := l.find? (fun r => decide (r.1 ≤ k) && decide (k < r.1 + r.2.1))

/-- The seed of the byte at a key, where the spec calls the byte not defined. -/
def seedAt (l : List (Nat × Nat × Nat)) (k : Nat) : Option Nat := (undefAt l k).map (fun r => r.2.2)

/-- What an undefined byte reads as: a field of a held frame, or a free byte (R381). -/
def State.undefByte (s : State) (seed k : Nat) : Byte := match s.frames.findSome? (fun f => f.byte k) with | some b => b | none => Config.freeByte seed k

theorem State.byteAt_eq (s : State) (k : Nat) : s.byteAt k = match seedAt s.undef k with | some n => s.undefByte n k | none => s.mem.read k := by
  unfold State.byteAt seedAt undefAt State.undefByte
  cases s.undef.find? (fun r => decide (r.1 ≤ k) && decide (k < r.1 + r.2.1)) <;> rfl

/-- A byte depends on memory, the undefined regions and the held frames only. -/
theorem State.byteAt_congr {s t : State} (h1 : t.mem = s.mem) (h2 : t.undef = s.undef) (h3 : t.frames = s.frames) (k : Nat) : t.byteAt k = s.byteAt k := by
  unfold State.byteAt; rw [h1, h2, h3]

theorem find?_ite_none {α : Type} {c : Prop} [Decidable c] {x : α} {p : α → Bool} (h : c → p x = false) : (if c then [x] else []).find? p = none := by
  split
  · rename_i hc; simp [List.find?, h hc]
  · rfl

theorem seedAt_cut_self (k : Nat) : ∀ l, seedAt (undefCut k l) k = none
  | [] => rfl
  | (lo, n, seed) :: r => by
    have ih := seedAt_cut_self k r
    unfold seedAt undefAt at ih ⊢
    unfold undefCut
    split
    · rename_i h
      simp only [Option.map_eq_none_iff, List.find?_append, Option.or_eq_none_iff] at ih ⊢
      exact ⟨⟨find?_ite_none (fun _ => by simp <;> omega), find?_ite_none (fun _ => by simp <;> omega)⟩, ih⟩
    · rename_i h
      rw [List.find?_cons_of_neg (by simpa using h)]
      exact ih

theorem seedAt_cut_ne {k j : Nat} (hj : j ≠ k) : ∀ l, seedAt (undefCut k l) j = seedAt l j
  | [] => rfl
  | (lo, n, seed) :: r => by
    have ih := seedAt_cut_ne hj r
    unfold seedAt undefAt at ih ⊢
    unfold undefCut
    split
    · rename_i h
      by_cases hin : lo ≤ j ∧ j < lo + n
      · rw [List.find?_cons_of_pos (by simpa using hin)]
        rw [List.append_assoc]
        by_cases hlt : j < k
        · have : lo < k := by omega
          rw [if_pos this]
          simp only [List.singleton_append]
          rw [List.find?_cons_of_pos (by simp; omega)]
          rfl
        · have h2 : k + 1 < lo + n := by omega
          rw [if_pos h2, List.find?_append]
          have : (if lo < k then [(lo, k - lo, seed)] else []).find? (fun r => decide (r.1 ≤ j) && decide (j < r.1 + r.2.1)) = none :=
            find?_ite_none (fun _ => by simp; omega)
          rw [this, Option.none_or]
          simp only [List.singleton_append]
          rw [List.find?_cons_of_pos (by simp; omega)]
          rfl
      · rw [List.find?_cons_of_neg (by simpa using hin), ← ih, List.append_assoc, List.find?_append, List.find?_append]
        have e1 : (if lo < k then [(lo, k - lo, seed)] else []).find? (fun r => decide (r.1 ≤ j) && decide (j < r.1 + r.2.1)) = none :=
          find?_ite_none (fun _ => by simp; omega)
        have e2 : (if k + 1 < lo + n then [(k + 1, lo + n - (k + 1), seed)] else []).find? (fun r => decide (r.1 ≤ j) && decide (j < r.1 + r.2.1)) = none :=
          find?_ite_none (fun _ => by simp; omega)
        rw [e1, e2]; rfl
    · by_cases hin : lo ≤ j ∧ j < lo + n
      · rw [List.find?_cons_of_pos (by simpa using hin), List.find?_cons_of_pos (by simpa using hin)]
      · rw [List.find?_cons_of_neg (by simpa using hin), List.find?_cons_of_neg (by simpa using hin)]
        exact ih

/-! The bytes of the machine. -/

/-- Everything a noted write changes: the poison marks, the bit errors and the scratch list of written bytes. -/
theorem State.notePoison_frame (s : State) (whole : Bool) (k : Nat) : ∃ w p f, s.notePoison whole k = { s with wr := w, poison := p, flaws := f } := by
  unfold State.notePoison
  split
  · exact ⟨_, _, _, rfl⟩
  · exact ⟨s.wr, s.poison, s.flaws, rfl⟩

/-- A noted write adds no bit error. -/
theorem State.notePoison_flaws (s : State) (whole : Bool) (k : Nat) (f : Flaw) (h : f ∈ (s.notePoison whole k).flaws) : f ∈ s.flaws := by
  unfold State.notePoison at h
  split at h
  · exact (List.mem_filter.mp h).1
  · exact h

/-- A noted write adds no poison. -/
theorem State.notePoison_sub (s : State) (whole : Bool) (k u : Nat) (h : u ∈ (s.notePoison whole k).poison) : u ∈ s.poison := by
  unfold State.notePoison at h
  split at h
  · dsimp only at h; split at h
    · exact (List.mem_filter.mp h).1
    · exact h
  · exact h

/-- A byte of the machine reads as it was written, and a write leaves every other byte alone. -/
theorem State.byteAt_putByte (s : State) (whole : Bool) (k j : Nat) (b : Byte) :
    (s.putByte whole k b).byteAt j = if j = k then b else s.byteAt j := by
  rw [State.byteAt_eq, State.byteAt_eq]
  obtain ⟨w, p, f, e⟩ := s.notePoison_frame whole k
  unfold State.putByte State.undefByte
  rw [e]
  dsimp only
  by_cases hj : j = k
  · subst hj; rw [seedAt_cut_self, if_pos rfl]; simp [Memory.read_write]
  · rw [seedAt_cut_ne hj, if_neg hj]; simp [Memory.read_write, hj]

/-- Bytes at keys that are not written stay. -/
theorem State.byteAt_putKeys_ne (whole : Bool) (j : Nat) : ∀ (ks : List Nat) (bs : List Byte) (s : State), j ∉ ks → (s.putKeys whole ks bs).byteAt j = s.byteAt j
  | [], _, _, _ => by simp [State.putKeys]
  | _ :: _, [], _, _ => by simp [State.putKeys]
  | k :: ks, b :: bs, s, h => by
    simp only [List.mem_cons, not_or] at h
    rw [State.putKeys, State.byteAt_putKeys_ne whole j ks bs _ h.2, State.byteAt_putByte, if_neg h.1]

/-- Bytes written at distinct keys read back. -/
theorem State.byteAt_putKeys (whole : Bool) : ∀ (ks : List Nat) (bs : List Byte) (s : State), ks.Nodup → ks.length = bs.length → ks.map (s.putKeys whole ks bs).byteAt = bs
  | [], [], _, _, _ => rfl
  | k :: ks, b :: bs, s, h, e => by
    rw [List.nodup_cons] at h
    rw [State.putKeys, List.map_cons, State.byteAt_putKeys whole ks bs _ h.2 (by simpa using e), State.byteAt_putKeys_ne whole k ks bs _ h.1,
      State.byteAt_putByte, if_pos rfl]
  | [], _ :: _, _, _, e => by simp at e
  | _ :: _, [], _, _, e => by simp at e

/-- Bytes written from a key on are bytes written at the keys from it. -/
theorem State.putBytes_eq (whole : Bool) : ∀ (bs : List Byte) (k : Nat) (s : State), s.putBytes whole k bs = s.putKeys whole ((List.range bs.length).map (fun j => k + j)) bs
  | [], _, _ => rfl
  | b :: bs, k, s => by
    rw [State.putBytes, State.putBytes_eq whole bs]
    have : (List.range (b :: bs).length).map (fun j => k + j) = k :: (List.range bs.length).map (fun j => k + 1 + j) := by
      rw [List.length_cons, List.range_succ_eq_map, List.map_cons, List.map_map]
      simp only [Function.comp_def, Nat.add_zero]
      congr 1
      exact List.map_congr_left (fun j _ => by omega)
    rw [this, State.putKeys]

/-! The canonical form is kept. -/

theorem State.putByte_wf (s : State) (whole : Bool) (k : Nat) (b : Byte) (h : s.mem.wf = true) : (s.putByte whole k b).mem.wf = true := Memory.write_wf _ _ _ h

theorem State.putKeys_wf (whole : Bool) : ∀ (ks : List Nat) (bs : List Byte) (s : State), s.mem.wf = true → (s.putKeys whole ks bs).mem.wf = true
  | [], _, _, h => by simpa [State.putKeys] using h
  | _ :: _, [], _, h => by simpa [State.putKeys] using h
  | k :: ks, b :: bs, s, h => by rw [State.putKeys]; exact State.putKeys_wf whole ks bs _ (s.putByte_wf whole k b h)

theorem State.putBytes_wf (whole : Bool) (bs : List Byte) (k : Nat) (s : State) (h : s.mem.wf = true) : (s.putBytes whole k bs).mem.wf = true := by
  rw [State.putBytes_eq]; exact State.putKeys_wf whole _ _ _ h

/-- The memory of reset has the canonical form. -/
theorem State.reset_wf : State.reset.mem.wf = true := rfl

/-! Values of bytes. -/

@[simp] theorem leBytes_length : ∀ n v, (leBytes n v).length = n
  | 0, _ => rfl
  | n + 1, v => by simp [leBytes, leBytes_length n]

/-- Bytes laid out in little-endian order read back as the value, modulo their size (R6). -/
theorem leNat_leBytes : ∀ n v, leNat (leBytes n v) = v % 256 ^ n
  | 0, v => by simp [leBytes, leNat, Nat.mod_one]
  | n + 1, v => by
    have e : v % 256 ^ (n + 1) = v % 256 + 256 * (v / 256 % 256 ^ n) := by rw [Nat.pow_succ', Nat.mod_mul]
    rw [e, leBytes, leNat, leNat_leBytes n, BitVec.toNat_ofNat]

end Sys2Proof.Machine
end

