-- ==== Sys2Proof/Laws/Order.lean ====
section
/-! SUPPORT. The list of a hart's writes that accesses may precede: what a read and a write do to it, and that both meet memory as it is where nothing is hidden. -/
namespace Sys2Proof.Machine

/-! One list of records against another: some records of it, with fewer paths. -/

/-- `FewerHidden` of the lists. -/
def FewerRecords (l l' : List Unseen) : Prop :=
  ∀ u ∈ l', ∃ v ∈ l, u.hart = v.hart ∧ u.event = v.event ∧ u.loc = v.loc ∧ u.mask = v.mask ∧ u.old = v.old ∧ ∀ p ∈ u.paths, p ∈ v.paths

theorem FewerRecords.refl (l : List Unseen) : FewerRecords l l := fun u h => ⟨u, h, rfl, rfl, rfl, rfl, rfl, fun _ h => h⟩

theorem FewerRecords.trans {a b c : List Unseen} (h : FewerRecords a b) (k : FewerRecords b c) : FewerRecords a c := by
  intro u hu
  obtain ⟨v, hv, e1, e2, e3, e4, e5, e6⟩ := k u hu
  obtain ⟨w, hw, f1, f2, f3, f4, f5, f6⟩ := h v hv
  exact ⟨w, hw, e1.trans f1, e2.trans f2, e3.trans f3, e4.trans f4, e5.trans f5, fun p hp => f6 p (e6 p hp)⟩

theorem FewerRecords.sub {l l' : List Unseen} (h : ∀ u ∈ l', u ∈ l) : FewerRecords l l' := fun u hu => ⟨u, h u hu, rfl, rfl, rfl, rfl, rfl, fun _ h => h⟩

theorem FewerRecords.map {l : List Unseen} (f : Unseen → Unseen)
    (h : ∀ u ∈ l, (f u).hart = u.hart ∧ (f u).event = u.event ∧ (f u).loc = u.loc ∧ (f u).mask = u.mask ∧ (f u).old = u.old ∧ ∀ p ∈ (f u).paths, p ∈ u.paths) :
    FewerRecords l (l.map f) := by
  intro u hu
  obtain ⟨v, hv, rfl⟩ := List.mem_map.1 hu
  exact ⟨v, hv, h v hv⟩

theorem tidyUnseen_fewer (l : List Unseen) : FewerRecords l (tidyUnseen l) := by
  have step : ∀ (l acc : List Unseen), FewerRecords (acc ++ l)
      (l.foldl (fun acc u => acc ++ [{ u with paths := u.paths.filter (fun q => (acc.filter (fun v => v.loc == u.loc)).all (fun v => v.paths.contains q)) }]) acc) := by
    intro l
    induction l with
    | nil => intro acc; rw [List.append_nil]; exact FewerRecords.refl acc
    | cons u l ih =>
      intro acc
      rw [List.foldl_cons]
      refine FewerRecords.trans ?_ (ih _)
      intro x hx
      simp only [List.mem_append, List.mem_singleton] at hx
      rcases hx with (hx | hx) | hx
      · exact ⟨x, by simp [hx], rfl, rfl, rfl, rfl, rfl, fun _ h => h⟩
      · subst hx; exact ⟨u, by simp, rfl, rfl, rfl, rfl, rfl, fun p hp => (List.mem_filter.1 hp).1⟩
      · exact ⟨x, by simp [hx], rfl, rfl, rfl, rfl, rfl, fun _ h => h⟩
  unfold tidyUnseen
  exact FewerRecords.trans (step l []) (FewerRecords.sub (fun u hu => (List.mem_filter.1 hu).1))

theorem Unseen.reached_fewer (m : Manner) (l : List Unseen) : FewerRecords l (l.map (fun u => u.reached m)) := by
  refine FewerRecords.map _ (fun u _ => ?_)
  unfold Unseen.reached
  split <;> exact ⟨rfl, rfl, rfl, rfl, rfl, fun _ h => h⟩

theorem meetEvent_fewer (m : Manner) (l : List Unseen) (x : List Nat × List Nat) : FewerRecords l (meetEvent m l x) := by
  have h1 : FewerRecords l (l.map (fun u => if u.hart = m.hart ∧ (locsOf x.1).contains u.loc ∧ !x.2.contains u.event then u.met m else u)) := by
    refine FewerRecords.map _ (fun u _ => ?_)
    split
    · refine ⟨rfl, rfl, rfl, rfl, rfl, fun p hp => ?_⟩
      unfold Unseen.met at hp
      simp only at hp
      split at hp
      · exact hp
      · exact (List.mem_filter.1 hp).1
    · exact ⟨rfl, rfl, rfl, rfl, rfl, fun _ h => h⟩
  unfold meetEvent
  simp only
  split
  · refine h1.trans (FewerRecords.map _ (fun u _ => ?_))
    split
    · exact ⟨rfl, rfl, rfl, rfl, rfl, fun p hp => (List.mem_filter.1 hp).1⟩
    · exact ⟨rfl, rfl, rfl, rfl, rfl, fun _ h => h⟩
  · exact h1

theorem meetEvents_fewer (m : Manner) : ∀ (cuts : List (List Nat × List Nat)) (l : List Unseen), FewerRecords l (cuts.foldl (meetEvent m) l)
  | [], l => FewerRecords.refl l
  | x :: r, l => (meetEvent_fewer m l x).trans (meetEvents_fewer m r _)

/-- What no access of a hart may precede stays so. -/
theorem FewerHidden.allSeen {s t : State} {hart path : Nat} (h : FewerHidden s t) (ha : AllSeen s hart path) : AllSeen t hart path := by
  intro u hu he hp
  obtain ⟨v, hv, e1, _, _, _, _, e6⟩ := h u hu
  exact ha v hv (e1.symm.trans he) (e6 path hp)

theorem AllSeen.seen {s : State} {hart path : Nat} (h : AllSeen s hart path) (ks : List Nat) : Seen s hart path ks := by
  intro k _ u hu he
  have : u ∈ s.recordsAt (locOf k) := List.mem_of_mem_head? (by rw [hu]; rfl)
  exact h u (List.mem_filter.1 this).1 he

/-! Accesses from whose path nothing is hidden. -/

theorem State.hiding_nil {s : State} {m : Manner} {loc : Nat} (h : ∀ u, (s.recordsAt loc).head? = some u → u.hart = m.hart → m.path ∉ u.paths) : s.hiding m loc = [] := by
  unfold State.hiding
  match e : s.recordsAt loc with
  | [] => rfl
  | u :: r =>
    have hn : s.hideable m u = false := by
      have hu : u.hides m = false := by
        unfold Unseen.hides
        by_cases hh : u.hart = m.hart
        · have := h u (by rw [e]; rfl) hh
          simp [this]
        · simp [hh]
      unfold State.hideable
      rw [hu]; rfl
    rw [List.takeWhile_cons, hn]
    rfl

theorem Seen.hiding {s : State} {m : Manner} {ks : List Nat} (h : Seen s m.hart m.path ks) : ∀ l ∈ locsOf ks, s.hiding m l = [] := by
  intro l hl
  unfold locsOf at hl
  rw [List.mem_eraseDups] at hl
  obtain ⟨k, hk, rfl⟩ := List.mem_map.1 hl
  exact State.hiding_nil (h k hk)

theorem State.cut_nil {s : State} {m : Manner} {locs : List Nat} (h : ∀ l ∈ locs, s.hiding m l = []) (kind : Option WriteKind) : s.cut m kind locs = ([], s) := by
  have : locs.flatMap (s.hiding m) = [] := List.flatMap_eq_nil_iff.2 h
  unfold State.cut
  simp only [this]
  rfl

theorem Split.events_sub (p : Split) (ks : List Nat) : ∀ e ∈ p.events ks, ∀ k ∈ e, k ∈ ks := by
  intro e he k hk
  cases p with
  | bytes =>
    obtain ⟨j, hj, rfl⟩ := List.mem_map.1 he
    simp only [List.mem_singleton] at hk
    exact hk ▸ hj
  | locs =>
    obtain ⟨l, _, rfl⟩ := List.mem_map.1 he
    exact (List.mem_filter.1 hk).1
  | one =>
    simp only [Split.events, List.mem_singleton] at he
    exact he ▸ hk

theorem cutEvents_seen {s : State} {m : Manner} (kind : Option WriteKind) : ∀ evs : List (List Nat), (∀ e ∈ evs, Seen s m.hart m.path e) →
    cutEvents m kind evs s = (evs.map (fun e => (e, [])), s)
  | [], _ => rfl
  | e :: evs, h => by
    unfold cutEvents
    rw [State.cut_nil (Seen.hiding (h e (by simp))) kind]
    simp only [cutEvents_seen kind evs (fun x hx => h x (by simp [hx]))]
    rfl

theorem Seen.sub {s : State} {hart path : Nat} {ks l : List Nat} (h : Seen s hart path ks) (hl : ∀ k ∈ l, k ∈ ks) : Seen s hart path l := fun k hk => h k (hl k hk)

/-- The events of an access from which nothing is hidden precede nothing. -/
theorem Seen.cuts {s : State} {m : Manner} {ks : List Nat} (h : Seen s m.hart m.path ks) (kind : Option WriteKind) :
    cutEvents m kind (m.split.events ks) s = ((m.split.events ks).map (fun e => (e, [])), s) :=
  cutEvents_seen kind _ (fun e he => h.sub (m.split.events_sub ks e he))

/-- A read from which nothing is hidden sees the machine as it is, and leaves it so but for what may still be preceded. -/
theorem State.look_seen {s : State} {m : Manner} {ks : List Nat} (h : Seen s m.hart m.path ks) :
    (s.look m ks).1 = s ∧ ∃ u, (s.look m ks).2 = { s with unseen := u } ∧ FewerRecords s.unseen u := by
  unfold State.look
  split
  · simp only [h.cuts none]
    refine ⟨?_, _, rfl, ((Unseen.reached_fewer m _).trans (meetEvents_fewer m _ _)).trans (tidyUnseen_fewer _)⟩
    generalize m.split.events ks = evs
    induction evs with
    | nil => rfl
    | cons e evs ih => exact ih
  · exact ⟨rfl, s.unseen, rfl, FewerRecords.refl _⟩

/-- The read of an event that writes as well, where nothing is hidden from it. -/
theorem State.rmwRead_seen {s : State} {m : Manner} {ks : List Nat} (h : Seen s m.hart m.path ks) (kind : WriteKind) :
    ∃ u, s.rmwRead m kind ks = ([], s, { s with unseen := u }) ∧ FewerRecords s.unseen u := by
  have e : s.rmwRead m kind ks = ([], s, if s.hasUnseen m.hart then s.setUnseen ([(ks, [])].foldl (meetEvent m) (s.unseen.map (fun u => u.reached m))) else s) := by
    unfold State.rmwRead
    rw [cutEvents_seen (some kind) [ks] (by simpa using h)]
    rfl
  rw [e]
  split
  · exact ⟨_, rfl, ((Unseen.reached_fewer m _).trans (meetEvents_fewer m [(ks, [])] _)).trans (tidyUnseen_fewer _)⟩
  · exact ⟨s.unseen, rfl, FewerRecords.refl _⟩

/-! What a write leaves in the list. -/

theorem placeUnder_zero (x : W32) (new : Unseen) (v : W32) (rs : List Unseen) : placeUnder x new 0 v rs = (mergeWord v x new.mask, { new with old := v } :: rs, new.mask) := by
  unfold placeUnder
  cases rs <;> rfl

/-- Every record of a list is one of another with no more paths, or a new one that hides its write from other paths only. -/
def NewRecords (path : Nat) (l l' : List Unseen) : Prop :=
  ∀ u ∈ l', (∃ v ∈ l, u.hart = v.hart ∧ ∀ p ∈ u.paths, p ∈ v.paths) ∨ ∀ p ∈ u.paths, p ∈ otherPaths path

theorem FewerRecords.new {path : Nat} {l l' : List Unseen} (h : FewerRecords l l') : NewRecords path l l' := by
  intro u hu
  obtain ⟨v, hv, e, _, _, _, _, f⟩ := h u hu
  exact .inl ⟨v, hv, e, f⟩

theorem NewRecords.trans {path : Nat} {a b c : List Unseen} (h : NewRecords path a b) (k : NewRecords path b c) : NewRecords path a c := by
  intro u hu
  rcases k u hu with ⟨v, hv, e, f⟩ | e
  · rcases h v hv with ⟨w, hw, e', f'⟩ | e'
    · exact .inl ⟨w, hw, e.trans e', fun p hp => f' p (f p hp)⟩
    · exact .inr (fun p hp => e' p (f p hp))
  · exact .inr e

/-- What a hart's accesses on path LS, WN or MX may not precede stays so over a write on that path. -/
theorem NewRecords.allSeen {path : Nat} {s t : State} {hart : Nat} (h : NewRecords path s.unseen t.unseen) (hp : path < 3) (ha : AllSeen s hart path) : AllSeen t hart path := by
  intro u hu he hq
  rcases h u hu with ⟨v, hv, e, f⟩ | e
  · exact ha v hv (e.symm.trans he) (f _ hq)
  · have := e _ hq
    unfold otherPaths at this
    rw [if_neg (by omega)] at this
    simp at this

/-- A write event changes nothing of the machine but two lists. -/
def Listed (m : Manner) (s t : State) : Prop := ∃ u g, t = { s with unseen := u, groups := g } ∧ NewRecords m.path s.unseen u

theorem Listed.refl (m : Manner) (s : State) : Listed m s s := ⟨s.unseen, s.groups, rfl, (FewerRecords.refl _).new⟩
theorem Listed.trans {m : Manner} {s t u : State} (h : Listed m s t) (k : Listed m t u) : Listed m s u := by
  obtain ⟨a, b, rfl, h⟩ := h
  obtain ⟨c, d, rfl, k⟩ := k
  exact ⟨c, d, rfl, h.trans k⟩

theorem State.groupFor_listed (s : State) (m : Manner) (event block : Nat) : Listed m s (s.groupFor m event block).2 := by
  unfold State.groupFor
  split
  · split
    · exact Listed.refl m s
    · exact ⟨s.unseen, _, rfl, (FewerRecords.refl _).new⟩
  · exact Listed.refl m s

theorem State.placeAt_listed (s : State) (m : Manner) (kind : WriteKind) (event group : Nat) (l : List (Nat × Byte)) (loc : Nat) :
    Listed m s (s.placeAt m kind event group [] l loc).1 := by
  refine ⟨_, s.groups, rfl, fun u hu => ?_⟩
  simp only [List.contains_nil] at hu
  have e : ∀ rs : List Unseen, (rs.takeWhile (fun _ => false)).length = 0 := by intro rs; cases rs <;> rfl
  rw [e, placeUnder_zero] at hu
  simp only [List.cons_append, List.mem_cons, List.mem_append] at hu
  rcases hu with hu | hu | hu
  · exact .inr (by rw [hu]; exact fun _ h => h)
  · exact .inl ⟨u, (List.mem_filter.1 hu).1, rfl, fun _ h => h⟩
  · exact .inl ⟨u, (List.mem_filter.1 hu).1, rfl, fun _ h => h⟩

theorem placeEvent_listed (m : Manner) (kind : WriteKind) (l : List (Nat × Byte)) (a : State × List Nat) (ks : List Nat) : Listed m a.1 (placeEvent m kind l a (ks, [])).1 := by
  unfold placeEvent
  simp only
  generalize (a.1.unseen.map Unseen.event).foldl Nat.max 0 + 1 = event
  generalize locsOf ks = locs
  induction locs generalizing a with
  | nil => exact Listed.refl m a.1
  | cons x r ih =>
    rw [List.foldl_cons]
    refine Listed.trans ?_ (ih _)
    exact (a.1.groupFor_listed m event (x / 4096)).trans (State.placeAt_listed _ m kind event _ _ x)

/-- The events of a write that precede nothing. -/
theorem State.place_listed (s : State) (m : Manner) (kind : WriteKind) (evs : List (List Nat)) (l : List (Nat × Byte)) :
    Listed m s (s.place m kind (evs.map (fun e => (e, []))) l).1 := by
  unfold State.place
  simp only
  refine Listed.trans (t := { s with unseen := s.unseen.map (fun u => u.reached m) }) ⟨_, s.groups, rfl, (Unseen.reached_fewer m _).new⟩ ?_
  generalize ({ s with unseen := s.unseen.map (fun u => u.reached m) } : State) = t
  have h : ∀ (evs : List (List Nat)) (a : State × List Nat), Listed m a.1 ((evs.map (fun e => (e, []))).foldl (placeEvent m kind l) a).1 := by
    intro evs
    induction evs with
    | nil => exact fun a => Listed.refl m a.1
    | cons e r ih => exact fun a => (placeEvent_listed m kind l a e).trans (ih _)
  exact (h evs (t, [])).trans ⟨_, _, rfl, (tidyUnseen_fewer _).new⟩

/-- The write of an access whose events precede nothing: its bytes stand, and only the two lists differ from what `put` does. -/
theorem State.storeCut_seen (s : State) (m : Manner) (kind : WriteKind) (put : State → List Nat → List Byte → State) (evs : List (List Nat)) {ks : List Nat} {bs : List Byte}
    (he : ks.length = bs.length) :
    ∃ u g, s.storeCut m kind put (evs.map (fun e => (e, []))) ks bs = { (put s ks bs) with unseen := u, groups := g } ∧ NewRecords m.path s.unseen u := by
  obtain ⟨u, g, h, n⟩ := s.place_listed m kind evs (ks.zip bs)
  refine ⟨u, g, ?_, n⟩
  unfold State.storeCut
  have e : (evs.map (fun e => (e, ([] : List Nat)))).all (fun x => x.2.isEmpty) = true := by simp
  simp only [e, if_true, h, List.map_fst_zip (Nat.le_of_eq he), List.map_snd_zip (Nat.le_of_eq he.symm)]

/-- A store from whose path nothing is hidden writes all its bytes. -/
theorem State.storeBy_seen {s : State} {m : Manner} {ks : List Nat} {bs : List Byte} (h : Seen s m.hart m.path ks) (whole : Bool) (he : ks.length = bs.length) :
    ∃ u g, s.storeBy (some m) whole ks bs = { (s.storeKeys whole ks bs) with unseen := u, groups := g } ∧ NewRecords m.path s.unseen u := by
  unfold State.storeBy
  simp only [h.cuts (some .plain)]
  exact s.storeCut_seen m .plain (fun s => s.storeKeys whole) _ he

end Sys2Proof.Machine
end

