-- ==== Sys2Proof/Laws/Access.lean ====
section
/-! SUPPORT. Accesses of the focus hart: what a load, a store and an atomic do once their bytes are reached, and how each ends in a trap. -/
namespace Sys2Proof.Machine

/-! Errors that an access meets. -/

/-- Bytes under which no bit error stands, and whose checks match where they are verified, are read as they are. -/
theorem State.inspect_none {s : State} {ks checked : List Nat} (hf : ∀ k ∈ ks, s.flawed k = false) (hc : ∀ k ∈ checked, s.mismatch k = false) (point : Nat) :
    s.inspect point ks checked = s := by
  have h1 : s.expose ks = s := by
    unfold State.expose
    have : s.flaws.filter (fun f => ks.any f.covers) = [] := by
      rw [List.filter_eq_nil_iff]
      intro f hm hk
      obtain ⟨k, hk, hc⟩ := List.any_eq_true.1 hk
      have := hf k hk
      unfold State.flawed at this
      rw [List.any_eq_false] at this
      exact this f hm hc
    rw [this]
    rfl
  have h2 : s.badChecks checked = [] := by
    unfold State.badChecks
    have : checked.filter s.mismatch = [] := by
      rw [List.filter_eq_nil_iff]
      intro k hk
      simp [hc k hk]
    rw [this]
    rfl
  unfold State.inspect
  rw [h1]
  show (s.badChecks checked).foldl _ s = s
  rw [h2]
  rfl

theorem State.inspect_sound {s : State} {ks : List Nat} (h : Sound s ks) (point : Nat) {checked : List Nat} (hc : ∀ k ∈ checked, k ∈ ks) : s.inspect point ks checked = s :=
  State.inspect_none (fun k hk => (h k hk).1) (fun k hk => (h k (hc k hk)).2) point

/-- What met errors change: poison, the errors that stand, and the logs. -/
theorem State.setPoison_frame (s : State) (k : Nat) : ∃ p w, s.setPoison k = { s with poison := p, wr := w } := by
  unfold State.setPoison
  split <;> exact ⟨_, _, rfl⟩
theorem State.setPoisons_frame : ∀ (us : List Nat) (s : State), ∃ p w, us.foldl State.setPoison s = { s with poison := p, wr := w }
  | [], s => ⟨s.poison, s.wr, rfl⟩
  | u :: us, s => by
    obtain ⟨p, w, e⟩ := s.setPoison_frame u
    obtain ⟨p', w', e'⟩ := State.setPoisons_frame us { s with poison := p, wr := w }
    exact ⟨p', w', by rw [List.foldl_cons, e, e']⟩
theorem State.logError_frame (s : State) (d cls point core addr aux : Nat) : ∃ l e, s.logError d cls point core addr aux = { s with elogs := l, errTimes := e } := by
  unfold State.logError State.setElog
  split <;> exact ⟨_, _, rfl⟩

/-- Only errors and logs differ. -/
def OnlyErrors (s t : State) : Prop := s.withErrors t = t

theorem OnlyErrors.refl (s : State) : OnlyErrors s s := rfl
theorem OnlyErrors.trans {s t u : State} (h : OnlyErrors s t) (k : OnlyErrors t u) : OnlyErrors s u := by
  unfold OnlyErrors at *
  have : s.withErrors u = (s.withErrors t).withErrors u := rfl
  rw [this, h, k]
theorem State.meetFlaw_errors (s : State) (f : Flaw) : OnlyErrors s (s.meetFlaw f) := by
  unfold State.meetFlaw
  simp only
  obtain ⟨p, w, e⟩ := State.setPoisons_frame (if f.point = 2 then lineUnits f.first else [f.first]) { s with flaws := s.flaws.filter (fun x => x != f) }
  rw [e]
  split
  all_goals
    obtain ⟨l, x, e'⟩ := State.logError_frame (_ : State) _ _ _ _ _ _
    rw [e']
    rfl
theorem State.meetMismatch_errors (point : Nat) (s : State) (line : Nat) : OnlyErrors s (State.meetMismatch point s line) := by
  unfold State.meetMismatch
  simp only
  obtain ⟨p, w, e⟩ := State.setPoisons_frame (lineUnits line) s
  rw [e]
  split
  all_goals
    obtain ⟨l, x, e'⟩ := State.logError_frame (_ : State) _ _ _ _ _ _
    rw [e']
    rfl
theorem State.inspect_errors (s : State) (point : Nat) (ks checked : List Nat) : OnlyErrors s (s.inspect point ks checked) := by
  have h1 : ∀ (fs : List Flaw) (s : State), OnlyErrors s (fs.foldl State.meetFlaw s) := by
    intro fs
    induction fs with
    | nil => exact fun s => OnlyErrors.refl s
    | cons f fs ih => exact fun s => (s.meetFlaw_errors f).trans (ih _)
  have h2 : ∀ (ls : List Nat) (s : State), OnlyErrors s (ls.foldl (State.meetMismatch point) s) := by
    intro ls
    induction ls with
    | nil => exact fun s => OnlyErrors.refl s
    | cons l ls ih => exact fun s => (State.meetMismatch_errors point s l).trans (ih _)
  exact (h1 _ s).trans (h2 _ _)

theorem State.checkedKeys_sub (s : State) (a : Acc) (va : W64) (ks : List Nat) : ∀ k ∈ s.checkedKeys a va ks, k ∈ ks := by
  intro k hk
  unfold State.checkedKeys at hk
  simp only [List.mem_append] at hk
  rcases hk with hk | hk
  · split at hk
    · exact List.mem_of_mem_take hk
    · cases hk
  · split at hk
    · exact List.mem_of_mem_drop hk
    · cases hk

/-! Poison. -/

theorem State.firstPoison_none (s : State) : ∀ (ks : List Nat) (j : Nat), (∀ k ∈ ks, isRegSpace k = false → s.poisoned k = false) → s.firstPoison j ks = none
  | [], _, _ => rfl
  | k :: ks, j, h => by
    unfold State.firstPoison
    have hk : (!isRegSpace k && s.poisoned k) = false := by
      cases e : isRegSpace k
      · simp [h k (by simp) e]
      · rfl
    rw [hk]
    exact State.firstPoison_none s ks (j + 1) (fun x hx => h x (by simp [hx]))

/-- The first poisoned byte of an access is the one that no poisoned byte stands before. -/
theorem State.firstPoison_some (s : State) : ∀ (ks : List Nat) (i j k : Nat), ks[j]? = some k → isRegSpace k = false → s.poisoned k = true →
    (∀ x, x < j → ∀ k', ks[x]? = some k' → isRegSpace k' = true ∨ s.poisoned k' = false) → s.firstPoison i ks = some (i + j, k)
  | [], _, _, _, h, _, _, _ => by simp at h
  | c :: ks, i, 0, k, h, hr, hp, _ => by
    simp at h; subst h
    unfold State.firstPoison
    simp [hr, hp]
  | c :: ks, i, j + 1, k, h, hr, hp, hb => by
    unfold State.firstPoison
    have hc : (!isRegSpace c && s.poisoned c) = false := by
      rcases hb 0 (by omega) c (by simp) with e | e <;> simp [e]
    rw [hc]
    have := State.firstPoison_some s ks (i + 1) j k (by simpa using h) hr hp (fun x hx k' hk' => hb (x + 1) (by omega) k' (by simpa using hk'))
    simpa [Nat.add_assoc, Nat.add_comm 1 j] using this

theorem needClean_ok {s : State} {ks : List Nat} (h : Clean s ks) (ref : State) (a : Acc) (va : W64) (q : Nat) : needClean ref a va ks q s = .ok () s := by
  unfold needClean cleanOr
  rw [State.inspect_sound h.1 1 (ref.checkedKeys_sub a va ks)]
  simp only [s.firstPoison_none ks 0 h.2]

/-- A poisoned byte is logged, and traps. -/
theorem needClean_poison {s : State} {ks : List Nat} {j k : Nat} (h : Sound s ks) (hp : s.firstPoison 0 ks = some (j, k)) (ref : State) (a : Acc) (va : W64) (q : Nat) :
    needClean ref a va ks q s = .error (poisonTrap (va + BitVec.ofNat 64 j) q) (s.logPoison 5 k) := by
  unfold needClean cleanOr
  rw [State.inspect_sound h 1 (ref.checkedKeys_sub a va ks)]
  simp only [hp, if_true]

theorem translateClean_ok {α : Type} {m : M α} {clean : State → α → M Unit} {s s1 s2 s3 : State} {a : α} (hm : m s = .ok a s1)
    (h0 : clean s1 a (s.withErrors s1) = .ok () s2) (h1 : clean s1 a s1 = .ok () s3) : translateClean m clean s = .ok a s3 := by
  unfold translateClean
  simp only [hm, h0, h1]

theorem resolveM_ok {s s1 : State} {a : Acc} {va : W64} {n q : Nat} {ks : List Nat} (h : s.resolveSpan a va n = .ok (ks, s1)) : resolveM a va n q s = .ok ks s1 := by
  unfold resolveM; simp only [h]

/-- Bytes that are clean before and after translation are clean in what a fault would leave. -/
theorem Clean.withErrors {s s1 : State} {ks : List Nat} (h0 : Clean s ks) (h1 : Clean s1 ks) : Clean (s.withErrors s1) ks :=
  ⟨fun k hk => ⟨(h1.1 k hk).1, (h0.1 k hk).2⟩, fun k hk hr => h1.2 k hk hr⟩

theorem resolveClean_ok {s s1 : State} {a : Acc} {va : W64} {n q : Nat} {ks : List Nat} (h : s.resolveSpan a va n = .ok (ks, s1)) (h0 : Clean s ks) (h1 : Clean s1 ks) :
    resolveClean a va n q s = .ok ks s1 :=
  translateClean_ok (resolveM_ok h) (needClean_ok (h0.withErrors h1) _ _ _ _) (needClean_ok h1 _ _ _ _)

/-- A walk over sound entries meets no error. -/
theorem State.meetWalks_sound {s : State} {a : Acc} {va : W64} {n : Nat} (h : SoundWalk s a va n) : s.meetWalks a va n = s := by
  have e1 : (if s.needsWalk a va.toNat then s.meetWalk a va.toNat else s) = s := by
    split
    · next hw => exact State.inspect_sound (h.1 hw) 1 (fun _ hk => hk)
    · rfl
  unfold State.meetWalks
  simp only [e1]
  split
  · next hw =>
    simp only [Bool.and_eq_true, decide_eq_true_eq] at hw
    exact State.inspect_sound (h.2 hw.1 hw.2) 1 (fun _ hk => hk)
  · rfl

/-- A translation that fails traps with the fault. -/
theorem resolveM_fault {s : State} {a : Acc} {va : W64} {n q : Nat} {f : MFault} (h : s.resolveSpan a va n = .error f) (hw : SoundWalk s a va n) :
    resolveM a va n q s = .error (trap f.cause f.tval q) s := by
  unfold resolveM
  simp only [h, State.meetWalks_sound hw]

theorem translateClean_fault {α : Type} {m : M α} {clean : State → α → M Unit} {s : State} {t : Trap} (hm : m s = .error t s) : translateClean m clean s = .error t s := by
  unfold translateClean
  simp only [hm]
  rfl

theorem resolveClean_fault {s : State} {a : Acc} {va : W64} {n q : Nat} {f : MFault} (h : s.resolveSpan a va n = .error f) (hw : SoundWalk s a va n) :
    resolveClean a va n q s = .error (trap f.cause f.tval q) s := translateClean_fault (resolveM_fault h hw)

/-! Reading. -/

/-- Reads notice no list of unseen writes. -/
theorem State.touch_unseen (s : State) (u : List Unseen) : ∀ ks : List Nat, ({ s with unseen := u } : State).touch ks = { (s.touch ks) with unseen := u } := by
  intro ks
  unfold State.touch
  induction ks generalizing s with
  | nil => rfl
  | cons k ks ih =>
    rw [List.foldl_cons, List.foldl_cons]
    have e : (if isRegSpace k then ({ s with unseen := u } : State).regTouch (bits k 0 41) else { s with unseen := u })
        = { (if isRegSpace k then s.regTouch (bits k 0 41) else s) with unseen := u } := by
      split
      · unfold State.regTouch
        simp only
        split <;> rfl
      · rfl
    rw [e]
    exact ih _

theorem State.taint_unseen (s : State) (u : List Unseen) (ks : List Nat) : ({ s with unseen := u } : State).taint ks = { (s.taint ks) with unseen := u } := by
  unfold State.taint
  have e : ({ s with unseen := u } : State).inBoundWindow = s.inBoundWindow := rfl
  rw [e]
  generalize ((ks.filter s.inBoundWindow).map (fun k => k / 256)).eraseDups = ls
  induction ls generalizing s with
  | nil => rfl
  | cons l ls ih => exact ih (s.taintLine l) rfl

theorem State.afterRead_unseen (s : State) (u : List Unseen) (ks : List Nat) : ({ s with unseen := u } : State).afterRead ks = { (s.afterRead ks) with unseen := u } := by
  unfold State.afterRead
  rw [s.touch_unseen u ks, State.taint_unseen]

/-- A load that finds its bytes as they stand gives them. -/
theorem loadAs_ok {s s1 : State} {va : W64} {n q : Nat} {dev one acquire : Bool} {ks : List Nat} (h : Reads s .read dev va n ks s1) (hh : s1.hart = s.hart) :
    ∃ u, loadAs va n dev one acquire q s = .ok (s1.pathBytes pathLS ks) { (s1.afterRead ks) with unseen := u } ∧ FewerRecords s1.unseen u := by
  obtain ⟨hr, h0, h1, h2⟩ := h
  have hs : Seen s1 ({ ((s1.manner pathLS).sized va n (one || acquire)) with acquire := acquire } : Manner).hart
      ({ ((s1.manner pathLS).sized va n (one || acquire)) with acquire := acquire } : Manner).path ks := by
    show Seen s1 s1.hart.id pathLS ks
    rw [hh]; exact h2
  obtain ⟨e1, u, e2, f⟩ := State.look_seen hs
  refine ⟨u, ?_, f⟩
  unfold loadAs
  show EStateM.bind (resolveClean (s.hart.acc .read dev) va n q) (fun ks s => readAs { ((s.manner pathLS).sized va n (one || acquire)) with acquire := acquire } ks s) s = _
  simp only [EStateM.bind, resolveClean_ok (q := q) hr h0 h1]
  unfold readAs
  rw [e1, e2, State.afterRead_unseen]
  rfl

/-- A load whose translation fails traps with the fault. -/
theorem loadAs_fault {s : State} {va : W64} {n q : Nat} {dev one acquire : Bool} {f : MFault} (hr : s.resolveSpan (s.hart.acc .read dev) va n = .error f)
    (hw : SoundWalk s (s.hart.acc .read dev) va n) : loadAs va n dev one acquire q s = .error (trap f.cause f.tval q) s := by
  unfold loadAs
  show EStateM.bind (resolveClean (s.hart.acc .read dev) va n q) _ s = _
  simp only [EStateM.bind, resolveClean_fault hr hw]

/-- A load that reaches a poisoned byte traps after the error is logged, with A and D as they were (R35). -/
theorem loadAs_poison {s s1 : State} {va : W64} {n q : Nat} {dev one acquire : Bool} {ks : List Nat} {j k : Nat} (hr : Reaches s .read dev va n ks s1)
    (hs : Sound (s.withErrors s1) ks) (hp : (s.withErrors s1).firstPoison 0 ks = some (j, k)) :
    loadAs va n dev one acquire q s = .error (poisonTrap (va + BitVec.ofNat 64 j) q) ((s.withErrors s1).logPoison 5 k) := by
  unfold Reaches at hr
  unfold loadAs
  show EStateM.bind (resolveClean (s.hart.acc .read dev) va n q) _ s = _
  simp only [EStateM.bind, resolveClean, translateClean, resolveM, hr, needClean_poison hs hp]

/-! What a store of bytes changes. -/

/-- Nothing of a machine differs from another but what a store of bytes may change. -/
def OnlyMem (s t : State) : Prop := t.rememory s = s

theorem OnlyMem.refl (s : State) : OnlyMem s s := rfl
theorem OnlyMem.trans {s t u : State} (h : OnlyMem s t) (k : OnlyMem t u) : OnlyMem s u := by
  unfold OnlyMem at *
  have : (u.rememory t).rememory s = t.rememory s := congrArg (fun x => State.rememory x s) k
  exact this.trans h
theorem OnlyMem.hart {s t : State} (h : OnlyMem s t) : t.hart = s.hart := (congrArg State.hart h : (t.rememory s).hart = s.hart)
theorem OnlyMem.parked {s t : State} (h : OnlyMem s t) : t.parked = s.parked := (congrArg State.parked h : (t.rememory s).parked = s.parked)
theorem OnlyMem.frames {s t : State} (h : OnlyMem s t) : t.frames = s.frames := (congrArg State.frames h : (t.rememory s).frames = s.frames)
theorem OnlyMem.mxs {s t : State} (h : OnlyMem s t) : t.mxs = s.mxs := (congrArg State.mxs h : (t.rememory s).mxs = s.mxs)
theorem OnlyMem.choices {s t : State} (h : OnlyMem s t) : t.choices = s.choices := (congrArg State.choices h : (t.rememory s).choices = s.choices)
theorem OnlyMem.bare {s t : State} (h : OnlyMem s t) : t.bare = s.bare := (congrArg State.bare h : (t.rememory s).bare = s.bare)
theorem OnlyMem.inBoundWindow {s t : State} (h : OnlyMem s t) (k : Nat) : t.inBoundWindow k = s.inBoundWindow k := by
  unfold State.inBoundWindow; rw [h.hart, h.parked]

theorem State.taint_onlyMem (s : State) (ks : List Nat) : OnlyMem s (s.taint ks) := by
  unfold State.taint
  generalize ((ks.filter s.inBoundWindow).map (fun k => k / 256)).eraseDups = ls
  induction ls generalizing s with
  | nil => exact OnlyMem.refl s
  | cons l ls ih => exact OnlyMem.trans (t := s.taintLine l) rfl (ih (s.taintLine l))

/-- A taint changes no byte of memory, and no error. -/
theorem State.taint_keeps (s : State) (ks : List Nat) : (s.taint ks).mem = s.mem ∧ (s.taint ks).undef = s.undef ∧ (s.taint ks).poison = s.poison ∧ (s.taint ks).flaws = s.flaws
    ∧ (s.taint ks).checks = s.checks ∧ (s.taint ks).unseen = s.unseen := by
  unfold State.taint
  generalize ((ks.filter s.inBoundWindow).map (fun k => k / 256)).eraseDups = ls
  induction ls generalizing s with
  | nil => exact ⟨rfl, rfl, rfl, rfl, rfl, rfl⟩
  | cons l ls ih => exact ih (s.taintLine l)

theorem State.taint_byteAt (s : State) (ks : List Nat) (k : Nat) : (s.taint ks).byteAt k = s.byteAt k :=
  State.byteAt_congr (s.taint_keeps ks).1 (s.taint_keeps ks).2.1 (s.taint_onlyMem ks).frames k

theorem State.putKeys_onlyMem (whole : Bool) : ∀ (ks : List Nat) (bs : List Byte) (s : State), OnlyMem s (s.putKeys whole ks bs)
  | [], _, s => OnlyMem.refl s
  | _ :: _, [], s => OnlyMem.refl s
  | k :: ks, b :: bs, s => by
    obtain ⟨w, p, f, e⟩ := s.notePoison_frame whole k
    refine OnlyMem.trans (t := s.putByte whole k b) ?_ (State.putKeys_onlyMem whole ks bs (s.putByte whole k b))
    unfold State.putByte OnlyMem
    rw [e]
    rfl

/-- A store of bytes adds no poison, no bit error and no wrong check. -/
theorem State.putKeys_errors (whole : Bool) : ∀ (ks : List Nat) (bs : List Byte) (s : State), (∀ u ∈ (s.putKeys whole ks bs).poison, u ∈ s.poison)
    ∧ (∀ f ∈ (s.putKeys whole ks bs).flaws, f ∈ s.flaws) ∧ (∀ c ∈ (s.putKeys whole ks bs).checks, c ∈ s.checks)
  | [], _, _ => ⟨fun _ h => h, fun _ h => h, fun _ h => h⟩
  | _ :: _, [], _ => ⟨fun _ h => h, fun _ h => h, fun _ h => h⟩
  | k :: ks, b :: bs, s => by
    obtain ⟨h1, h2, h3⟩ := State.putKeys_errors whole ks bs (s.putByte whole k b)
    refine ⟨fun u h => s.notePoison_sub whole k u (h1 u h), fun f h => s.notePoison_flaws whole k f (h2 f h), fun c h => (List.mem_filter.1 (h3 c h)).1⟩

theorem State.storeKeys_onlyMem (s : State) (whole : Bool) (ks : List Nat) (bs : List Byte) : OnlyMem s (s.storeKeys whole ks bs) :=
  (State.putKeys_onlyMem whole ks bs s).trans (State.taint_onlyMem _ _)

theorem State.storeKeys_byteAt_eq (s : State) (whole : Bool) (ks : List Nat) (bs : List Byte) (k : Nat) : (s.storeKeys whole ks bs).byteAt k = (s.putKeys whole ks bs).byteAt k :=
  State.taint_byteAt _ ks k

/-- A byte that a store does not write is as before. -/
theorem State.storeKeys_byteAt_ne (s : State) (whole : Bool) (ks : List Nat) (bs : List Byte) (k : Nat) (hk : k ∉ ks) : (s.storeKeys whole ks bs).byteAt k = s.byteAt k := by
  rw [State.storeKeys_byteAt_eq, State.byteAt_putKeys_ne whole k ks bs s hk]

theorem State.storeKeys_errors (s : State) (whole : Bool) (ks : List Nat) (bs : List Byte) : (∀ u ∈ (s.storeKeys whole ks bs).poison, u ∈ s.poison)
    ∧ (∀ f ∈ (s.storeKeys whole ks bs).flaws, f ∈ s.flaws) ∧ (∀ c ∈ (s.storeKeys whole ks bs).checks, c ∈ s.checks) := by
  obtain ⟨_, _, h3, h4, h5, _⟩ := (s.putKeys whole ks bs).taint_keeps ks
  unfold State.storeKeys
  rw [h3, h4, h5]
  exact State.putKeys_errors whole ks bs s

/-- The canonical form is kept. -/
theorem State.storeKeys_wf (s : State) (whole : Bool) (ks : List Nat) (bs : List Byte) (h : s.mem.wf = true) : (s.storeKeys whole ks bs).mem.wf = true := by
  unfold State.storeKeys
  rw [((s.putKeys whole ks bs).taint_keeps ks).1]
  exact State.putKeys_wf whole ks bs s h

/-- Bytes of a window's storage in lines that no tainted byte of a bound window shares are as the window held them. -/
theorem State.taint_slotByte (s : State) (ks : List Nat) (k : Nat) (hl : ∀ j ∈ ks, s.inBoundWindow j = true → k / 256 ≠ j / 256) : (s.taint ks).slotByte k = s.slotByte k := by
  have hm : ∀ l ∈ ((ks.filter s.inBoundWindow).map (fun k => k / 256)).eraseDups, k / 256 ≠ l := by
    intro l h
    rw [List.mem_eraseDups] at h
    simp only [List.mem_map, List.mem_filter] at h
    obtain ⟨j, ⟨hj, hb⟩, rfl⟩ := h
    exact hl j hj hb
  unfold State.taint
  generalize ((ks.filter s.inBoundWindow).map (fun k => k / 256)).eraseDups = ls at hm
  induction ls generalizing s with
  | nil => rfl
  | cons l ls ih =>
    rw [List.foldl_cons, ih (s.taintLine l) (by
      intro j hj hb
      exact hl j hj hb) (fun x hx => hm x (by simp [hx]))]
    have hn : inRegion k (l * 256, 256, s.freeCtr) = false := by
      have := hm l (by simp)
      simp [inRegion]; omega
    unfold State.taintLine State.fresh State.slotByte
    simp only [List.find?_cons, hn]
    rfl

/-- The lists that a write leaves replaced. -/
theorem OnlyMem.listed {s t : State} (h : OnlyMem s t) (u : List Unseen) (g : List GroupNote) : OnlyMem s { t with unseen := u, groups := g } := h

/-- What a store does, as the statements put it; whatever it leaves in the list of unseen writes. -/
theorem State.storeKeys_stored (s : State) (whole : Bool) (ks : List Nat) (bs : List Byte) (u : List Unseen) (g : List GroupNote) (he : ks.length = bs.length) :
    Stored s { (s.storeKeys whole ks bs) with unseen := u, groups := g } ks bs := by
  obtain ⟨h1, h2, h3⟩ := s.storeKeys_errors whole ks bs
  refine ⟨fun hn => ?_, fun k hk => s.storeKeys_byteAt_ne whole ks bs k hk, fun k hk hl => ?_, h1, h2, h3, ?_⟩
  · exact (List.map_congr_left (fun k _ => s.storeKeys_byteAt_eq whole ks bs k)).trans (State.byteAt_putKeys whole ks bs s hn he)
  · have : (s.putKeys whole ks bs).slotByte k = s.slotByte k := by
      unfold State.slotByte
      rw [State.byteAt_putKeys_ne whole k ks bs s hk]
      have : (s.putKeys whole ks bs).vague = s.vague := by
        clear h1 h2 h3 he hl hk
        induction ks generalizing s bs with
        | nil => rfl
        | cons a ks ih =>
          cases bs with
          | nil => rfl
          | cons b bs =>
            rw [State.putKeys, ih (s.putByte whole a b) bs]
            unfold State.putByte
            obtain ⟨w, p, f, e⟩ := s.notePoison_frame whole a
            rw [e]
      rw [this]
    rw [← this]
    exact State.taint_slotByte _ ks k (fun j hj hb => hl j hj (((State.putKeys_onlyMem whole ks bs s).inBoundWindow j).symm.trans hb))
  · have h := s.storeKeys_onlyMem whole ks bs
    have hh := h.hart
    unfold OnlyMem at h
    have e : ({ (s.storeKeys whole ks bs) with unseen := u, groups := g } : State).rememory s = s := h
    rw [e]
    show ({ s with hart := { (s.storeKeys whole ks bs).hart with pc := s.hart.pc, wait := s.hart.wait, g := s.hart.g } } : State) = s
    rw [hh]

theorem any_isRegSpace {ks : List Nat} (h : Plain ks) : ks.any isRegSpace = false := by
  rw [List.any_eq_false]; intro k hk; simp [h k hk]

/-! Stores and atomics. -/

theorem State.beforeWrite_ok {s : State} {ks : List Nat} (h : ∀ k ∈ ks, (isChamber k = false → s.flawed k = false) ∧ s.mismatch k = false) (a : Acc) (va : W64) :
    s.beforeWrite a va ks = s := by
  refine State.inspect_none (fun k hk => ?_) (fun k hk => (h k (s.checkedKeys_sub a va ks k hk)).2) 1
  obtain ⟨h1, h2⟩ := List.mem_filter.1 hk
  exact (h k h1).1 (by simpa using h2)

theorem State.pathData_length (s : State) (path : Nat) (ks : List Nat) (bs : List Byte) : (s.pathData path ks bs).length = Nat.min ks.length bs.length := by
  simp [State.pathData]

theorem resolvePlain_ok {s s1 : State} {a : Acc} {va : W64} {n q : Nat} {ks : List Nat} (h : s.resolveSpan a va n = .ok (ks, s1)) (hp : Plain ks) :
    resolvePlain a va n q s = .ok ks s1 := by
  unfold resolvePlain; simp only [h, any_isRegSpace hp]; rfl

theorem resolvePlain_fault {s : State} {a : Acc} {va : W64} {n q : Nat} {f : MFault} (h : s.resolveSpan a va n = .error f) (hw : SoundWalk s a va n) :
    resolvePlain a va n q s = .error (trap f.cause f.tval q) s := by
  unfold resolvePlain
  simp only [h, State.meetWalks_sound hw]

/-- A store that reaches its bytes writes them; as one event of 16 bytes too, outside module register space. -/
theorem storeAs_ok {s s1 : State} {va : W64} {bs : List Byte} {q : Nat} {quad one release whole : Bool} {ks : List Nat} (h : Writes s va bs.length ks s1) (hh : s1.hart = s.hart)
    (hn : quad = true → ks ≠ []) (hl : ks.length = bs.length) :
    ∃ u g, storeAs va bs true quad one release whole q s = .ok () { (s1.storeKeys whole ks (s1.pathData pathLS ks bs)) with unseen := u, groups := g }
      ∧ NewRecords pathLS s1.unseen u := by
  obtain ⟨hr, hp, hm, hs⟩ := h
  have he : ks.length = (s1.pathData pathLS ks bs).length := by rw [s1.pathData_length, hl]; exact (Nat.min_self _).symm
  have hs' : Seen s1 ({ ((s1.manner pathLS).sized va bs.length (quad || one || release)) with release := release } : Manner).hart
      ({ ((s1.manner pathLS).sized va bs.length (quad || one || release)) with release := release } : Manner).path ks := by
    show Seen s1 s1.hart.id pathLS ks
    rw [hh]; exact hs
  obtain ⟨u, g, e, n⟩ := State.storeBy_seen hs' whole he
  refine ⟨u, g, ?_, n⟩
  rw [← e]
  have hb := State.beforeWrite_ok hm (s.hart.acc .write true) va
  unfold storeAs
  cases quad with
  | false =>
    show EStateM.bind (resolvePlain (s.hart.acc .write true) va bs.length q) _ s = _
    simp only [EStateM.bind, resolvePlain_ok (q := q) hr hp]
    show EStateM.Result.ok () _ = _
    simp only [hb]
    rfl
  | true =>
    show EStateM.bind (resolveM (s.hart.acc .write true) va bs.length q) _ s = _
    simp only [EStateM.bind, resolveM_ok (q := q) hr]
    match ks, hn rfl with
    | k :: ks, _ =>
      have hk : ∀ (a b : M Unit), (if isRegSpace k = true then a else b) = b := by intro a b; rw [hp k (by simp)]; rfl
      simp only [hk]
      show EStateM.Result.ok () _ = _
      simp only [hb]
      rfl

theorem State.touch_plain (s : State) : ∀ (ks : List Nat), Plain ks → s.touch ks = s
  | [], _ => rfl
  | k :: ks, h => by
    have hk := h k (by simp)
    have ih := State.touch_plain s ks (fun x hx => h x (by simp [hx]))
    unfold State.touch at ih ⊢
    simp only [List.foldl_cons, hk]
    exact ih

theorem State.afterRead_plain (s : State) {ks : List Nat} (h : Plain ks) : s.afterRead ks = s.taint ks := by
  unfold State.afterRead; rw [s.touch_plain ks h]

theorem State.notePoison_unseen (s : State) (whole : Bool) (k : Nat) (u : List Unseen) :
    ({ s with unseen := u } : State).notePoison whole k = { (s.notePoison whole k) with unseen := u } := by
  have e1 : ({ s with unseen := u } : State).poisoned k = s.poisoned k := rfl
  have e2 : ({ s with unseen := u } : State).flawed k = s.flawed k := rfl
  unfold State.notePoison
  rw [e1, e2]
  split <;> rfl

/-- A store of bytes does the same whatever stands in the list of unseen writes, but to that list. -/
theorem State.putKeys_unseen (whole : Bool) : ∀ (ks : List Nat) (bs : List Byte) (s : State) (u : List Unseen),
    ∃ w, ({ s with unseen := u } : State).putKeys whole ks bs = { (s.putKeys whole ks bs) with unseen := w }
  | [], _, _, u => ⟨u, rfl⟩
  | _ :: _, [], _, u => ⟨u, rfl⟩
  | k :: ks, b :: bs, s, u => by
    have e : ({ s with unseen := u } : State).putByte whole k b = { (s.putByte whole k b) with unseen := shutLoc (locOf k) u } := by
      unfold State.putByte
      rw [s.notePoison_unseen whole k u]
    obtain ⟨w, h⟩ := State.putKeys_unseen whole ks bs (s.putByte whole k b) (shutLoc (locOf k) u)
    exact ⟨w, by rw [State.putKeys, e, h]; rfl⟩
theorem State.storeKeys_unseen (s : State) (u : List Unseen) (whole : Bool) (ks : List Nat) (bs : List Byte) :
    ∃ w, ({ s with unseen := u } : State).storeKeys whole ks bs = { (s.storeKeys whole ks bs) with unseen := w } := by
  obtain ⟨w, e⟩ := State.putKeys_unseen whole ks bs s u
  exact ⟨w, by unfold State.storeKeys; rw [e, State.taint_unseen]⟩

/-- An atomic at clean bytes outside module register space, where no write of the hart is hidden from path LS, gives the old value, and writes the new one where there
is one. -/
theorem atomicAt_ok {s s1 : State} {va : W64} {n q : Nat} {dev acquire release : Bool} {ks : List Nat} (f : Nat → Option Nat) (hr : Reaches s .amo dev va n ks s1) (hp : Plain ks)
    (h0 : Clean s ks) (h1 : Clean s1 ks) (hs : Seen s1 s1.hart.id pathLS ks) (hl : ks.length = n) :
    match f (leNat (s1.keyBytes ks)) with
    | some y => ∃ u g, atomicAt va n dev acquire release q f s
        = .ok (leNat (s1.keyBytes ks)) { ((s1.afterRead ks).storeKeys false ks (leBytes n y)) with unseen := u, groups := g } ∧ NewRecords pathLS s1.unseen u
    | none => ∃ u, atomicAt va n dev acquire release q f s = .ok (leNat (s1.keyBytes ks)) { (s1.afterRead ks) with unseen := u } ∧ FewerRecords s1.unseen u := by
  have e := translateClean_ok (clean := fun ref ks => needClean ref (s.hart.acc .amo dev) va ks q) (resolvePlain_ok (q := q) hr hp)
    (needClean_ok (h0.withErrors h1) s1 (s.hart.acc .amo dev) va q) (needClean_ok h1 s1 (s.hart.acc .amo dev) va q)
  have e0 : atomicAt va n dev acquire release q f s
      = EStateM.bind (rmwAs { (s1.manner pathLS) with split := .one, acquire := acquire, release := release } ks (fun bs => (f (leNat bs)).map (leBytes n))) (fun old => pure (leNat old)) s1 := by
    unfold atomicAt
    show EStateM.bind (translateClean (resolvePlain (s.hart.acc .amo dev) va n q) _) _ s = _
    simp only [EStateM.bind, e]
    rfl
  have hm : ∀ m : Manner, m.hart = s1.hart.id → m.path = pathLS → Seen s1 m.hart m.path ks := by intro m a b; rw [a, b]; exact hs
  rw [e0]
  unfold rmwAs
  simp only [EStateM.bind]
  obtain ⟨_, e1, _⟩ := State.rmwRead_seen (m := { hart := s1.hart.id, path := pathLS, stamp := s1.fences, split := .one, acquire := acquire, release := false, grouped := false })
    (hm _ rfl rfl) .atomic
  have e1' : (s1.rmwRead { ({ (s1.manner pathLS) with split := Split.one, acquire := acquire, release := release } : Manner) with release := false } .atomic ks).2.1 = s1 := by
    show (s1.rmwRead { hart := s1.hart.id, path := pathLS, stamp := s1.fences, split := .one, acquire := acquire, release := false, grouped := false } .atomic ks).2.1 = s1
    rw [e1]
  simp only [e1']
  cases hf : f (leNat (s1.keyBytes ks)) with
  | none =>
    simp only [Option.map_none, Option.isNone_none, if_true]
    obtain ⟨u, e2, n2⟩ := State.rmwRead_seen (m := { ({ (s1.manner pathLS) with split := Split.one, acquire := acquire, release := release } : Manner) with release := false }) (ks := ks)
      (hm _ rfl rfl) .atomic
    refine ⟨u, ?_, n2⟩
    simp only [e2, hf, Option.map_none, State.afterRead_unseen]
    rfl
  | some y =>
    simp only [Option.map_some, Option.isNone_some]
    obtain ⟨u, e2, n2⟩ := State.rmwRead_seen (m := { (s1.manner pathLS) with split := Split.one, acquire := acquire, release := release }) (ks := ks) (hm _ rfl rfl) .atomic
    obtain ⟨v, g, e3, n3⟩ := State.storeCut_seen { (s1.afterRead ks) with unseen := u } { (s1.manner pathLS) with split := Split.one, acquire := acquire, release := release } .atomic
      (fun s => s.storeKeys false) [ks] (ks := ks) (bs := leBytes n y) (by rw [hl, leBytes_length])
    refine ⟨v, g, ?_, n2.new.trans n3⟩
    simp only [e2, hf, Option.map_some, State.afterRead_unseen, Bool.false_eq_true, if_false]
    obtain ⟨w, e4⟩ := (s1.afterRead ks).storeKeys_unseen u false ks (leBytes n y)
    refine congrArg (EStateM.Result.ok _) (e3.trans ?_)
    rw [e4]

/-! The frame of an instruction. -/

theorem runInstr_seq {len : Nat} {body : M Ctl} {s t : State} (h : body s = .ok .seq t) : runInstr len body s = .next (t.endWrites.advance len) := by
  unfold runInstr; rw [h]

theorem runInstr_wait {len : Nat} {body : M Ctl} {s t : State} {w : Wait} (h : body s = .ok (.wait w) t) : runInstr len body s = .next (t.endWrites.waiting w) := by
  unfold runInstr; rw [h]

theorem runInstr_trap {len : Nat} {body : M Ctl} {s t : State} {x : Trap} (h : body s = .error x t) : runInstr len body s = .next (t.endWrites.takeTrap x) := by
  unfold runInstr; rw [h]

/-! What translation changes: the A and D bits of page-table entries, and the choices it draws. -/

/-- The machine with everything of another that a translation may change: besides memory and its errors the logs, the TLBs and the choices. -/
def State.retranslate (t s : State) : State :=
  { (t.rememory s) with choices := s.choices, elogs := s.elogs, errTimes := s.errTimes, tlb := s.tlb, utlb := s.utlb }

/-- What a translation may change of the machine. -/
def Walked (s t : State) : Prop := t.retranslate s = s ∧ (s.mem.wf = true → t.mem.wf = true)

theorem Walked.refl (s : State) : Walked s s := ⟨rfl, fun h => h⟩

theorem Walked.trans {s t u : State} (h : Walked s t) (k : Walked t u) : Walked s u := by
  refine ⟨?_, fun x => k.2 (h.2 x)⟩
  have : (u.retranslate t).retranslate s = t.retranslate s := congrArg (fun x : State => x.retranslate s) k.1
  exact this.trans h.1

theorem Walked.hart {s t : State} (h : Walked s t) : t.hart = s.hart := (congrArg State.hart h.1 : (t.retranslate s).hart = s.hart)

theorem OnlyErrors.walked {s t : State} (h : OnlyErrors s t) : Walked s t := by
  unfold OnlyErrors at h
  refine ⟨?_, fun x => ?_⟩
  · rw [← h]; rfl
  · rw [← h]; exact x

theorem OnlyMem.walked {s t : State} (h : OnlyMem s t) (hw : s.mem.wf = true → t.mem.wf = true) : Walked s t := by
  refine ⟨?_, hw⟩
  have h' : t.rememory s = s := h
  unfold State.retranslate
  rw [h']

theorem State.putNat_onlyMem (s : State) (k n v : Nat) : OnlyMem s (s.putNat k n v) := by
  unfold State.putNat
  rw [State.putBytes_eq]
  exact State.putKeys_onlyMem _ _ _ _

theorem State.groupLeaf_frame (s : State) (l : Leaf) : ∃ c, (s.groupLeaf l).2 = { s with choices := c } := by
  unfold State.groupLeaf
  split
  · simp only
    split
    · exact ⟨s.choices, rfl⟩
    · simp only
      unfold State.choose
      split <;> exact ⟨_, rfl⟩
  · exact ⟨s.choices, rfl⟩

theorem State.setAD_walked (s : State) (a : Acc) (l : Leaf) : Walked s (s.setAD a l) := by
  unfold State.setAD
  simp only
  generalize (if needsDirty a l.pte = true then _ else _ : Nat) = e
  split
  · exact Walked.refl s
  · exact OnlyMem.walked (s.putNat_onlyMem l.at' 8 e) (fun h => State.putBytes_wf _ _ _ _ h)

theorem State.holdPicked_walked (s : State) (a : Acc) (va size pte : Nat) : Walked s (s.holdPicked a va size pte) := by
  unfold State.holdPicked
  cases a.core <;> exact ⟨rfl, fun h => h⟩

theorem State.viaTables_walked {s s1 : State} {a : Acc} {va pa : Nat} (h : s.viaTables a va = .ok (pa, s1)) : Walked s s1 := by
  unfold State.viaTables at h
  split at h
  · cases h
  · rename_i l0 _
    have w0 : Walked s (s.meetWalk a va) := (s.inspect_errors 1 _ _).walked
    obtain ⟨c, hc⟩ := (s.meetWalk a va).groupLeaf_frame l0
    generalize hg : (s.meetWalk a va).groupLeaf l0 = g at h hc
    obtain ⟨l, s'⟩ := g
    simp only at h hc
    subst hc
    split at h
    · cases h
    · split at h
      · cases h
      · cases h
        have w1 : Walked (s.meetWalk a va) { (s.meetWalk a va) with choices := c } := ⟨rfl, fun h => h⟩
        refine (w0.trans w1).trans ((State.setAD_walked _ a l0).trans ?_)
        split
        · exact State.holdPicked_walked _ a va _ _
        · exact Walked.refl _

theorem State.resolve_walked {s s1 : State} {a : Acc} {va : W64} {k : Nat} (h : s.resolve a va = .ok (k, s1)) : Walked s s1 := by
  unfold State.resolve at h
  split at h
  · cases h
  · rename_i r hr
    cases h
    unfold State.resolveNat at hr
    split at hr
    · cases hr
    · split at hr
      · split at hr
        · cases hr
        · cases hr; exact Walked.refl s
      · split at hr
        · split at hr
          · exact State.viaTables_walked hr
          · split at hr
            · cases hr
            · cases hr; exact Walked.refl s
        · exact State.viaTables_walked hr

theorem State.resolveSpan_walked {s s1 : State} {a : Acc} {va : W64} {n : Nat} {ks : List Nat} (h : s.resolveSpan a va n = .ok (ks, s1)) : Walked s s1 := by
  unfold State.resolveSpan at h
  split at h
  · cases h
  · rename_i k s0 h0
    have w0 := State.resolve_walked h0
    simp only at h
    split at h
    · split at h
      · cases h
      · cases h; exact w0
    · split at h
      · cases h
      · rename_i h1
        cases h
        exact w0.trans (State.resolve_walked h1)

/-- Reading device registers marks records of error logs as read. -/
theorem State.touch_frame (s : State) : ∀ (ks : List Nat), ∃ e, s.touch ks = { s with elogs := e } := by
  intro ks
  unfold State.touch
  induction ks generalizing s with
  | nil => exact ⟨s.elogs, rfl⟩
  | cons k ks ih =>
    rw [List.foldl_cons]
    obtain ⟨e, he⟩ : ∃ e, (if isRegSpace k then s.regTouch (bits k 0 41) else s) = { s with elogs := e } := by
      split
      · unfold State.regTouch
        simp only
        split
        · unfold State.markRead; exact ⟨_, rfl⟩
        · exact ⟨s.elogs, rfl⟩
      · exact ⟨s.elogs, rfl⟩
    rw [he]
    obtain ⟨e', h'⟩ := ih { s with elogs := e }
    exact ⟨e', h'⟩

/-- An access of n bytes has n keys. -/
theorem State.resolveSpan_length {s s1 : State} {a : Acc} {va : W64} {n : Nat} {ks : List Nat} (h : s.resolveSpan a va n = .ok (ks, s1)) : ks.length = n := by
  unfold State.resolveSpan at h
  split at h
  · cases h
  · simp only at h
    split at h
    · split at h
      · cases h
      · cases h; simp
    · split at h
      · cases h
      · cases h
        simp only [List.length_append, List.length_map, List.length_range]
        omega

end Sys2Proof.Machine
end

