-- ==== Sys2Proof/Laws/Decoding.lean ====
section
/-! SUPPORT. Packing and unpacking fields are inverse, and what the decoder makes of the bytes of a word. -/
namespace Sys2Proof

/-- Unpacking by the width of the first field packed gives its value and unpacks the rest. -/
@[simp] theorem unpack_pack (n v : Nat) (ns : List Nat) (l : List (Nat × Nat)) : unpack (n :: ns) (pack ((n, v) :: l)) = v % 2 ^ n :: unpack ns (pack l) := by
  have hn : 0 < 2 ^ n := Nat.two_pow_pos n
  simp only [pack, unpack]
  rw [Nat.add_mul_mod_self_left, Nat.mod_mod, Nat.add_mul_div_left _ _ hn, Nat.div_eq_of_lt (Nat.mod_lt _ hn), Nat.zero_add]

@[simp] theorem unpack_nil (w : Nat) : unpack [] w = [] := rfl

/-- Bits of fields. -/
def widths : List (Nat × Nat) → Nat
  | [] => 0
  | x :: l => x.1 + widths l

/-- Packed fields fit their widths. -/
theorem pack_lt (l : List (Nat × Nat)) : pack l < 2 ^ widths l := by
  induction l with
  | nil => simp [pack, widths]
  | cons x l ih =>
    obtain ⟨n, v⟩ := x
    simp only [pack, widths, Nat.pow_add]
    have h1 : v % 2 ^ n < 2 ^ n := Nat.mod_lt _ (Nat.two_pow_pos n)
    have h2 : 2 ^ n * (pack l + 1) ≤ 2 ^ n * 2 ^ widths l := Nat.mul_le_mul_left _ ih
    rw [Nat.mul_add, Nat.mul_one] at h2
    omega

/-! Bytes. -/

@[simp] theorem leBytes_length : ∀ n v, (leBytes n v).length = n
  | 0, _ => rfl
  | n + 1, v => by simp [leBytes, leBytes_length n]

theorem leValue_leBytes : ∀ n v, leValue (leBytes n v) = v % 256 ^ n
  | 0, v => by simp [leBytes, leValue, Nat.mod_one]
  | n + 1, v => by
    have e : v % 256 ^ (n + 1) = v % 256 + 256 * (v / 256 % 256 ^ n) := by rw [Nat.pow_succ', Nat.mod_mul]
    rw [e, leBytes, leValue, leValue_leBytes n, BitVec.toNat_ofNat]

/-- The length an instruction's first halfword gives follows from its low two bits (R8). -/
theorem lengthOf_low (w : Nat) : lengthOf (w % 65536) = lengthOf w := by
  unfold lengthOf
  have h2 : w % 65536 % 2 = w % 2 := by omega
  have h4 : w % 65536 % 4 = w % 4 := by omega
  rw [h2, h4]

/-- The bytes of a word that decodes, with anything behind them, decode to the same instruction. -/
theorem decode_leBytes {n v : Nat} {i : Instr} (rest : List Byte) (hn : lengthOf v = n) (hv : v < 256 ^ n) (h : decodeWord v = .ok i) :
    decode (leBytes n v ++ rest) = .ok (i, rest) := by
  have h2 : 2 ≤ n := by
    rw [← hn]; unfold lengthOf; repeat' split
    all_goals omega
  obtain ⟨m, rfl⟩ : ∃ m, n = m + 2 := ⟨n - 2, by omega⟩
  have e0 : (BitVec.ofNat 8 v).toNat + 256 * (BitVec.ofNat 8 (v / 256)).toNat = v % 65536 := by simp only [BitVec.toNat_ofNat]; omega
  simp only [leBytes, List.cons_append, decode, e0, lengthOf_low, hn]
  have hl : ¬ (BitVec.ofNat 8 v :: BitVec.ofNat 8 (v / 256) :: (leBytes m (v / 256 / 256) ++ rest)).length < m + 2 := by simp
  rw [if_neg hl]
  have ht : (BitVec.ofNat 8 v :: BitVec.ofNat 8 (v / 256) :: (leBytes m (v / 256 / 256) ++ rest)) = leBytes (m + 2) v ++ rest := rfl
  rw [ht, List.take_append_of_le_length (by simp), List.drop_append_of_le_length (by simp)]
  rw [List.take_of_length_le (by simp), List.drop_of_length_le (by simp), leValue_leBytes, Nat.mod_eq_of_lt hv, h]
  rfl

/-! Words of the three lengths. -/

/-- The low bits of packed fields whose first two are the length and MAJ. -/
theorem pack_head (lo maj : Nat) (l : List (Nat × Nat)) : pack ((2, lo) :: (6, maj) :: l) % 4 = lo % 4 ∧ pack ((2, lo) :: (6, maj) :: l) / 4 % 64 = maj % 64 := by
  simp only [pack]; omega

/-- A 32-bit word decodes as its MAJ says. -/
theorem decode_word32 {maj : Nat} {l : List (Nat × Nat)} {i : Instr} (rest : List Byte) (hl : widths l = 24)
    (h : decodeLow (pack ((2, 1) :: (6, maj) :: l)) 0 false = .ok i) : decode (leBytes 4 (pack ((2, 1) :: (6, maj) :: l)) ++ rest) = .ok (i, rest) := by
  have hh := (pack_head 1 maj l).1
  have hlt := pack_lt ((2, 1) :: (6, maj) :: l)
  simp only [widths, hl] at hlt
  refine decode_leBytes rest ?_ (by omega) ?_
  · unfold lengthOf; rw [if_neg (by omega), if_pos (by omega)]
  · unfold decodeWord
    rw [if_neg (by omega), Nat.mod_eq_of_lt (by omega), Nat.div_eq_of_lt (by omega)]
    have : decide (pack ((2, 1) :: (6, maj) :: l) % 4 = 3) = false := by simp; omega
    rw [this]; exact h

/-- A 64-bit word decodes as the MAJ of its low word says. -/
theorem decode_word64 {maj hi : Nat} {l : List (Nat × Nat)} {i : Instr} (rest : List Byte) (hl : widths l = 24) (hhi : hi < 2 ^ 32)
    (h : decodeLow (pack ((2, 3) :: (6, maj) :: l)) hi true = .ok i) :
    decode (leBytes 8 (pack ((2, 3) :: (6, maj) :: l) + 2 ^ 32 * hi) ++ rest) = .ok (i, rest) := by
  have hh := (pack_head 3 maj l).1
  have hlt := pack_lt ((2, 3) :: (6, maj) :: l)
  simp only [widths, hl] at hlt
  refine decode_leBytes rest ?_ (by omega) ?_
  · unfold lengthOf; rw [if_neg (by omega), if_neg (by omega)]
  · unfold decodeWord
    have e1 : (pack ((2, 3) :: (6, maj) :: l) + 2 ^ 32 * hi) % 2 ^ 32 = pack ((2, 3) :: (6, maj) :: l) := by omega
    have e2 : (pack ((2, 3) :: (6, maj) :: l) + 2 ^ 32 * hi) / 2 ^ 32 % 2 ^ 32 = hi := by omega
    have e3 : decide ((pack ((2, 3) :: (6, maj) :: l) + 2 ^ 32 * hi) % 4 = 3) = true := by simp; omega
    rw [if_neg (by omega), e1, e2, e3]; exact h

/-- A 16-bit word decodes as a compact one. -/
theorem decode_word16 {l : List (Nat × Nat)} {i : Instr} (rest : List Byte) (hl : widths l = 15)
    (h : decodeCompact (pack ((1, 0) :: l)) = .ok i) : decode (leBytes 2 (pack ((1, 0) :: l)) ++ rest) = .ok (i, rest) := by
  have hlt := pack_lt ((1, 0) :: l)
  simp only [widths, hl] at hlt
  have h0 : pack ((1, 0) :: l) % 2 = 0 := by simp only [pack]; omega
  refine decode_leBytes rest ?_ (by omega) ?_
  · unfold lengthOf; rw [if_pos h0]
  · unfold decodeWord; rw [if_pos h0, Nat.mod_eq_of_lt (by omega)]; exact h

/-! The bytes of an instruction. -/

theorem decode_encode32 {maj : Nat} {l : List (Nat × Nat)} {i : Instr} (e : encode i = (32, pack ((2, 1) :: (6, maj) :: l))) (rest : List Byte) (hl : widths l = 24)
    (h : decodeLow (pack ((2, 1) :: (6, maj) :: l)) 0 false = .ok i) : decode (encodeBytes i ++ rest) = .ok (i, rest) := by
  unfold encodeBytes; rw [e]; simp only [Nat.reduceDiv]; exact decode_word32 rest hl h

theorem decode_encode64 {maj hi : Nat} {l : List (Nat × Nat)} {i : Instr} (e : encode i = (64, pack ((2, 3) :: (6, maj) :: l) + 2 ^ 32 * hi)) (rest : List Byte)
    (hl : widths l = 24) (hhi : hi < 2 ^ 32) (h : decodeLow (pack ((2, 3) :: (6, maj) :: l)) hi true = .ok i) : decode (encodeBytes i ++ rest) = .ok (i, rest) := by
  unfold encodeBytes; rw [e]; simp only [Nat.reduceDiv]; exact decode_word64 rest hl hhi h

theorem decode_encode16 {l : List (Nat × Nat)} {i : Instr} (e : encode i = (16, pack ((1, 0) :: l))) (rest : List Byte) (hl : widths l = 15)
    (h : decodeCompact (pack ((1, 0) :: l)) = .ok i) : decode (encodeBytes i ++ rest) = .ok (i, rest) := by
  unfold encodeBytes; rw [e]; simp only [Nat.reduceDiv]; exact decode_word16 rest hl h

/-! One-bit fields. -/

@[simp] theorem bit_true : bit true = 1 := rfl
@[simp] theorem bit_false : bit false = 0 := rfl
@[simp] theorem bit_eq_zero (b : Bool) : bit b = 0 ↔ b = false := by cases b <;> decide
@[simp] theorem bit_beq (b : Bool) : (bit b == 1) = b := by cases b <;> rfl
@[simp] theorem bit_mod (b : Bool) : bit b % 2 = bit b := by cases b <;> rfl

/-! A register or immediate fits its field. -/

@[simp] theorem fit2 (x : BitVec 2) : x.toNat % 4 = x.toNat := Nat.mod_eq_of_lt x.isLt
@[simp] theorem fit3 (x : BitVec 3) : x.toNat % 8 = x.toNat := Nat.mod_eq_of_lt x.isLt
@[simp] theorem fit4 (x : BitVec 4) : x.toNat % 16 = x.toNat := Nat.mod_eq_of_lt x.isLt
@[simp] theorem fit5 (x : BitVec 5) : x.toNat % 32 = x.toNat := Nat.mod_eq_of_lt x.isLt
@[simp] theorem fit6 (x : BitVec 6) : x.toNat % 64 = x.toNat := Nat.mod_eq_of_lt x.isLt
@[simp] theorem fit7 (x : BitVec 7) : x.toNat % 128 = x.toNat := Nat.mod_eq_of_lt x.isLt
@[simp] theorem fit9 (x : BitVec 9) : x.toNat % 512 = x.toNat := Nat.mod_eq_of_lt x.isLt
@[simp] theorem fit10 (x : BitVec 10) : x.toNat % 1024 = x.toNat := Nat.mod_eq_of_lt x.isLt
@[simp] theorem fit12 (x : BitVec 12) : x.toNat % 4096 = x.toNat := Nat.mod_eq_of_lt x.isLt
@[simp] theorem fit14 (x : BitVec 14) : x.toNat % 16384 = x.toNat := Nat.mod_eq_of_lt x.isLt
@[simp] theorem fit17 (x : BitVec 17) : x.toNat % 131072 = x.toNat := Nat.mod_eq_of_lt x.isLt
@[simp] theorem fit19 (x : BitVec 19) : x.toNat % 524288 = x.toNat := Nat.mod_eq_of_lt x.isLt
@[simp] theorem fit32 (x : BitVec 32) : x.toNat % 4294967296 = x.toNat := Nat.mod_eq_of_lt x.isLt

/-- The values of a two-bit field. -/
theorem two_bits (x : BitVec 2) : x = 0 ∨ x = 1 ∨ x = 2 ∨ x = 3 := by revert x; decide

/-! The decoder of each MAJ. -/

section
set_option Elab.async false

theorem decodeLow_00 {w hi : Nat} {long : Bool} (h : w / 4 % 64 = 0) : decodeLow w hi long = decodeMaj00 w hi long := by simp only [decodeLow, h]
theorem decodeLow_01 {w hi : Nat} {long : Bool} (h : w / 4 % 64 = 1) : decodeLow w hi long = decodeMaj01 w hi long := by simp only [decodeLow, h]
theorem decodeLow_02 {w hi : Nat} {long : Bool} (h : w / 4 % 64 = 2) : decodeLow w hi long = decodeMaj02 w hi long := by simp only [decodeLow, h]
theorem decodeLow_03 {w hi : Nat} {long : Bool} (h : w / 4 % 64 = 3) : decodeLow w hi long = decodeMaj03 w hi long := by simp only [decodeLow, h]
theorem decodeLow_04 {w hi : Nat} {long : Bool} (h : w / 4 % 64 = 4) : decodeLow w hi long = decodeMaj04 w hi long := by simp only [decodeLow, h]
theorem decodeLow_05 {w hi : Nat} {long : Bool} (h : w / 4 % 64 = 5) : decodeLow w hi long = decodeMaj05 w hi long := by simp only [decodeLow, h]
theorem decodeLow_06 {w hi : Nat} {long : Bool} (h : w / 4 % 64 = 6) : decodeLow w hi long = decodeMaj06 w hi long := by simp only [decodeLow, h]
theorem decodeLow_07 {w hi : Nat} {long : Bool} (h : w / 4 % 64 = 7) : decodeLow w hi long = decodeMaj07 w hi long := by simp only [decodeLow, h]
theorem decodeLow_08 {w hi : Nat} {long : Bool} (h : w / 4 % 64 = 8) : decodeLow w hi long = decodeMaj08 w hi long := by simp only [decodeLow, h]
theorem decodeLow_0C {w hi : Nat} {long : Bool} (h : w / 4 % 64 = 12) : decodeLow w hi long = decodeMaj0C w hi long := by simp only [decodeLow, h]
theorem decodeLow_0D {w hi : Nat} {long : Bool} (h : w / 4 % 64 = 13) : decodeLow w hi long = decodeMaj0D w hi long := by simp only [decodeLow, h]
theorem decodeLow_0E {w hi : Nat} {long : Bool} (h : w / 4 % 64 = 14) : decodeLow w hi long = decodeMaj0E w hi long := by simp only [decodeLow, h]
theorem decodeLow_0F {w hi : Nat} {long : Bool} (h : w / 4 % 64 = 15) : decodeLow w hi long = decodeMaj0F w hi long := by simp only [decodeLow, h]
theorem decodeLow_10 {w hi : Nat} {long : Bool} (h : w / 4 % 64 = 16) : decodeLow w hi long = decodeMaj10 w hi long := by simp only [decodeLow, h]
theorem decodeLow_11 {w hi : Nat} {long : Bool} (h : w / 4 % 64 = 17) : decodeLow w hi long = decodeMaj11 w hi long := by simp only [decodeLow, h]
theorem decodeLow_12 {w hi : Nat} {long : Bool} (h : w / 4 % 64 = 18) : decodeLow w hi long = decodeMaj12 w hi long := by simp only [decodeLow, h]
theorem decodeLow_13 {w hi : Nat} {long : Bool} (h : w / 4 % 64 = 19) : decodeLow w hi long = decodeMaj13 w hi long := by simp only [decodeLow, h]
theorem decodeLow_14 {w hi : Nat} {long : Bool} (h : w / 4 % 64 = 20) : decodeLow w hi long = decodeMaj14 w hi long := by simp only [decodeLow, h]
theorem decodeLow_15 {w hi : Nat} {long : Bool} (h : w / 4 % 64 = 21) : decodeLow w hi long = decodeMaj15 w hi long := by simp only [decodeLow, h]
theorem decodeLow_16 {w hi : Nat} {long : Bool} (h : w / 4 % 64 = 22) : decodeLow w hi long = decodeMaj16 w hi long := by simp only [decodeLow, h]
theorem decodeLow_17 {w hi : Nat} {long : Bool} (h : w / 4 % 64 = 23) : decodeLow w hi long = decodeMaj17 w hi long := by simp only [decodeLow, h]
theorem decodeLow_18 {w hi : Nat} {long : Bool} (h : w / 4 % 64 = 24) : decodeLow w hi long = decodeMaj18 w hi long := by simp only [decodeLow, h]
theorem decodeLow_1C {w hi : Nat} {long : Bool} (h : w / 4 % 64 = 28) : decodeLow w hi long = decodeMaj1C w hi long := by simp only [decodeLow, h]
theorem decodeLow_1D {w hi : Nat} {long : Bool} (h : w / 4 % 64 = 29) : decodeLow w hi long = decodeMaj1D w hi long := by simp only [decodeLow, h]
theorem decodeLow_1E {w hi : Nat} {long : Bool} (h : w / 4 % 64 = 30) : decodeLow w hi long = decodeMaj1E w hi long := by simp only [decodeLow, h]
theorem decodeLow_1F {w hi : Nat} {long : Bool} (h : w / 4 % 64 = 31) : decodeLow w hi long = decodeMaj1F w hi long := by simp only [decodeLow, h]
theorem decodeLow_20 {w hi : Nat} {long : Bool} (h : w / 4 % 64 = 32) : decodeLow w hi long = decodeMaj20 w hi long := by simp only [decodeLow, h]
theorem decodeLow_21 {w hi : Nat} {long : Bool} (h : w / 4 % 64 = 33) : decodeLow w hi long = decodeMaj21 w hi long := by simp only [decodeLow, h]
theorem decodeLow_22 {w hi : Nat} {long : Bool} (h : w / 4 % 64 = 34) : decodeLow w hi long = decodeMaj22 w hi long := by simp only [decodeLow, h]
theorem decodeLow_23 {w hi : Nat} {long : Bool} (h : w / 4 % 64 = 35) : decodeLow w hi long = decodeMaj23 w hi long := by simp only [decodeLow, h]
theorem decodeLow_24 {w hi : Nat} {long : Bool} (h : w / 4 % 64 = 36) : decodeLow w hi long = decodeMaj24 w hi long := by simp only [decodeLow, h]
theorem decodeLow_25 {w hi : Nat} {long : Bool} (h : w / 4 % 64 = 37) : decodeLow w hi long = decodeMaj25 w hi long := by simp only [decodeLow, h]
theorem decodeLow_26 {w hi : Nat} {long : Bool} (h : w / 4 % 64 = 38) : decodeLow w hi long = decodeMaj26z w hi long := by simp only [decodeLow, h]
theorem decodeLow_27 {w hi : Nat} {long : Bool} (h : w / 4 % 64 = 39) : decodeLow w hi long = decodeMaj27 w hi long := by simp only [decodeLow, h]
theorem decodeLow_28 {w hi : Nat} {long : Bool} (h : w / 4 % 64 = 40) : decodeLow w hi long = decodeMaj28 w hi long := by simp only [decodeLow, h]
theorem decodeLow_29 {w hi : Nat} {long : Bool} (h : w / 4 % 64 = 41) : decodeLow w hi long = decodeMaj29 w hi long := by simp only [decodeLow, h]
theorem decodeLow_2A {w hi : Nat} {long : Bool} (h : w / 4 % 64 = 42) : decodeLow w hi long = decodeMaj2A w hi long := by simp only [decodeLow, h]
theorem decodeLow_2B {w hi : Nat} {long : Bool} (h : w / 4 % 64 = 43) : decodeLow w hi long = decodeMaj2B w hi long := by simp only [decodeLow, h]
theorem decodeLow_2C {w hi : Nat} {long : Bool} (h : w / 4 % 64 = 44) : decodeLow w hi long = decodeMaj2C w hi long := by simp only [decodeLow, h]

end

/-! The words that a second layout reads. -/

theorem decodeMaj12_sys {w hi : Nat} {long : Bool} (h : w / 2 ^ 30 % 4 = 0) : decodeMaj12 w hi long = decodeSys w long := by
  have e : w / 2 ^ 2 / 2 ^ 6 / 2 ^ 5 / 2 ^ 5 / 2 ^ 12 % 2 ^ 2 = 0 := by omega
  simp only [decodeMaj12, layCS, unpack, e]

theorem decodeMaj13_fenceX {w hi : Nat} {long : Bool} (h : w / 2 ^ 29 % 8 = 1) : decodeMaj13 w hi long = decodeMaj13x w hi long := by
  have e : w / 2 ^ 2 / 2 ^ 6 / 2 ^ 5 / 2 ^ 5 / 2 ^ 5 / 2 ^ 3 / 2 ^ 3 % 2 ^ 3 = 1 := by omega
  simp only [decodeMaj13, layFN, unpack, e]

theorem decodeMaj24_vnext {w hi : Nat} {long : Bool} (h : w / 2 ^ 25 % 32 = 6) : decodeMaj24 w hi long = decodeVnext w hi long := by
  have e : w / 2 ^ 2 / 2 ^ 6 / 2 ^ 6 / 2 ^ 6 / 2 ^ 5 % 2 ^ 5 = 6 := by omega
  simp only [decodeMaj24, layVX, unpack, e]

end Sys2Proof
end

