-- ==== Sys2Proof/Laws/Effects.lean ====
section
/-! SUPPORT. What an operation inside a vector instruction leaves unchanged, and that it goes on: a calculus over an invariant, and the invariant of an
instruction that runs alone. -/
namespace Sys2Proof.Machine

/-! The calculus. -/

/-- An operation goes on and keeps an invariant. -/
def Keeps {α : Type} (I : State → Prop) (m : M α) : Prop := ∀ s, I s → ∃ a t, m s = .ok a t ∧ I t

theorem Keeps.pure {α : Type} {I : State → Prop} (a : α) : Keeps I (pure a : M α) := fun s h => ⟨a, s, rfl, h⟩

theorem Keeps.bind {α β : Type} {I : State → Prop} {m : M α} {f : α → M β} (hm : Keeps I m) (hf : ∀ a, Keeps I (f a)) : Keeps I (m >>= f) := by
  intro s h
  obtain ⟨a, t, e, ht⟩ := hm s h
  obtain ⟨b, u, e2, hu⟩ := hf a t ht
  exact ⟨b, u, by show EStateM.bind m f s = _; simp only [EStateM.bind, e, e2], hu⟩

theorem Keeps.seq {β : Type} {I : State → Prop} {m : M Unit} {f : M β} (hm : Keeps I m) (hf : Keeps I f) : Keeps I (m >>= fun _ => f) := hm.bind (fun _ => hf)

/-- Reading the machine gives a state with the invariant. -/
theorem Keeps.getS {β : Type} {I : State → Prop} {f : State → M β} (hf : ∀ s, I s → Keeps I (f s)) : Keeps I (getS >>= f) := by
  intro s h
  obtain ⟨b, t, e, ht⟩ := hf s h s h
  exact ⟨b, t, e, ht⟩

theorem Keeps.getH {β : Type} {I : State → Prop} {f : Hart → M β} (hf : ∀ s, I s → Keeps I (f s.hart)) : Keeps I (getH >>= f) := by
  intro s h
  obtain ⟨b, t, e, ht⟩ := hf s h s h
  exact ⟨b, t, e, ht⟩

theorem Keeps.getS' {I : State → Prop} : Keeps I Machine.getS := fun s h => ⟨s, s, rfl, h⟩
theorem Keeps.getH' {I : State → Prop} : Keeps I Machine.getH := fun s h => ⟨s.hart, s, rfl, h⟩

theorem Keeps.modify {I : State → Prop} {f : State → State} (hf : ∀ s, I s → I (f s)) : Keeps I (modify f : M Unit) := fun s h => ⟨(), f s, rfl, hf s h⟩

theorem Keeps.ite {α : Type} {I : State → Prop} {c : Prop} [Decidable c] {a b : M α} (ha : c → Keeps I a) (hb : ¬c → Keeps I b) : Keeps I (if c then a else b) := by
  split
  · exact ha ‹_›
  · exact hb ‹_›

theorem Keeps.check {I : State → Prop} {c : Bool} {t : Trap} (h : c = true) : Keeps I (check c t) := by
  subst h
  exact Keeps.pure ()

theorem Keeps.atElem {α : Type} {I : State → Prop} {i : Nat} {m : M α} (hm : Keeps I m) : Keeps I (atElem i m) := by
  intro s h
  obtain ⟨a, t, e, ht⟩ := hm s h
  exact ⟨a, t, by simp only [Machine.atElem, e], ht⟩

theorem Keeps.atBlock {α : Type} {I : State → Prop} {i : Nat} {m : M α} (hm : Keeps I m) : Keeps I (atBlock i m) := by
  intro s h
  obtain ⟨a, t, e, ht⟩ := hm s h
  exact ⟨a, t, by simp only [Machine.atBlock, e], ht⟩

theorem Keeps.overElems {I : State → Prop} {free : Bool} {f : Nat → M Unit} : ∀ n i, (∀ j, i ≤ j → j < i + n → Keeps I (f j)) → Keeps I (overElems free f n i)
  | 0, _, _ => Keeps.pure ()
  | n + 1, i, h => by
    intro s hs
    obtain ⟨_, t, e, ht⟩ := (Keeps.atElem (i := i) (h i (Nat.le_refl _) (by omega))) s hs
    obtain ⟨_, u, e2, hu⟩ := Keeps.overElems (free := free) n (i + 1) (fun j h1 h2 => h j (by omega) (by omega)) t ht
    exact ⟨(), u, by simp only [Machine.overElems, e, e2], hu⟩

theorem Keeps.overList {I : State → Prop} {f : Nat → M Unit} : ∀ l : List Nat, (∀ j ∈ l, Keeps I (f j)) → Keeps I (overList f l)
  | [], _ => Keeps.pure ()
  | i :: l, h => (Keeps.atElem (h i (by simp))).seq (Keeps.overList l (fun j hj => h j (by simp [hj])))

theorem Keeps.overRange {I : State → Prop} {f : Nat → M Unit} : ∀ n i, (∀ j, i ≤ j → j < i + n → Keeps I (f j)) → Keeps I (overRange f n i)
  | 0, _, _ => Keeps.pure ()
  | n + 1, i, h => (h i (Nat.le_refl _) (by omega)).seq (Keeps.overRange n (i + 1) (fun j h1 h2 => h j (by omega) (by omega)))

theorem Keeps.collect {α : Type} {I : State → Prop} {f : Nat → M α} : ∀ n i, (∀ j, i ≤ j → j < i + n → Keeps I (f j)) → Keeps I (collect f n i)
  | 0, _, _ => Keeps.pure _
  | n + 1, i, h => (h i (Nat.le_refl _) (by omega)).bind (fun _ => (Keeps.collect n (i + 1) (fun j h1 h2 => h j (by omega) (by omega))).bind (fun _ => Keeps.pure _))

/-! The frame of a vector instruction composes. -/

theorem VecFrame.refl (ws : List Nat) (gw : Option GReg) (out : Nat → Prop) (s : State) : VecFrame ws gw out s s :=
  ⟨rfl, rfl, rfl, rfl, BitVec.and_self, fun _ _ => rfl, fun _ => ⟨rfl, rfl, Nat.le_refl _, fun _ => rfl⟩, fun _ => ⟨rfl, Nat.le_refl _, fun _ => rfl⟩, fun _ h => h, fun _ h => h, fun _ h => h,
    fun _ _ _ => rfl, fun h => h⟩

theorem Csr.bare_vcfg {c d : Csr} (h : c.bare = d.bare) : c.vcfg = d.vcfg := (congrArg Csr.vcfg h : c.bare.vcfg = d.bare.vcfg)
theorem Csr.bare_vtype {c d : Csr} (h : c.bare = d.bare) : c.vtype = d.vtype := (congrArg Csr.vtype h : c.bare.vtype = d.bare.vtype)
theorem Csr.bare_vl {c d : Csr} (h : c.bare = d.bare) : c.vl = d.vl := (congrArg Csr.vl h : c.bare.vl = d.bare.vl)
theorem Csr.bare_ovfm {c d : Csr} (h : c.bare = d.bare) : c.ovfm = d.ovfm := (congrArg Csr.ovfm h : c.bare.ovfm = d.bare.ovfm)
theorem Hart.bare_id {c d : Hart} (h : c.bare = d.bare) : c.id = d.id := (congrArg Hart.id h : c.bare.id = d.bare.id)
theorem Hart.bare_convoy {c d : Hart} (h : c.bare = d.bare) : c.convoy = d.convoy := (congrArg Hart.convoy h : c.bare.convoy = d.bare.convoy)
theorem Hart.bare_byp {c d : Hart} (h : c.bare = d.bare) : c.byp = d.byp := (congrArg Hart.byp h : c.bare.byp = d.bare.byp)

/-- Windows depend on the register file's layout and the core alone. -/
theorem Hart.inWindow_eq {h k : Hart} (hc : k.csr.vcfg = h.csr.vcfg) (hi : k.id = h.id) (hv : ∀ n, (k.vreg n).base = (h.vreg n).base)
    (hm : ∀ j, (k.mreg j).base = (h.mreg j).base) (r x : Nat) : k.inWindow r x ↔ h.inWindow r x := by
  simp only [Hart.inWindow, Hart.vw, Hart.em, Hart.core, hc, hi, hv, hm]

theorem VecFrame.inWindow {ws : List Nat} {gw : Option GReg} {out : Nat → Prop} {s t : State} (f : VecFrame ws gw out s t) (r x : Nat) :
    t.hart.inWindow r x ↔ s.hart.inWindow r x :=
  Hart.inWindow_eq (Csr.bare_vcfg f.csr) (Hart.bare_id f.hart) (fun n => (f.vregs n).1) (fun j => (f.mregs j).1) r x

theorem flags_trans {a b c : W64} (h1 : a &&& b = a) (h2 : b &&& c = b) : a &&& c = a := by
  have e : a &&& b &&& c = a &&& b := by rw [BitVec.and_assoc, h2]
  rwa [h1] at e

theorem VecFrame.trans {ws : List Nat} {gw : Option GReg} {out : Nat → Prop} {s t u : State} (f : VecFrame ws gw out s t) (g : VecFrame ws gw out t u) :
    VecFrame ws gw out s u where
  machine := g.machine.trans f.machine
  hart := g.hart.trans f.hart
  csr := g.csr.trans f.csr
  noise := g.noise.trans f.noise
  flags := flags_trans f.flags g.flags
  gregs r h := (g.gregs r h).trans (f.gregs r h)
  vregs n := ⟨(g.vregs n).1.trans (f.vregs n).1, (g.vregs n).2.1.trans (f.vregs n).2.1, Nat.le_trans (f.vregs n).2.2.1 (g.vregs n).2.2.1,
    fun h => ((g.vregs n).2.2.2 h).trans ((f.vregs n).2.2.2 h)⟩
  mregs j := ⟨(g.mregs j).1.trans (f.mregs j).1, Nat.le_trans (f.mregs j).2.1 (g.mregs j).2.1, fun h => ((g.mregs j).2.2 h).trans ((f.mregs j).2.2 h)⟩
  poison x h := f.poison x (g.poison x h)
  flaws x h := f.flaws x (g.flaws x h)
  checks x h := f.checks x (g.checks x h)
  bytes k h1 h2 := (g.bytes k (fun r hr hw => h1 r hr ((f.inWindow r k).1 hw)) h2).trans (f.bytes k h1 h2)
  wf h := g.wf (f.wf h)

theorem VecFrame.mono {ws vs : List Nat} {gw : Option GReg} {out out' : Nat → Prop} {s t : State} (f : VecFrame ws gw out s t) (h : ∀ r, r ∈ ws → r ∈ vs)
    (h' : ∀ k, out k → out' k) : VecFrame vs gw out' s t where
  machine := f.machine
  hart := f.hart
  csr := f.csr
  noise := f.noise
  flags := f.flags
  gregs := f.gregs
  vregs n := ⟨(f.vregs n).1, (f.vregs n).2.1, (f.vregs n).2.2.1, fun hn => (f.vregs n).2.2.2 (fun hx => hn (h n hx))⟩
  mregs j := ⟨(f.mregs j).1, (f.mregs j).2.1, fun hn => (f.mregs j).2.2 (fun hx => hn (h _ hx))⟩
  poison := f.poison
  flaws := f.flaws
  checks := f.checks
  bytes k h1 h2 := f.bytes k (fun r hr => h1 r (h r hr)) (fun hx => h2 (h' k hx))
  wf := f.wf

/-! Sizes of the register file. -/

theorem vcfgW_eq (v : W64) : ∃ q, vcfgW v = 1024 * q ∧ 0 < q := by
  unfold vcfgW vcfgVsz vcfgNv bits
  generalize hx : v.toNat / 2 ^ 4 % 2 ^ 3 = a
  generalize hy : v.toNat / 2 ^ 0 % 2 ^ 2 = b
  have ha : a < 8 := hx ▸ Nat.mod_lt _ (by decide)
  have hb : b < 4 := hy ▸ Nat.mod_lt _ (by decide)
  refine ⟨2 ^ a * 2 ^ (3 - b), ?_, Nat.mul_pos (Nat.two_pow_pos _) (Nat.two_pow_pos _)⟩
  have : b = 0 ∨ b = 1 ∨ b = 2 ∨ b = 3 := by omega
  rcases this with rfl | rfl | rfl | rfl <;> simp only [Nat.reducePow, Nat.reduceSub, Nat.reduceMul] <;> omega

theorem vcfgNv_le (v : W64) : vcfgNv v ≤ 64 := by
  unfold vcfgNv bits
  have h : v.toNat / 2 ^ 0 % 2 ^ 2 < 4 := Nat.mod_lt _ (by decide)
  generalize v.toNat / 2 ^ 0 % 2 ^ 2 = b at h
  have : b = 0 ∨ b = 1 ∨ b = 2 ∨ b = 3 := by omega
  rcases this with rfl | rfl | rfl | rfl <;> decide

theorem Csr.lmul_le (c : Csr) : 1 ≤ c.lmul ∧ c.lmul ≤ 8 := by
  unfold Csr.lmul bits
  have h : c.vtype.toNat / 2 ^ 4 % 2 ^ 2 < 4 := Nat.mod_lt _ (by decide)
  generalize c.vtype.toNat / 2 ^ 4 % 2 ^ 2 = b at h
  have : b = 0 ∨ b = 1 ∨ b = 2 ∨ b = 3 := by omega
  rcases this with rfl | rfl | rfl | rfl <;> decide

theorem vcfgEm_eq (v : W64) : ∃ q, vcfgEm v = 32 * q ∧ 0 < q := by
  obtain ⟨q, h, hp⟩ := vcfgW_eq v
  unfold vcfgEm
  rw [h]
  rcases Nat.le_total 0x10000 (8 * (1024 * q)) with h | h
  · exact ⟨2048, Nat.min_eq_left h, by decide⟩
  · exact ⟨256 * q, (Nat.min_eq_right h).trans (by omega), by omega⟩

theorem Tag.bits_cases (t : Tag) : (t.bits = 4 ∧ t.bytes = 1) ∨ (t.bits = 8 ∧ t.bytes = 1) ∨ (t.bits = 16 ∧ t.bytes = 2) ∨ (t.bits = 32 ∧ t.bytes = 4) ∨ (t.bits = 64 ∧ t.bytes = 8) := by
  cases t <;> simp [Tag.bits, Tag.bytes]

/-- The bytes of an element lie within the group's bytes. -/
theorem elem_fits {t : Tag} {c w i j : Nat} (hi : i < c * w * 8 / t.bits) (hj : j < t.bytes) : i * t.bits / 8 + j < c * w := by
  generalize c * w = n at hi ⊢
  rcases t.bits_cases with ⟨h, h2⟩ | ⟨h, h2⟩ | ⟨h, h2⟩ | ⟨h, h2⟩ | ⟨h, h2⟩ <;> rw [h] at hi ⊢ <;> rw [h2] at hj <;> omega

theorem Hart.elemKeys_window {h : Hart} {n c i k : Nat} {t : Tag} (h64 : n + c ≤ 64) (hi : i < c * h.vw * 8 / t.bits) (hk : k ∈ h.elemKeys n t i) :
    ∃ r, n ≤ r ∧ r < n + c ∧ h.inWindow r k := by
  obtain ⟨q, hq, hp⟩ := vcfgW_eq h.csr.vcfg
  have hw : 0 < h.vw := by unfold Hart.vw; omega
  simp only [Hart.elemKeys, List.mem_map, List.mem_range] at hk
  obtain ⟨j, hj, rfl⟩ := hk
  have hf := elem_fits hi hj
  have hr : (i * t.bits / 8 + j) / h.vw < c := (Nat.div_lt_iff_lt_mul hw).2 hf
  refine ⟨n + (i * t.bits / 8 + j) / h.vw, Nat.le_add_right _ _, Nat.add_lt_add_left hr n, .inl ⟨Nat.lt_of_lt_of_le (Nat.add_lt_add_left hr n) h64, _, Nat.mod_lt _ hw, rfl⟩⟩

theorem Hart.maskKeys_window {h : Hart} {j i k : Nat} (hi : i < h.em) (hk : k ∈ h.maskKeys j i) : h.inWindow (128 + j) k := by
  simp only [Hart.maskKeys, List.mem_map, List.mem_range] at hk
  obtain ⟨b, hb, rfl⟩ := hk
  refine .inr ⟨by omega, 2 * i + b, by omega, ?_⟩
  rw [Nat.add_sub_cancel_left, Nat.add_assoc]

theorem getD_set {α : Type} (l : List α) (n m : Nat) (x d : α) : (l.set n x).getD m d = if n = m ∧ m < l.length then x else l.getD m d := by
  simp only [List.getD_eq_getElem?_getD, List.getElem?_set]
  by_cases h : n = m
  · subst h
    by_cases hl : n < l.length
    · simp [hl]
    · simp [hl]
  · simp [h]

theorem Hart.grow_vreg (h : Hart) (n hi m : Nat) : ((h.grow n hi).vreg m).base = (h.vreg m).base ∧ ((h.grow n hi).vreg m).tag = (h.vreg m).tag
    ∧ (h.vreg m).len ≤ ((h.grow n hi).vreg m).len ∧ (m ≠ n → (h.grow n hi).vreg m = h.vreg m) := by
  have e : (h.grow n hi).vreg m = if n = m ∧ m < h.vregs.length then { h.vreg n with len := Nat.max (h.vreg n).len hi } else h.vreg m := by
    unfold Hart.grow; exact getD_set ..
  rw [e]
  split
  · obtain ⟨rfl, _⟩ := ‹_ ∧ _›
    exact ⟨rfl, rfl, Nat.le_max_left _ _, fun h => absurd rfl h⟩
  · exact ⟨rfl, rfl, Nat.le_refl _, fun _ => rfl⟩

theorem Hart.growMask_mreg (h : Hart) (j hi m : Nat) : ((h.growMask j hi).mreg m).base = (h.mreg m).base ∧ (h.mreg m).len ≤ ((h.growMask j hi).mreg m).len
    ∧ (m ≠ j → (h.growMask j hi).mreg m = h.mreg m) := by
  have e : (h.growMask j hi).mreg m = if j = m ∧ m < h.mregs.length then { h.mreg j with len := Nat.max (h.mreg j).len hi } else h.mreg m := by
    unfold Hart.growMask; exact getD_set ..
  rw [e]
  split
  · obtain ⟨rfl, _⟩ := ‹_ ∧ _›
    exact ⟨rfl, Nat.le_max_left _ _, fun h => absurd rfl h⟩
  · exact ⟨rfl, Nat.le_refl _, fun _ => rfl⟩

/-! Operations on operands. -/

variable {ws : List Nat} {gw : Option GReg} {out : Nat → Prop}

/-- Memory that changes only in the windows of registers that may be written, and in bytes that may be stored to. -/
theorem OnlyMem.vecFrame {s t : State} (h : OnlyMem s t) (hp : ∀ u ∈ t.poison, u ∈ s.poison) (hf : ∀ f ∈ t.flaws, f ∈ s.flaws) (hc : ∀ c ∈ t.checks, c ∈ s.checks)
    (hb : ∀ k, (∀ r, r ∈ ws → ¬ s.hart.inWindow r k) → ¬ out k → t.byteAt k = s.byteAt k) (hw : s.mem.wf = true → t.mem.wf = true) : VecFrame ws gw out s t := by
  have hh := h.hart
  refine ⟨h.bare, by rw [hh], by rw [hh], by rw [hh], by rw [hh]; exact BitVec.and_self, ?_, ?_, ?_, hp, hf, hc, hb, hw⟩
  · intro r _; unfold State.gr; rw [hh]
  · rw [hh]; intro n; exact ⟨rfl, rfl, Nat.le_refl _, fun _ => rfl⟩
  · rw [hh]; intro n; exact ⟨rfl, Nat.le_refl _, fun _ => rfl⟩

theorem State.putKeys_vecFrame (s : State) (whole : Bool) (ks : List Nat) (bs : List Byte) (hk : ∀ k, k ∈ ks → (∃ r, r ∈ ws ∧ s.hart.inWindow r k) ∨ out k) :
    VecFrame ws gw out s (s.putKeys whole ks bs) := by
  obtain ⟨h1, h2, h3⟩ := State.putKeys_errors whole ks bs s
  refine (State.putKeys_onlyMem whole ks bs s).vecFrame h1 h2 h3 (fun k hr ho => State.byteAt_putKeys_ne whole k ks bs s (fun h => ?_)) (State.putKeys_wf whole ks bs s)
  rcases hk k h with ⟨r, hr', hw⟩ | h
  · exact hr r hr' hw
  · exact ho h

/-- Half a byte noted changes no memory and adds no error. -/
theorem State.noteHalf_frame (s : State) (k : Nat) (high : Bool) : ∃ w p f, s.noteHalf k high = { s with wr := w, poison := p, flaws := f } ∧ (∀ u ∈ p, u ∈ s.poison) ∧ ∀ x ∈ f, x ∈ s.flaws := by
  unfold State.noteHalf
  split
  · dsimp only
    split
    · obtain ⟨w, p, f, e⟩ := s.notePoison_frame false k
      refine ⟨_, p, f, by rw [e], fun u hu => s.notePoison_sub false k u (by rw [e]; exact hu), fun x hx => s.notePoison_flaws false k x (by rw [e]; exact hx)⟩
    · exact ⟨_, s.poison, s.flaws, rfl, fun _ h => h, fun _ h => h⟩
  · exact ⟨s.wr, s.poison, s.flaws, rfl, fun _ h => h, fun _ h => h⟩

/-- A byte written with nothing noted reads so, and every other byte stays. -/
theorem State.byteAt_putRaw (s : State) (k j : Nat) (b : Byte) : (s.putRaw k b).byteAt j = if j = k then b else s.byteAt j := by
  rw [State.byteAt_eq, State.byteAt_eq]
  unfold State.putRaw State.undefByte
  dsimp only
  by_cases hj : j = k
  · subst hj; rw [seedAt_cut_self, if_pos rfl]; simp [Memory.read_write]
  · rw [seedAt_cut_ne hj, if_neg hj]; simp [Memory.read_write, hj]

/-- Half a byte written, one byte at a time. -/
theorem State.putHalf_one (s : State) (k : Nat) (high : Bool) (b : Byte) : State.putHalf high s [k] [b] = (s.noteHalf k high).putRaw k b := rfl

theorem State.putHalf_onlyMem (s : State) (k : Nat) (high : Bool) (b : Byte) : OnlyMem s (State.putHalf high s [k] [b]) := by
  obtain ⟨w, p, f, e, _⟩ := s.noteHalf_frame k high
  rw [State.putHalf_one, e]; rfl

theorem State.putHalf_vecFrame (s : State) (k : Nat) (high : Bool) (b : Byte) (hk : (∃ r, r ∈ ws ∧ s.hart.inWindow r k) ∨ out k) :
    VecFrame ws gw out s (State.putHalf high s [k] [b]) := by
  obtain ⟨w, p, f, e, h1, h2⟩ := s.noteHalf_frame k high
  refine (s.putHalf_onlyMem k high b).vecFrame ?_ ?_ ?_ (fun j hr ho => ?_) ?_
  · rw [State.putHalf_one, e]; exact h1
  · rw [State.putHalf_one, e]; exact h2
  · rw [State.putHalf_one, e]; exact fun c hc => (List.mem_filter.1 hc).1
  · rw [State.putHalf_one, State.byteAt_putRaw, if_neg, e]
    · exact State.byteAt_congr rfl rfl rfl j
    · rintro rfl
      rcases hk with ⟨r, hr', hw⟩ | h
      · exact hr r hr' hw
      · exact ho h
  · rw [State.putHalf_one, e]; exact Memory.write_wf _ _ _

/-- The lists that an access leaves are the model's own. -/
theorem VecFrame.listed {s t : State} (f : VecFrame ws gw out s t) (u : List Unseen) (g : List GroupNote) : VecFrame ws gw out s { t with unseen := u, groups := g } :=
  ⟨f.machine, f.hart, f.csr, f.noise, f.flags, f.gregs, f.vregs, f.mregs, f.poison, f.flaws, f.checks, f.bytes, f.wf⟩

/-- Bytes of the hart's own registers written where nothing is hidden from path LS: the write, and the two lists. -/
theorem State.putOwn_seen {s : State} (h : AllSeen s s.hart.id pathLS) (put : State → List Nat → List Byte → State) {ks : List Nat} {bs : List Byte} (he : ks.length = bs.length) :
    ∃ u g, s.putOwn put ks bs = { (put s ks bs) with unseen := u, groups := g } ∧ NewRecords pathLS s.unseen u := by
  unfold State.putOwn
  have e : cutEvents (s.manner pathLS) (some .plain) (Split.locs.events ks) s = ((Split.locs.events ks).map (fun e => (e, [])), s) :=
    Seen.cuts (m := s.manner pathLS) (h.seen ks) (some .plain)
  simp only [e]
  exact s.storeCut_seen (s.manner pathLS) .plain put _ he

/-- Replacing the focus hart by one with the same windows and other fields as they were. -/
theorem VecFrame.setHart {s : State} {h : Hart} (h1 : h.bare = s.hart.bare) (h2 : h.csr = s.hart.csr) (h3 : h.g = s.hart.g)
    (h4 : ∀ n, (h.vreg n).base = (s.hart.vreg n).base ∧ (h.vreg n).tag = (s.hart.vreg n).tag ∧ (s.hart.vreg n).len ≤ (h.vreg n).len ∧ (n ∉ ws → h.vreg n = s.hart.vreg n))
    (h5 : ∀ j, (h.mreg j).base = (s.hart.mreg j).base ∧ (s.hart.mreg j).len ≤ (h.mreg j).len ∧ (128 + j ∉ ws → h.mreg j = s.hart.mreg j)) :
    VecFrame ws gw out s (s.setHart h) := by
  refine ⟨rfl, h1, by rw [State.setHart_hart, h2], by rw [State.setHart_hart, h2], by rw [State.setHart_hart, h2]; exact BitVec.and_self, ?_, h4, h5, fun _ h => h,
    fun _ h => h, fun _ h => h, fun _ _ _ => rfl, fun h => h⟩
  intro r _
  simp only [State.gr, Hart.gr, State.setHart_hart, h3]

theorem State.putCode_vecFrame (s : State) {n c i : Nat} {t : Tag} (code : Nat) (ha : AllSeen s s.hart.id pathLS) (h64 : n + c ≤ 64) (hws : ∀ j, j < c → n + j ∈ ws)
    (hi : i < c * s.hart.vw * 8 / t.bits) :
    VecFrame ws gw out s (s.putCode (.reg n c) t i code) ∧ AllSeen (s.putCode (.reg n c) t i code) s.hart.id pathLS ∧ (s.putCode (.reg n c) t i code).mxs = s.mxs
      ∧ (s.putCode (.reg n c) t i code).hart = s.hart.grow (n + i * t.bits / 8 / s.hart.vw) (i * t.bits / 8 % s.hart.vw + t.bytes) := by
  have hk : ∀ k, k ∈ s.hart.elemKeys n t i → (∃ r, r ∈ ws ∧ s.hart.inWindow r k) ∨ out k := by
    intro k hk
    obtain ⟨r, h1, h2, h3⟩ := Hart.elemKeys_window h64 hi hk
    have := hws (r - n) (by omega)
    rw [Nat.add_sub_cancel' h1] at this
    exact .inl ⟨r, this, h3⟩
  obtain ⟨q, hq, hp⟩ := vcfgW_eq s.hart.csr.vcfg
  have hw : 0 < s.hart.vw := by unfold Hart.vw; omega
  have hn : n + i * t.bits / 8 / s.hart.vw ∈ ws := by
    have h0 : 0 < t.bytes := by rcases t.bits_cases with h | h | h | h | h <;> omega
    have := elem_fits hi h0
    exact hws _ ((Nat.div_lt_iff_lt_mul hw).2 (by omega))
  have hgrow : ∀ (T : State) (u : List Unseen), OnlyMem s T → NewRecords pathLS s.unseen T.unseen → VecFrame ws gw out s T →
      let r := T.setHart (s.hart.grow (n + i * t.bits / 8 / s.hart.vw) (i * t.bits / 8 % s.hart.vw + t.bytes))
      VecFrame ws gw out s r ∧ AllSeen r s.hart.id pathLS ∧ r.mxs = s.mxs ∧ r.hart = s.hart.grow (n + i * t.bits / 8 / s.hart.vw) (i * t.bits / 8 % s.hart.vw + t.bytes) := by
    intro T _ ho hu hf
    have hh := ho.hart
    refine ⟨hf.trans ?_, hu.allSeen (t := T) (by decide) ha, ho.mxs, rfl⟩
    rw [← hh] at hn ⊢
    refine VecFrame.setHart rfl rfl rfl (fun m => ?_) (fun j => ⟨rfl, Nat.le_refl _, fun _ => rfl⟩)
    obtain ⟨a, b, c, d⟩ := T.hart.grow_vreg (n + i * t.bits / 8 / T.hart.vw) (i * t.bits / 8 % T.hart.vw + t.bytes) m
    exact ⟨a, b, c, fun h => d (fun e => h (e ▸ hn))⟩
  by_cases hx : t = .bx4
  · subst hx
    obtain ⟨k, hkk⟩ : ∃ k, s.hart.elemKeys n .bx4 i = [k] := by
      have hl : (s.hart.elemKeys n .bx4 i).length = 1 := by unfold Hart.elemKeys; rw [List.length_map, List.length_range]; rfl
      exact List.length_eq_one_iff.1 hl
    obtain ⟨b, hb⟩ : ∃ b : Byte, b = BitVec.ofNat 8 (setNibble i (s.byteAt ((s.hart.elemKeys n .bx4 i).headD 0)).toNat code) := ⟨_, rfl⟩
    obtain ⟨u, g, e, hu⟩ := State.putOwn_seen ha (State.putHalf (i % 2 == 1)) (ks := [k]) (bs := [b]) rfl
    have e' : s.putCode (.reg n c) .bx4 i code = ({ (State.putHalf (i % 2 == 1) s [k] [b]) with unseen := u, groups := g } : State).setHart
        (s.hart.grow (n + i * Tag.bx4.bits / 8 / s.hart.vw) (i * Tag.bx4.bits / 8 % s.hart.vw + Tag.bx4.bytes)) := by
      unfold State.putCode
      simp only [if_true, ← hb]
      rw [hkk, e]
    rw [e']
    exact hgrow _ u ((s.putHalf_onlyMem k _ b).listed u g) hu ((s.putHalf_vecFrame k _ b (hk _ (by rw [hkk]; exact List.mem_singleton.2 rfl))).listed u g)
  · obtain ⟨u, g, e, hu⟩ := State.putOwn_seen ha (fun s => s.putKeys false) (ks := s.hart.elemKeys n t i) (bs := leBytes t.bytes code)
      (by rw [leBytes_length]; unfold Hart.elemKeys; rw [List.length_map, List.length_range])
    have e' : s.putCode (.reg n c) t i code = ({ (s.putKeys false (s.hart.elemKeys n t i) (leBytes t.bytes code)) with unseen := u, groups := g } : State).setHart
        (s.hart.grow (n + i * t.bits / 8 / s.hart.vw) (i * t.bits / 8 % s.hart.vw + t.bytes)) := by
      unfold State.putCode
      simp only [if_neg hx, e]
    rw [e']
    exact hgrow _ u ((State.putKeys_onlyMem ..).listed u g) hu ((s.putKeys_vecFrame false (s.hart.elemKeys n t i) (leBytes t.bytes code) hk).listed u g)

theorem State.putMask_vecFrame (s : State) {j i : Nat} (code : Nat) (ha : AllSeen s s.hart.id pathLS) (hws : 128 + j ∈ ws) (hi : i < s.hart.em) :
    VecFrame ws gw out s (s.putMask j i code) ∧ AllSeen (s.putMask j i code) s.hart.id pathLS ∧ (s.putMask j i code).mxs = s.mxs := by
  obtain ⟨u, g, e, hu⟩ := State.putOwn_seen ha (fun s => s.putKeys false) (ks := s.hart.maskKeys j i) (bs := leBytes 2 code)
    (by rw [leBytes_length]; unfold Hart.maskKeys; rw [List.length_map, List.length_range])
  have ho : OnlyMem s ({ (s.putKeys false (s.hart.maskKeys j i) (leBytes 2 code)) with unseen := u, groups := g } : State) := (State.putKeys_onlyMem ..).listed u g
  have hf : VecFrame ws gw out s ({ (s.putKeys false (s.hart.maskKeys j i) (leBytes 2 code)) with unseen := u, groups := g } : State) :=
    (s.putKeys_vecFrame false (s.hart.maskKeys j i) (leBytes 2 code) (fun k hk => .inl ⟨_, hws, Hart.maskKeys_window hi hk⟩)).listed u g
  unfold State.putMask
  rw [e]
  have hh := ho.hart
  refine ⟨hf.trans ?_, hu.allSeen (t := ({ (s.putKeys false (s.hart.maskKeys j i) (leBytes 2 code)) with unseen := u, groups := g } : State)) (by decide) ha, ho.mxs⟩
  generalize ({ (s.putKeys false (s.hart.maskKeys j i) (leBytes 2 code)) with unseen := u, groups := g } : State) = T at hh ⊢
  rw [← hh]
  refine VecFrame.setHart rfl rfl rfl (fun n => ⟨rfl, rfl, Nat.le_refl _, fun _ => rfl⟩) (fun m => ?_)
  obtain ⟨a, b, d⟩ := T.hart.growMask_mreg j (2 * i + 2) m
  exact ⟨a, b, fun h => d (fun e => h (e ▸ hws))⟩

/-- A hart in no convoy, nothing wrong in memory, no write hidden from path LS, no noise logged or replayed, VL within a mask register. -/
structure Loose (s : State) : Prop where
  convoy : s.hart.convoy = none
  poison : s.poison = []
  flaws : s.flaws = []
  checks : s.checks = []
  seen : AllSeen s s.hart.id pathLS
  noise : noiseMode s.hart.csr.noise = 0
  vl : s.hart.csr.vlN ≤ s.hart.em

/-- What holds of the matrix units, the windows and the streams. -/
abbrev Units := List MxUnit → List (Option Window) → List (Option Stream) → Prop

/-- They are as they were. -/
def Same (s : State) : Units := fun m w r => m = s.mxs ∧ w = s.hart.wins ∧ r = s.hart.strs

/-- The machine inside a vector instruction begun at s0 that may write the registers `ws`, the scalar register `gw` and the bytes `out`, and keeps `Q`
of the matrix units, the windows and the streams. -/
structure Calm (ws : List Nat) (gw : Option GReg) (out : Nat → Prop) (Q : Units) (s0 s : State) : Prop where
  frame : VecFrame ws gw out s0 s
  estart : s.hart.csr.estart = s0.hart.csr.estart
  loose : Loose s
  last : s.hart.lastDest = s0.hart.lastDest
  pc : s.hart.pc = s0.hart.pc
  units : Q s.mxs s.hart.wins s.hart.strs

variable {Q : Units} {s0 s t : State}

theorem Calm.start (h : Loose s) (q : Q s.mxs s.hart.wins s.hart.strs) : Calm ws gw out Q s s := ⟨VecFrame.refl .., rfl, h, rfl, rfl, q⟩

theorem Loose.next (h : Loose s) (f : VecFrame ws gw out s t) (a : AllSeen t s.hart.id pathLS) : Loose t where
  convoy := (Hart.bare_convoy f.hart).trans h.convoy
  poison := List.eq_nil_iff_forall_not_mem.2 (fun u hu => List.not_mem_nil (h.poison ▸ f.poison u hu))
  flaws := List.eq_nil_iff_forall_not_mem.2 (fun u hu => List.not_mem_nil (h.flaws ▸ f.flaws u hu))
  checks := List.eq_nil_iff_forall_not_mem.2 (fun u hu => List.not_mem_nil (h.checks ▸ f.checks u hu))
  seen := by rw [Hart.bare_id f.hart]; exact a
  noise := f.noise.trans h.noise
  vl := by
    have e1 := Csr.bare_vl f.csr
    have e2 := Csr.bare_vcfg f.csr
    have := h.vl
    unfold Csr.vlN Hart.em at *
    rwa [e1, e2]

theorem Calm.next (h : Calm ws gw out Q s0 s) (f : VecFrame ws gw out s t) (a : AllSeen t s.hart.id pathLS) (e : t.hart.csr.estart = s.hart.csr.estart) (l : t.hart.lastDest = s.hart.lastDest)
    (p : t.hart.pc = s.hart.pc) (m : t.mxs = s.mxs) (w : t.hart.wins = s.hart.wins) (r : t.hart.strs = s.hart.strs) : Calm ws gw out Q s0 t :=
  ⟨h.frame.trans f, e.trans h.estart, h.loose.next f a, l.trans h.last, p.trans h.pc, by rw [m, w, r]; exact h.units⟩

theorem Calm.vlN (h : Calm ws gw out Q s0 s) : s.hart.csr.vlN = s0.hart.csr.vlN := by unfold Csr.vlN; rw [Csr.bare_vl h.frame.csr]
theorem Calm.vw (h : Calm ws gw out Q s0 s) : s.hart.vw = s0.hart.vw := by unfold Hart.vw; rw [Csr.bare_vcfg h.frame.csr]
theorem Calm.em (h : Calm ws gw out Q s0 s) : s.hart.em = s0.hart.em := by unfold Hart.em; rw [Csr.bare_vcfg h.frame.csr]
theorem Calm.mvl (h : Calm ws gw out Q s0 s) : s.hart.csr.mvl = s0.hart.csr.mvl := by
  unfold Csr.mvl Csr.lmul Csr.rw; rw [Csr.bare_vcfg h.frame.csr, Csr.bare_vtype h.frame.csr]
theorem Calm.ovfMask (h : Calm ws gw out Q s0 s) : s.hart.csr.ovfMask = s0.hart.csr.ovfMask := by unfold Csr.ovfMask; rw [Csr.bare_ovfm h.frame.csr]
theorem Calm.opCount (h : Calm ws gw out Q s0 s) (o : VOp) (x : Tag) : s.hart.opCount o x = s0.hart.opCount o x := by
  unfold Hart.opCount; rw [h.vw, h.mvl]
theorem Calm.bounds (h : Calm ws gw out Q s0 s) : s.hart.bounds = { lo := s0.hart.csr.estart.toNat, hi := s0.hart.csr.vlN, full := true } := by
  unfold Hart.bounds; rw [h.loose.convoy, h.estart, h.vlN]

theorem Calm.badKey (h : Calm ws gw out Q s0 s) (ks : List Nat) : s.badKey ks = none := by
  unfold State.badKey
  rw [List.find?_eq_none]
  intro k _
  simp [State.poisoned, h.loose.poison]

/-! The operations. -/

theorem Calm.expose (h : Calm ws gw out Q s0 s) (ks : List Nat) : s.expose ks = s := by unfold State.expose; rw [h.loose.flaws]; rfl

theorem needOwnClean_keeps (ks : List Nat) (q : Nat) : Keeps (Calm ws gw out Q s0) (needOwnClean ks q) :=
  fun s h => ⟨(), s, by unfold needOwnClean; rw [h.expose]; simp only [h.badKey], h⟩

theorem readOwn_keeps (ks : List Nat) : Keeps (Calm ws gw out Q s0) (readOwn ks) := by
  intro s h
  obtain ⟨_, u, e, f⟩ := State.look_seen (m := s.manner pathLS) (h.loose.seen.seen ks)
  refine ⟨_, { s with unseen := u }, by unfold readOwn; rw [e], h.next ((VecFrame.refl ..).listed u s.groups) ?_ rfl rfl rfl rfl rfl rfl⟩
  exact FewerHidden.allSeen (s := s) (t := { s with unseen := u }) f h.loose.seen

theorem peekCode_keeps (o : VOp) (t : Tag) (i : Nat) : Keeps (Calm ws gw out Q s0) (peekCode o t i) := by
  unfold peekCode
  exact Keeps.getH (fun _ _ => (readOwn_keeps _).bind fun _ => Keeps.getS fun _ _ => Keeps.pure _)

theorem peekMask_keeps (j i : Nat) : Keeps (Calm ws gw out Q s0) (peekMask j i) := by
  unfold peekMask
  exact Keeps.getH (fun _ _ => (readOwn_keeps _).bind fun _ => Keeps.pure _)

theorem readCode_keeps (o : VOp) (t : Tag) (i q : Nat) : Keeps (Calm ws gw out Q s0) (readCode o t i q) := by
  unfold readCode
  exact Keeps.getH (fun s _ => (needOwnClean_keeps _ _).seq (peekCode_keeps _ _ _))

theorem readMask_keeps (j i q : Nat) : Keeps (Calm ws gw out Q s0) (readMask j i q) := by
  unfold readMask
  exact Keeps.getH (fun s _ => (needOwnClean_keeps _ _).seq (peekMask_keeps _ _))

theorem activeM_keeps (mk : Bool) (i q : Nat) : Keeps (Calm ws gw out Q s0) (activeM mk i q) := by
  unfold activeM
  refine Keeps.ite (fun _ => (peekMask_keeps _ _).bind fun _ => ?_) (fun _ => Keeps.pure _)
  exact Keeps.ite (fun _ => Keeps.getH fun _ _ => (needOwnClean_keeps _ _).bind fun _ => Keeps.pure _) (fun _ => (Keeps.pure _).bind fun _ => Keeps.pure _)

theorem orFlags_keeps (f : W64) : Keeps (Calm ws gw out Q s0) (orFlags f) := by
  unfold orFlags modCsr modH
  refine Keeps.modify (fun s h => h.next ?_ h.loose.seen rfl rfl rfl rfl rfl rfl)
  refine ⟨rfl, rfl, rfl, rfl, ?_, fun _ _ => rfl, fun _ => ⟨rfl, rfl, Nat.le_refl _, fun _ => rfl⟩, fun _ => ⟨rfl, Nat.le_refl _, fun _ => rfl⟩, fun _ h => h, fun _ h => h, fun _ h => h, fun _ _ _ => rfl, fun h => h⟩
  show s.hart.csr.vstat &&& (s.hart.csr.vstat ||| f) = _
  ext i hi
  simp
  intro h
  exact .inl h

theorem State.putKeys_mxs (s : State) (whole : Bool) (ks : List Nat) (bs : List Byte) : (s.putKeys whole ks bs).mxs = s.mxs := by
  exact (State.putKeys_onlyMem ..).mxs

/-- The destination of an instruction is a group of registers it may write. -/
structure DstOk (ws : List Nat) (s : State) (o : VOp) : Prop where
  reg : ∃ n c, o = .reg n c ∧ n + c ≤ 64 ∧ ∀ j, j < c → n + j ∈ ws

theorem writeCode_keeps {o : VOp} {t : Tag} {i : Nat} (code : Nat) (d : DstOk ws s0 o) (hi : i < s0.hart.opCount o t) : Keeps (Calm ws gw out Q s0) (writeCode o t i code) := by
  obtain ⟨n, c, rfl, h64, hw⟩ := d.reg
  unfold writeCode
  refine Keeps.modify (fun s h => ?_)
  rw [← h.opCount] at hi
  obtain ⟨f, a, m, e⟩ := s.putCode_vecFrame (ws := ws) (gw := gw) (out := out) code h.loose.seen h64 hw hi
  exact h.next f a (by rw [e]; rfl) (by rw [e]; rfl) (by rw [e]; rfl) m (by rw [e]; rfl) (by rw [e]; rfl)

theorem writeMask_keeps {j i : Nat} (code : Nat) (hw : 128 + j ∈ ws) (hi : i < s0.hart.em) : Keeps (Calm ws gw out Q s0) (writeMask j i code) := by
  unfold writeMask
  refine Keeps.modify (fun s h => ?_)
  rw [← h.em] at hi
  obtain ⟨f, a, m⟩ := s.putMask_vecFrame (ws := ws) (gw := gw) (out := out) code h.loose.seen hw hi
  exact h.next f a rfl rfl rfl m rfl rfl

theorem saturate_keeps {i : Nat} (hs : ∀ m, s0.hart.csr.ovfMask = some m → 128 + m ∈ ws) (hi : i < s0.hart.em) : Keeps (Calm ws gw out Q s0) (saturate i) := by
  unfold saturate
  refine (orFlags_keeps _).seq (Keeps.getH (fun s h => ?_))
  rw [h.ovfMask]
  cases e : s0.hart.csr.ovfMask with
  | none => exact Keeps.pure _
  | some m => exact writeMask_keeps _ (hs m e) hi

theorem writeRounded_keeps {o : VOp} {t : Tag} {i : Nat} (r : Rounded) (d : DstOk ws s0 o) (hi : i < s0.hart.opCount o t)
    (hs : r.sat = true → (∀ m, s0.hart.csr.ovfMask = some m → 128 + m ∈ ws) ∧ i < s0.hart.em) : Keeps (Calm ws gw out Q s0) (writeRounded o t i r) := by
  unfold writeRounded
  refine (writeCode_keeps _ d hi).seq ((orFlags_keeps _).seq (Keeps.ite (fun h => saturate_keeps (hs h).1 (hs h).2) (fun _ => Keeps.pure _)))

theorem noiseMode_set (v : W64) (p i : Nat) : noiseMode (noiseSet v p i) = noiseMode v := by
  have e : bits (noiseSet v p i).toNat 0 2 = bits v.toNat 0 2 := by
    have h0 : ∀ x : W64, bits x.toNat 0 2 = (x.extractLsb' 0 2).toNat := by intro x; simp [bits, BitVec.extractLsb']
    rw [h0, h0]
    congr 1
    ext j hj
    have : j = 0 ∨ j = 1 := by omega
    unfold noiseSet
    have hb : ∀ k, k < 2 → (BitVec.ofNat 64 (p * 2 ^ 32 + i * 2 ^ 8)).getLsbD k = false := by
      intro k hk
      have e : p * 2 ^ 32 + i * 2 ^ 8 = 2 ^ 2 * (p * 2 ^ 30 + i * 2 ^ 6) := by omega
      rw [BitVec.getLsbD_ofNat, e, Nat.testBit_two_pow_mul]
      have : ¬ 2 ≤ k := by omega
      simp [this]
    generalize BitVec.ofNat 64 (p * 2 ^ 32 + i * 2 ^ 8) = x at hb ⊢
    rcases this with rfl | rfl
    · have := hb 0 (by decide)
      simp at this
      simp [this]
    · have := hb 1 (by decide)
      simp at this
      simp [this]
  exact e

theorem draw16_keeps (q : Nat) : Keeps (Calm ws gw out Q s0) (draw16 q) := by
  intro s h
  have hn := h.loose.noise
  have h1 : ¬ noiseMode s.hart.csr.noise = 1 := by omega
  have h2 : ¬ noiseMode s.hart.csr.noise = 2 := by omega
  have key : ∀ v, noiseMode v = noiseMode s.hart.csr.noise →
      Calm ws gw out Q s0 ({ s with freeCtr := s.freeCtr + 1 }.setHart { s.hart with noiseBuf := s.hart.noiseBuf, csr := { s.hart.csr with noise := v } }) := by
    intro v hv
    refine h.next ⟨rfl, rfl, rfl, hv, BitVec.and_self, fun _ _ => rfl, fun _ => ⟨rfl, rfl, Nat.le_refl _, fun _ => rfl⟩, fun _ => ⟨rfl, Nat.le_refl _, fun _ => rfl⟩, fun _ h => h, fun _ h => h, fun _ h => h, fun _ _ _ => rfl, fun h => h⟩ h.loose.seen rfl rfl rfl rfl rfl rfl
  obtain ⟨v, hv⟩ : ∃ v, v = if noiseIdx s.hart.csr.noise = 63 then noiseSet s.hart.csr.noise ((noisePos s.hart.csr.noise + 1) % 2 ^ noiseRsz s.hart.csr.noise) 0
    else noiseSet s.hart.csr.noise (bits s.hart.csr.noise.toNat 32 16) (noiseIdx s.hart.csr.noise + 1) := ⟨_, rfl⟩
  have e : draw16 q s = .ok (Config.noise s.freeCtr).toNat
      ({ s with freeCtr := s.freeCtr + 1 }.setHart { s.hart with noiseBuf := s.hart.noiseBuf, csr := { s.hart.csr with noise := v } }) := by
    subst hv
    unfold draw16
    simp only [bind, EStateM.bind, getH, getS, pure, EStateM.pure, get, getThe, MonadStateOf.get, EStateM.get, h1, h2, if_false, set, EStateM.set, State.fresh, modH, modify,
      modifyGet, MonadStateOf.modifyGet]
    split <;> rfl
  exact ⟨_, _, e, key _ (by subst hv; split <;> exact noiseMode_set _ _ _)⟩

theorem drawIf_keeps (b : Bool) (q : Nat) : Keeps (Calm ws gw out Q s0) (drawIf b q) := by
  unfold drawIf
  exact Keeps.getH (fun s h => Keeps.ite (fun _ => draw16_keeps q) (fun _ => Keeps.pure _))

theorem afterStop_keeps (free : Bool) (f : Nat → M Unit) (reads : Nat → List Nat) : Keeps (Calm ws gw out Q s0) (afterStop free f reads) := by
  intro s h
  refine ⟨(), s, ?_, h⟩
  unfold afterStop
  rw [h.bounds]
  simp

theorem elementLoop_keeps {f : Nat → M Unit} {free : Bool} {reads : Nat → List Nat} (hf : ∀ i, i < s0.hart.csr.vlN → Keeps (Calm ws gw out Q s0) (f i)) : Keeps (Calm ws gw out Q s0) (elementLoop f free reads) := by
  unfold elementLoop
  refine Keeps.getH (fun s h => ?_)
  rw [h.bounds]
  exact (Keeps.overElems _ _ (fun j h1 h2 => hf j (by simp only at h1 h2; omega))).seq (afterStop_keeps _ _ _)

/-- An order of elements lists no others. -/
theorem mem_orderOf : ∀ (n c : Nat) (l : List Nat) (i : Nat), n ≤ l.length → i ∈ orderOf n c l → i ∈ l
  | 0, _, _, _, _, h => absurd h List.not_mem_nil
  | n + 1, c, l, i, hl, h => by
    have hc : c % l.length < l.length := Nat.mod_lt _ (by omega)
    rw [orderOf, List.mem_cons] at h
    rcases h with rfl | h
    · rw [List.getD_eq_getElem?_getD, List.getElem?_eq_getElem hc]; exact List.getElem_mem hc
    · exact List.mem_of_mem_eraseIdx (mem_orderOf n _ _ i (by rw [List.length_eraseIdx_of_lt hc]; omega) h)

theorem mem_elemOrder {c lo hi i : Nat} (h : i ∈ elemOrder c lo hi) : lo ≤ i ∧ i < hi := by
  have := mem_orderOf _ _ _ i (by simp) h
  obtain ⟨j, hj, rfl⟩ := List.mem_map.1 this
  have := List.mem_range.1 hj
  omega

theorem choose_calm (h : Calm ws gw out Q s0 s) : Calm ws gw out Q s0 s.choose.2 := by
  unfold State.choose
  split
  · exact h
  · exact h.next ⟨rfl, rfl, rfl, rfl, BitVec.and_self, fun _ _ => rfl, fun _ => ⟨rfl, rfl, Nat.le_refl _, fun _ => rfl⟩, fun _ => ⟨rfl, Nat.le_refl _, fun _ => rfl⟩, fun _ h => h, fun _ h => h,
      fun _ h => h, fun _ _ _ => rfl, fun h => h⟩ h.loose.seen rfl rfl rfl rfl rfl rfl

/-- Elements in an order that is free: whatever it is, each of them goes on. -/
theorem unorderedLoop_keeps {f : Nat → M Unit} {free : Bool} (hf : ∀ i, i < s0.hart.csr.vlN → Keeps (Calm ws gw out Q s0) (f i)) : Keeps (Calm ws gw out Q s0) (unorderedLoop f free) := by
  unfold unorderedLoop
  refine Keeps.getH (fun s h => ?_)
  rw [h.bounds]
  intro u hu
  have hc := choose_calm hu
  obtain ⟨_, t, e, ht⟩ := (Keeps.overElems (free := false) (s0.hart.csr.vlN - s0.hart.csr.estart.toNat) s0.hart.csr.estart.toNat (fun j h1 h2 => hf j (by omega)) : Keeps (Calm ws gw out Q s0) _) _ hc
  unfold unorderedOver
  simp only [e]
  split
  · exact afterStop_keeps free f _ t ht
  · exact (Keeps.overList _ (fun j hj => hf j (mem_elemOrder hj).2)).seq (afterStop_keeps free f _) _ hc

theorem whenFull_keeps {m : M Unit} (hm : Keeps (Calm ws gw out Q s0) m) : Keeps (Calm ws gw out Q s0) (whenFull m) := by
  unfold whenFull
  exact Keeps.getH (fun s h => Keeps.ite (fun _ => hm) (fun _ => Keeps.pure _))

theorem tailFrom_keeps {o : VOp} (t : Tag) (lo : Nat) (d : DstOk ws s0 o) : Keeps (Calm ws gw out Q s0) (tailFrom o t lo) := by
  unfold tailFrom
  refine Keeps.getH (fun s h => Keeps.ite (fun _ => ?_) (fun _ => Keeps.pure _))
  rw [h.opCount]
  exact Keeps.overRange _ _ (fun j h1 h2 => writeCode_keeps _ d (by omega))

theorem maskTailFrom_keeps {j : Nat} (lo : Nat) (d : 128 + j ∈ ws) : Keeps (Calm ws gw out Q s0) (maskTailFrom j lo) := by
  unfold maskTailFrom
  refine Keeps.getH (fun s h => Keeps.ite (fun _ => ?_) (fun _ => Keeps.pure _))
  rw [h.em]
  exact Keeps.overRange _ _ (fun i h1 h2 => writeMask_keeps _ d (by omega))

theorem inactiveElem_keeps {o : VOp} {t : Tag} {i : Nat} (d : DstOk ws s0 o) (hi : i < s0.hart.opCount o t) : Keeps (Calm ws gw out Q s0) (inactiveElem o t i) := by
  unfold inactiveElem
  exact Keeps.getH (fun s h => Keeps.ite (fun _ => writeCode_keeps _ d hi) (fun _ => Keeps.pure _))

theorem inactiveMask_keeps {j i : Nat} (d : 128 + j ∈ ws) (hi : i < s0.hart.em) : Keeps (Calm ws gw out Q s0) (inactiveMask j i) := by
  unfold inactiveMask
  exact Keeps.getH (fun s h => Keeps.ite (fun _ => writeMask_keeps _ d hi) (fun _ => Keeps.pure _))

/-- With no poison no word of a source is logged. -/
theorem Calm.quietOf (h : Calm ws gw out Q s0 s) (mk : Bool) (xs : List Src) : s.quietOf mk xs = ([], s) := by
  unfold State.quietOf
  simp only [h.expose]
  have : ∀ x, s.quietWords mk x = [] := by intro x; unfold State.quietWords; rw [h.loose.poison]; rfl
  have e : ∀ l : List Src, l.flatMap (s.quietWords mk) = [] := by intro l; rw [List.flatMap_eq_nil_iff]; intro x _; exact this x
  rw [e]
  rfl

theorem withSources_keeps {mk : Bool} {xs : List Src} {m : M Unit} (hm : Keeps (Calm ws gw out Q s0) m) : Keeps (Calm ws gw out Q s0) (withSources mk xs m) := by
  intro s h
  have k : Keeps (Calm ws gw out Q s0) (do
      m
      whenFull (modify fun s => ([] : List Nat).foldl (fun s u => s.logPoison 4 u) s) : M Unit) := hm.seq (whenFull_keeps (Keeps.modify fun _ h => h))
  obtain ⟨a, t, e, ht⟩ := k s h
  refine ⟨a, t, ?_, ht⟩
  rw [← e]
  have : withSources mk xs m s = (match s.quietOf mk xs with
    | (quiet, s') => (do
      set s'
      m
      whenFull (modify fun s => quiet.foldl (fun s u => s.logPoison 4 u) s) : M Unit) s) := rfl
  rw [this, h.quietOf]
  rfl

/-- The mask register that OVFM names is one the instruction may write. -/
def SatOk (ws : List Nat) (s : State) : Prop := ∀ m, s.hart.csr.ovfMask = some m → 128 + m ∈ ws

theorem writeOut_keeps {o : VOp} {st dt : Tag} {i : Nat} (r : EOut) (d : DstOk ws s0 o) (hi : i < s0.hart.opCount o dt) (hs : SatOk ws s0) (he : i < s0.hart.em) (q : Nat := qVq) :
    Keeps (Calm ws gw out Q s0) (writeOut o st dt i r q) := by
  unfold writeOut
  exact (drawIf_keeps _ _).bind (fun _ => Keeps.getH (fun s h => writeRounded_keeps _ d hi (fun _ => ⟨hs, he⟩)))

theorem readVal_keeps (o : VOp) (t : Tag) (i q : Nat) : Keeps (Calm ws gw out Q s0) (readVal o t i q) := by
  unfold readVal
  refine Keeps.getH (fun s h => ?_)
  exact Keeps.ite (fun _ => (readCode_keeps _ _ _ _).bind (fun _ => (readCode_keeps _ _ _ _).bind (fun _ => Keeps.pure _)))
    (fun _ => (readCode_keeps _ _ _ _).bind (fun _ => Keeps.pure _))

/-! Blocks. -/

/-- What R224 asks of a BX destination's scale register: it is one the instruction may write. -/
structure BxDst (ws : List Nat) (s : State) (o : VOp) (t : Tag) : Prop where
  bx : t.isBx = true
  scale : DstOk ws s o.scale
  group : ∃ n c, o = .reg n c ∧ 1 ≤ c ∧ c ≤ 8
  vl : s.hart.csr.vlN ≤ s.hart.opCount o t

theorem BxDst.count {o : VOp} {t : Tag} (b : BxDst ws s o t) : (∃ q, s.hart.opCount o t = 32 * q ∧ 0 < q) ∧ s.hart.opCount o t ≤ 32 * s.hart.opCount o.scale .bxs := by
  obtain ⟨n, c, rfl, h1, hc⟩ := b.group
  obtain ⟨q, hq, hp⟩ := vcfgW_eq s.hart.csr.vcfg
  have e : s.hart.vw = 1024 * q := hq
  have ht := b.bx
  have hb : t.bits = 8 ∨ t.bits = 4 := by cases t <;> simp [Tag.isBx, Tag.bits] at ht ⊢
  simp only [Hart.opCount, VOp.scale, e, show Tag.bxs.bits = 16 from rfl]
  have hm : c * q ≤ 8 * q := Nat.mul_le_mul_right q hc
  have e2 : c * (1024 * q) * 8 = 8192 * (c * q) := by
    rw [← Nat.mul_assoc, Nat.mul_comm c 1024, Nat.mul_assoc 1024, Nat.mul_comm _ 8, ← Nat.mul_assoc]
  rw [e2]
  have hcq : 0 < c * q := Nat.mul_pos h1 hp
  rcases hb with h | h <;> rw [h]
  · exact ⟨⟨32 * (c * q), by omega, by omega⟩, by omega⟩
  · exact ⟨⟨64 * (c * q), by omega, by omega⟩, by omega⟩

/-- An element of a block that reaches below VL. -/
theorem BxDst.elem {o : VOp} {t : Tag} {b i : Nat} (x : BxDst ws s o t) (hb : 32 * b < s.hart.csr.vlN ∨ b = 0) (hi : i < 32 * b + 32) :
    i < s.hart.opCount o t ∧ b < s.hart.opCount o.scale .bxs := by
  obtain ⟨⟨q, h1, h3⟩, h2⟩ := x.count
  have := x.vl
  omega

theorem Loose.block {b i : Nat} (h : Loose s) (hb : 32 * b < s.hart.csr.vlN ∨ b = 0) (hi : i < 32 * b + 32) : i < s.hart.em := by
  obtain ⟨q, hq, _⟩ := vcfgEm_eq s.hart.csr.vcfg
  have := h.vl
  have e : s.hart.em = 32 * q := hq
  omega

theorem putBlock_keeps {o : VOp} {t : Tag} {b : Nat} (word : Nat) (hl : Loose s0) (d : DstOk ws s0 o) (x : BxDst ws s0 o t) (hs : SatOk ws s0) (hb : 32 * b < s0.hart.csr.vlN ∨ b = 0) :
    ∀ (rs : List Rounded) (j : Nat), j + rs.length ≤ 32 → Keeps (Calm ws gw out Q s0) (putBlock o t b word rs j)
  | [], j, _ => writeCode_keeps _ x.scale (x.elem hb (i := 0) (by omega)).2
  | r :: rest, j, h => by
    simp only [List.length_cons] at h
    exact (writeRounded_keeps r d (x.elem hb (by omega)).1 (fun _ => ⟨hs, hl.block hb (by omega)⟩)).seq (putBlock_keeps word hl d x hs hb rest (j + 1) (by omega))


/-- The second part may use that the first ended with its value. -/
theorem Keeps.bind' {α β : Type} {I : State → Prop} {m : M α} {f : α → M β} (hm : Keeps I m) (hf : ∀ a, (∃ s t, m s = .ok a t) → Keeps I (f a)) : Keeps I (m >>= f) := by
  intro s h
  obtain ⟨a, t, e, ht⟩ := hm s h
  obtain ⟨b, u, e2, hu⟩ := hf a ⟨s, t, e⟩ t ht
  exact ⟨b, u, by show EStateM.bind m f s = _; simp only [EStateM.bind, e, e2], hu⟩

theorem bind_ok {α β : Type} {m : M α} {f : α → M β} {s t : State} {b : β} (h : (m >>= f) s = .ok b t) : ∃ a u, m s = .ok a u ∧ f a u = .ok b t := by
  change EStateM.bind m f s = _ at h
  unfold EStateM.bind at h
  split at h
  · exact ⟨_, _, ‹_›, h⟩
  · cases h

theorem collect_length {α : Type} {f : Nat → M α} : ∀ (n i : Nat) {s t : State} {l : List α}, collect f n i s = .ok l t → l.length = n
  | 0, _, _, _, _, h => by cases h; rfl
  | n + 1, i, _, _, _, h => by
    obtain ⟨a, u, _, h⟩ := bind_ok h
    obtain ⟨r, v, h1, h⟩ := bind_ok h
    cases h
    simp [collect_length n (i + 1) h1]

theorem bxWrite_keeps {o : VOp} {t : Tag} {b lo hi : Nat} {act : Nat → M Bool} {comp : Nat → M (Val × W64 × Bool)} {q : Nat}
    (hl : Loose s0) (d : DstOk ws s0 o) (x : BxDst ws s0 o t) (hs : SatOk ws s0) (hb : 32 * b < s0.hart.csr.vlN ∨ b = 0)
    (ha : ∀ i, Keeps (Calm ws gw out Q s0) (act i)) (hc : ∀ i, i < hi → Keeps (Calm ws gw out Q s0) (comp i)) : Keeps (Calm ws gw out Q s0) (bxWrite o t b lo hi act comp q) := by
  unfold bxWrite
  refine Keeps.atBlock (Keeps.getH (fun s h => (peekCode_keeps _ _ _).bind fun word => ?_))
  have hk : ∀ (zero : Bool) (i : Nat), Keeps (Calm ws gw out Q s0)
      (if zero = true then pure (BxIn.zero, (0 : W64), false) else do return (BxIn.kept (bxVal t word (← peekCode o t i)), (0 : W64), false) : M (BxIn × W64 × Bool)) :=
    fun zero i => Keeps.ite (fun _ => Keeps.pure _) (fun _ => (peekCode_keeps _ _ _).bind fun _ => Keeps.pure _)
  refine Keeps.bind' (Keeps.collect _ _ (fun i _ _ => ?_)) (fun xs hx => ?_)
  · refine Keeps.ite (fun _ => hk _ _) (fun _ => Keeps.ite (fun hi => (ha i).bind (fun _ => Keeps.ite (fun _ => ?_) (fun _ => hk _ _))) (fun _ => hk _ _))
    exact (hc i hi).bind (fun a => Keeps.pure _)
  · obtain ⟨_, _, hx⟩ := hx
    refine Keeps.bind (Keeps.collect _ _ (fun i _ _ => drawIf_keeps _ _)) (fun ds => ?_)
    refine putBlock_keeps _ hl d x hs hb _ _ ?_
    rw [List.length_zipWith, collect_length _ _ hx]
    omega

theorem Keeps.overBlocks {I : State → Prop} {f ahead : Nat → M Unit} {cover : Nat → List Nat} : ∀ n k, (∀ j, k ≤ j → j < k + n → Keeps I (f j)) → Keeps I (overBlocks f ahead cover n k)
  | 0, _, _ => Keeps.pure ()
  | n + 1, k, h => by
    intro s hs
    obtain ⟨_, t, e, ht⟩ := h k (Nat.le_refl _) (by omega) s hs
    obtain ⟨_, u, e2, hu⟩ := Keeps.overBlocks (ahead := ahead) (cover := cover) n (k + 1) (fun j h1 h2 => h j (by omega) (by omega)) t ht
    exact ⟨(), u, by simp only [Machine.overBlocks, e, e2], hu⟩

theorem bxTail_keeps {o : VOp} {t : Tag} (d : DstOk ws s0 o) (x : BxDst ws s0 o t) : Keeps (Calm ws gw out Q s0) (bxTail o t) := by
  unfold bxTail
  exact Keeps.getH (fun s h => (tailFrom_keeps _ _ d).seq (tailFrom_keeps _ _ x.scale))

theorem bxLoop_keeps {o : VOp} {t : Tag} {act : Nat → M Bool} {comp : Nat → M (Val × W64 × Bool)} {free : Nat → Bool} {q : Nat} {reads : Nat → List Nat}
    (hl : Loose s0) (d : DstOk ws s0 o) (x : BxDst ws s0 o t) (hs : SatOk ws s0) (ha : ∀ i, Keeps (Calm ws gw out Q s0) (act i))
    (hc : ∀ i, i < s0.hart.csr.vlN → Keeps (Calm ws gw out Q s0) (comp i)) : Keeps (Calm ws gw out Q s0) (bxLoop o t act comp free q reads) := by
  unfold bxLoop
  refine Keeps.getH (fun s h => ?_)
  rw [h.bounds]
  have hw : Keeps (Calm ws gw out Q s0) (bxTail o t) := bxTail_keeps d x
  refine Keeps.ite (fun hb => Keeps.seq (Keeps.overBlocks _ _ (fun k h1 h2 => bxWrite_keeps hl d x hs ?_ ha hc)) hw) (fun _ => hw)
  simp only at hb h1 h2
  omega

/-- The destination of an element-wise instruction: a group it may write, at least VL elements long, with its scale register under a BX tag. -/
structure VecDst (ws : List Nat) (s : State) (o : VOp) (t : Tag) : Prop where
  dst : DstOk ws s o
  vl : s.hart.csr.vlN ≤ s.hart.opCount o t
  bx : t.isBx = true → BxDst ws s o t

theorem scaleTail_keeps {o : VOp} {t : Tag} (h : t.isBx = true → DstOk ws s0 o.scale) : Keeps (Calm ws gw out Q s0) (scaleTail o t) := by
  unfold scaleTail
  exact Keeps.ite (fun hx => Keeps.getH (fun _ _ => tailFrom_keeps _ _ (h hx))) (fun _ => Keeps.pure _)

theorem codeTail_keeps {o : VOp} {t : Tag} (d : DstOk ws s0 o) (h : t.isBx = true → DstOk ws s0 o.scale) : Keeps (Calm ws gw out Q s0) (codeTail o t) := by
  unfold codeTail
  exact Keeps.getH (fun _ _ => (tailFrom_keeps _ _ d).seq (scaleTail_keeps h))

/-- The loop of an element-wise instruction, from what it does with an element and with its tail. -/
theorem maskedLoop_keeps {dst : Src} {mk : Bool} {srcs : List Src} {act inact : Nat → M Unit} {tail : M Unit} {q : Nat} {sat : Bool} {reads : Nat → List Nat}
    (ha : ∀ i, i < s0.hart.csr.vlN → Keeps (Calm ws gw out Q s0) (act i)) (hi : ∀ i, i < s0.hart.csr.vlN → Keeps (Calm ws gw out Q s0) (inact i))
    (ht : Keeps (Calm ws gw out Q s0) tail) : Keeps (Calm ws gw out Q s0) (maskedLoop dst mk srcs act inact tail q sat reads) := by
  unfold maskedLoop
  exact withSources_keeps (Keeps.getH fun _ _ => (elementLoop_keeps fun i h => (activeM_keeps mk i q).bind fun _ => Keeps.ite (fun _ => ha i h) (fun _ => hi i h)).seq (whenFull_keeps ht))

theorem elementwiseOn_keeps {dst : VOp} {dt st : Tag} {mk : Bool} {srcs : List Src} {comp : Nat → M EOut} {q : Nat} {reads : Nat → List Nat} (hl : Loose s0) (d : VecDst ws s0 dst dt) (hs : SatOk ws s0)
    (hc : ∀ i, i < s0.hart.csr.vlN → Keeps (Calm ws gw out Q s0) (comp i)) : Keeps (Calm ws gw out Q s0) (elementwiseOn dst dt st mk srcs comp q reads) := by
  unfold elementwiseOn
  refine Keeps.ite (fun hb => withSources_keeps ?_) (fun _ => maskedLoop_keeps ?_ ?_ ?_)
  · exact Keeps.getH fun _ _ => bxLoop_keeps hl d.dst (d.bx hb) hs (fun i => activeM_keeps _ _ _) (fun i hi => (hc i hi).bind (fun a => Keeps.getH (fun s h => Keeps.pure _)))
  · exact fun i hi => (hc i hi).bind (fun r => writeOut_keeps r d.dst (Nat.lt_of_lt_of_le hi d.vl) hs (Nat.lt_of_lt_of_le hi hl.vl) q)
  · exact fun i hi => inactiveElem_keeps d.dst (Nat.lt_of_lt_of_le hi d.vl)
  · exact Keeps.getH (fun s h => tailFrom_keeps _ _ d.dst)

theorem elementwise_keeps {dst : VOp} {dt st : Tag} {mk : Bool} {srcs : List (VOp × Tag)} {comp : Nat → M EOut} (hl : Loose s0) (d : VecDst ws s0 dst dt) (hs : SatOk ws s0)
    (hc : ∀ i, i < s0.hart.csr.vlN → Keeps (Calm ws gw out Q s0) (comp i)) : Keeps (Calm ws gw out Q s0) (elementwise dst dt st mk srcs comp) := elementwiseOn_keeps hl d hs hc

theorem codewise_keeps {dst : VOp} {dt : Tag} {mk : Bool} {srcs : List (VOp × Tag)} {comp : Nat → M Nat} (d : VecDst ws s0 dst dt)
    (hc : ∀ i, i < s0.hart.csr.vlN → Keeps (Calm ws gw out Q s0) (comp i)) : Keeps (Calm ws gw out Q s0) (codewise dst dt mk srcs comp) := by
  unfold codewise
  refine maskedLoop_keeps ?_ ?_ ?_
  · exact fun i hi => (hc i hi).bind (fun r => writeCode_keeps r d.dst (Nat.lt_of_lt_of_le hi d.vl))
  · exact fun i hi => inactiveElem_keeps d.dst (Nat.lt_of_lt_of_le hi d.vl)
  · exact codeTail_keeps d.dst (fun hx => (d.bx hx).scale)

theorem maskwise_keeps {j : Nat} {mk : Bool} {srcs : List Src} {comp : Nat → M Nat} (hl : Loose s0) (d : 128 + j ∈ ws)
    (hc : ∀ i, i < s0.hart.csr.vlN → Keeps (Calm ws gw out Q s0) (comp i)) : Keeps (Calm ws gw out Q s0) (maskwise j mk srcs comp) := by
  unfold maskwise
  refine maskedLoop_keeps ?_ ?_ ?_
  · exact fun i hi => (hc i hi).bind (fun r => writeMask_keeps r d (Nat.lt_of_lt_of_le hi hl.vl))
  · exact fun i hi => inactiveMask_keeps d (Nat.lt_of_lt_of_le hi hl.vl)
  · exact Keeps.getH (fun s h => maskTailFrom_keeps _ d)

/-! Whole instructions. -/

/-- A body that goes on and ends at the next instruction. -/
def Ends (I : State → Prop) (m : M Ctl) : Prop := ∀ s, I s → ∃ t, m s = .ok Ctl.seq t ∧ I t

theorem Ends.pure {I : State → Prop} : Ends I (pure .seq : M Ctl) := fun s h => ⟨s, rfl, h⟩

theorem Ends.bind {α : Type} {I : State → Prop} {m : M α} {f : α → M Ctl} (hm : Keeps I m) (hf : ∀ a, Ends I (f a)) : Ends I (m >>= f) := by
  intro s h
  obtain ⟨a, t, e, ht⟩ := hm s h
  obtain ⟨u, e2, hu⟩ := hf a t ht
  exact ⟨u, by show EStateM.bind m f s = _; simp only [EStateM.bind, e, e2], hu⟩

theorem Ends.seq {I : State → Prop} {m : M Unit} {f : M Ctl} (hm : Keeps I m) (hf : Ends I f) : Ends I (m >>= fun _ => f) := Ends.bind hm (fun _ => hf)

theorem Ends.last {I : State → Prop} {m : M Unit} (hm : Keeps I m) : Ends I (do m; return .seq) := Ends.seq hm Ends.pure

theorem Ends.getS {I : State → Prop} {f : State → M Ctl} (hf : ∀ s, I s → Ends I (f s)) : Ends I (getS >>= f) := fun s h => hf s h s h
theorem Ends.getH {I : State → Prop} {f : Hart → M Ctl} (hf : ∀ s, I s → Ends I (f s.hart)) : Ends I (getH >>= f) := fun s h => hf s h s h

theorem Ends.ite {I : State → Prop} {c : Prop} [Decidable c] {a b : M Ctl} (ha : c → Ends I a) (hb : ¬c → Ends I b) : Ends I (if c then a else b) := by
  split
  · exact ha ‹_›
  · exact hb ‹_›

theorem Ends.check {I : State → Prop} {c : Bool} {t : Trap} {f : M Ctl} (h : c = true) (hf : Ends I f) : Ends I (check c t >>= fun _ => f) := Ends.seq (Keeps.check h) hf

theorem issueChecks_ok {v : VInfo} {mb : Bool} (hi : v.ill = none) (hb : bypassCodes (v.reads ++ v.writes) = []) : issueChecks v mb s = .ok () s := by
  have hr : bypassCodes v.reads = [] := by
    unfold bypassCodes at *; rw [List.filter_append] at hb; exact (List.append_eq_nil_iff.1 hb).1
  have hw : bypassCodes v.writes = [] := by
    unfold bypassCodes at *; rw [List.filter_append] at hb; exact (List.append_eq_nil_iff.1 hb).2
  have hu : s.hart.unwritten v.reads = none := by unfold Hart.unwritten; rw [hr]; rfl
  have hc : check (mb || s.hart.inConvoy || (bypassCodes v.writes).isEmpty) (illegalTrap 0x14 v.low v.queue) = pure () := by simp [check, hw]
  unfold issueChecks
  show (match v.ill with | some n => _ | none => _ : M Unit) s = _
  rw [hi]
  show EStateM.bind (check _ _) _ s = _
  rw [hc]
  show (if v.quiet = true then pure () else _ : M Unit) s = _
  split
  · rfl
  · show (match s.hart.unwritten v.reads with | some r => _ | none => _ : M Unit) s = _
    rw [hu]
    rfl

/-- Outside a convoy every source is on schedule. -/
theorem onSchedule_ok {v : VInfo} {body : M Ctl} (h : Loose s) : onSchedule v body s = body s := by
  have hn : needOnSchedule v s = .ok () s := by
    unfold needOnSchedule
    show (match s.hart.convoy with | none => pure () | some c => _ : M Unit) s = _
    rw [h.convoy]
    rfl
  unfold onSchedule
  split
  · rfl
  · rw [hn]

theorem Hart.atGates_none {h : Hart} (hc : h.convoy = none) (v : VInfo) : h.atGates v = h := by
  unfold Hart.atGates
  rw [hc]
  cases h
  simp only at hc
  subst hc
  rfl

theorem runVector_done {v : VInfo} {mb : Bool} {body : M Ctl} (hl : Loose s) (hsp : s.hart.span = none) (ho : s.owesTile = false) (hi : v.ill = none)
    (hb : bypassCodes (v.reads ++ v.writes) = []) (hbody : ∃ t, body s = .ok Ctl.seq t ∧ Calm v.writes v.gWrite out Q s t) :
    ∃ t, runVector v mb body s = .next t ∧ PastBy s t v.len ∧ t.hart.csr.estart = 0 ∧ t.hart.lastDest = v.lastAfter s.hart.lastDest
      ∧ VecFrame v.writes v.gWrite out s t ∧ Q t.mxs t.hart.wins t.hart.strs := by
  obtain ⟨t, e0, ht⟩ := hbody
  have e : (issueChecks v mb >>= fun _ => onSchedule v body) s = .ok Ctl.seq t := by
    show EStateM.bind _ _ s = _
    unfold EStateM.bind
    rw [issueChecks_ok hi hb]
    exact (onSchedule_ok hl).trans e0
  have hs : s.setHart s.hart = s := rfl
  have hw : bypassCodes v.writes = [] := by
    unfold bypassCodes at *; rw [List.filter_append] at hb; exact (List.append_eq_nil_iff.1 hb).2
  have hspt : t.hart.span = none := (congrArg Hart.span ht.frame.hart : t.hart.bare.span = s.hart.bare.span).trans hsp
  have hmb : t.hart.markBypass v.writes = t.hart := by unfold Hart.markBypass; rw [hw]; rfl
  have hcv : t.hart.convoy = none := ht.loose.convoy
  have hill : (v.ill.isSome || (s.hart.spanBreaks v).isSome) = false := by unfold Hart.spanBreaks; rw [hi, hsp]; rfl
  have hsk : (if v.queue == qVq then s.hart.spanStep v else (s.hart.span, false)) = (none, false) := by
    unfold Hart.spanStep; rw [hsp]; split <;> rfl
  obtain ⟨h', hh⟩ : ∃ h', h' = ({ (t.hart.finishVector v) with span := none } : Hart) := ⟨_, rfl⟩
  have hfin : h' = { t.hart with lastDest := v.lastAfter t.hart.lastDest, csr := { t.hart.csr with estart := 0 } } := by
    subst hh
    unfold Hart.finishVector
    rw [hmb]
    unfold VInfo.lastAfter
    cases v.dest <;> simp [hcv, ← hspt]
  refine ⟨(t.endWrites.setHart h').advance v.len, ?_, ?_, ?_, ?_, ?_, ?_⟩
  · unfold runVector
    simp only [Hart.atGates_none hl.convoy, hs, hill, ho, Bool.and_false, hsk, Bool.false_eq_true, if_false]
    rw [e]
    simp only
    rw [← hh]
    have : h'.convoy.isSome = false := by rw [hfin]; simp [hcv]
    rw [if_neg (by simp [this])]
  · rw [hfin]
    refine ⟨?_, rfl⟩
    show t.hart.pc + _ = _
    rw [ht.pc]
  · rw [hfin]; rfl
  · rw [hfin]
    show v.lastAfter t.hart.lastDest = _
    unfold VInfo.lastAfter
    rw [ht.last]
  · rw [hfin]
    refine ht.frame.trans ⟨rfl, rfl, rfl, rfl, BitVec.and_self, fun _ _ => rfl, fun _ => ⟨rfl, rfl, Nat.le_refl _, fun _ => rfl⟩,
      fun _ => ⟨rfl, Nat.le_refl _, fun _ => rfl⟩, fun _ h => h, fun _ h => h, fun _ h => h, fun _ _ _ => rfl, fun h => h⟩
  · rw [hfin]
    exact ht.units


/-! Destinations. -/

theorem bypass_mem {rs ss : List Nat} {b : Nat} (h : bypassCodes (rs ++ ss) = []) (hb : bypassCode b ∈ ss) : False := by
  unfold bypassCodes at h
  have : bypassCode b ∈ (rs ++ ss).filter (fun r => decide (256 ≤ r)) := by
    rw [List.mem_filter]
    exact ⟨List.mem_append_right _ hb, by simp [bypassCode]⟩
  rw [h] at this
  exact absurd this List.not_mem_nil

/-- A register field that names no bypass register among the destinations names a group of registers. -/
theorem vop_reg {h : Hart} {f : Fld6} {m : Nat} {rs ss : List Nat} (hb : bypassCodes (rs ++ ss) = []) (hw : ∀ r, r ∈ (h.vop f m).regs → r ∈ ss) :
    f.toNat < h.nv ∧ h.vop f m = .reg f.toNat (m * h.csr.lmul) := by
  by_cases e : f.toNat < h.nv
  · exact ⟨e, by unfold Hart.vop; rw [if_pos e]⟩
  · exfalso
    have hv : h.vop f m = .byp (f.toNat - 60) := by unfold Hart.vop; rw [if_neg e]
    rw [hv] at hw
    exact bypass_mem (b := f.toNat - 60) hb (hw _ (List.mem_singleton.2 rfl))

theorem VOp.mem_regs {n c j : Nat} (h : j < c) : n + j ∈ (VOp.reg n c).regs := by
  simp only [VOp.regs, List.mem_map, List.mem_range]
  exact ⟨j, h, rfl⟩

theorem vecDst_of {s : State} {d : Fld6} {m : Nat} {rs : List Nat} (hm : m = 1) (hb : bypassCodes (rs ++ ws) = [])
    (hw : ∀ r, r ∈ (s.hart.vop d m).regs ++ scaleRegs s.hart (s.hart.vop d m) → r ∈ ws)
    (hg : s.hart.groupOk (s.hart.vop d m) (s.hart.opTag (s.hart.vop d m)) = true)
    (hx : s.hart.bxOk (s.hart.vop d m) (s.hart.opTag (s.hart.vop d m)) = true) : VecDst ws s (s.hart.vop d m) (s.hart.opTag (s.hart.vop d m)) := by
  obtain ⟨hn, e⟩ := vop_reg hb (fun r hr => hw r (List.mem_append_left _ hr))
  rw [e] at hw hg hx ⊢
  have hnv : s.hart.nv ≤ 64 := vcfgNv_le _
  have hl := s.hart.csr.lmul_le
  unfold Hart.groupOk Hart.groupRegs at hg
  simp only [Bool.and_eq_true, decide_eq_true_eq] at hg
  obtain ⟨⟨_, hg1⟩, hg2⟩ := hg
  subst hm
  have hc : 1 ≤ 1 * s.hart.csr.lmul ∧ 1 * s.hart.csr.lmul ≤ 8 := by omega
  have hd : DstOk ws s (.reg d.toNat (1 * s.hart.csr.lmul)) := ⟨⟨_, _, rfl, by omega, fun j hj => hw _ (List.mem_append_left _ (VOp.mem_regs hj))⟩⟩
  refine ⟨hd, hg2, fun ht => ⟨ht, ?_, ⟨_, _, rfl, hc⟩, hg2⟩⟩
  unfold Hart.bxOk at hx
  rw [if_pos ht] at hx
  simp only [Bool.and_eq_true, decide_eq_true_eq] at hx
  refine ⟨⟨d.toNat + 1 * s.hart.csr.lmul, 1, rfl, by omega, fun j hj => ?_⟩⟩
  have : j = 0 := by omega
  subst this
  refine hw _ (List.mem_append_right _ ?_)
  have ht' : (s.hart.vreg d.toNat).tag.isBx = true := ht
  simp [scaleRegs, ht']

theorem dstOf {s : State} {d : Fld6} {m : Nat} {rs : List Nat} (hb : bypassCodes (rs ++ ws) = [])
    (hw : ∀ r, r ∈ (s.hart.vop d m).regs → r ∈ ws) {t : Tag} (hg : s.hart.groupOk (s.hart.vop d m) t = true) :
    DstOk ws s (s.hart.vop d m) ∧ s.hart.csr.vlN ≤ s.hart.opCount (s.hart.vop d m) t := by
  obtain ⟨hn, e⟩ := vop_reg hb hw
  rw [e] at hw hg ⊢
  have hnv : s.hart.nv ≤ 64 := vcfgNv_le _
  unfold Hart.groupOk Hart.groupRegs at hg
  simp only [Bool.and_eq_true, decide_eq_true_eq] at hg
  obtain ⟨⟨_, hg1⟩, hg2⟩ := hg
  exact ⟨⟨⟨_, _, rfl, by omega, fun j hj => hw _ (VOp.mem_regs hj)⟩⟩, hg2⟩

theorem fieldIll_none {a b : Bool} (h : fieldIll a b = none) : a = true ∧ b = true := by
  cases a <;> cases b <;> simp [fieldIll] at h ⊢

theorem operandsOk_dst {h : Hart} {d : VOp} {t : Tag} {l : List (VOp × Tag)} {ban : Bool} (e : h.operandsOk d t l ban = true) : h.groupOk d t = true ∧ h.bxOk d t = true := by
  unfold Hart.operandsOk at e
  simp only [Bool.and_eq_true] at e
  exact ⟨e.1.1.1, e.1.1.2⟩

theorem ready_done {i : Instr} {v : VInfo} {mb : Bool} {body : M Ctl} (hv : infoOf i s.hart = some v) (he : exec i s = runVector v mb body s) (hr : Ready i s)
    (hbody : Loose s → v.ill = none → bypassCodes (v.reads ++ v.writes) = [] → ∃ t, body s = .ok Ctl.seq t ∧ Calm v.writes v.gWrite (fun _ => False) (Same s) s t) : VecDone i s := by
  obtain ⟨h1, h2, h3, h3f, h3c, h3u, h4, h5, h6, h7⟩ := hr
  obtain ⟨hi, hb⟩ := h7 v hv
  have hl : Loose s := ⟨h1, h3, h3f, h3c, h3u, h4, h5⟩
  obtain ⟨t, e, r⟩ := runVector_done (mb := mb) hl h2 h6 hi hb (hbody hl hi hb)
  exact ⟨v, t, hv, he.trans e, r⟩

theorem canSat_ok (v : VInfo) (s : State) : SatOk (v.canSat s.hart).writes s := by
  intro m hm
  refine List.mem_append_right _ ?_
  unfold ovfRegs
  rw [hm]
  exact List.mem_singleton.2 rfl

/-- The destination of an arithmetic instruction. -/
theorem arith_dst {cls : PClass} {low : W32} {len : Nat} {cv mk acc : Bool} {d : Fld6} {srcs : List (Fld6 × Nat)} {gs : List GReg} {rs ws' : List Nat}
    (hb : bypassCodes (rs ++ ((s.hart.arithInfo cls low len cv mk d 1 acc srcs gs).writes ++ ws')) = []) {l : List (VOp × Tag)} {ban : Bool}
    (hok : s.hart.operandsOk (s.hart.vop d) (s.hart.opTag (s.hart.vop d)) l ban = true) :
    VecDst ((s.hart.arithInfo cls low len cv mk d 1 acc srcs gs).writes ++ ws') s (s.hart.vop d) (s.hart.opTag (s.hart.vop d)) :=
  vecDst_of rfl hb (fun _ hr => List.mem_append_left _ hr) (operandsOk_dst hok).1 (operandsOk_dst hok).2

end Sys2Proof.Machine
end

