-- ==== Sys2Proof/Laws/PerInstr.lean ====
section
/-! SUPPORT. The round trip of every instruction: decoding the bytes an instruction is encoded to gives that instruction back
and leaves the bytes that follow (one lemma per constructor). -/
set_option linter.unusedSimpArgs false
namespace Sys2Proof.Laws.RoundTrip
def Statement (i : Instr) : Prop := i.wf = true → ∀ rest : List Byte, decode (encodeBytes i ++ rest) = .ok (i, rest)

theorem add (b : GReg) (a : GReg) (d : GReg) : Statement (.add b a d) := fun _ rest => by
  refine decode_encode32 rfl rest rfl ?_
  rw [decodeLow_00 (pack_head _ _ _).2]
  simp only [decodeMaj00, laySR, unpack_pack, unpack_nil, Nat.reducePow, Nat.reduceMod, fit5]
  simp [noLong, need]

theorem sub (b : GReg) (a : GReg) (d : GReg) : Statement (.sub b a d) := fun _ rest => by
  refine decode_encode32 rfl rest rfl ?_
  rw [decodeLow_00 (pack_head _ _ _).2]
  simp only [decodeMaj00, laySR, unpack_pack, unpack_nil, Nat.reducePow, Nat.reduceMod, fit5]
  simp [noLong, need]

theorem and (b : GReg) (a : GReg) (d : GReg) : Statement (.and b a d) := fun _ rest => by
  refine decode_encode32 rfl rest rfl ?_
  rw [decodeLow_00 (pack_head _ _ _).2]
  simp only [decodeMaj00, laySR, unpack_pack, unpack_nil, Nat.reducePow, Nat.reduceMod, fit5]
  simp [noLong, need]

theorem or (b : GReg) (a : GReg) (d : GReg) : Statement (.or b a d) := fun _ rest => by
  refine decode_encode32 rfl rest rfl ?_
  rw [decodeLow_00 (pack_head _ _ _).2]
  simp only [decodeMaj00, laySR, unpack_pack, unpack_nil, Nat.reducePow, Nat.reduceMod, fit5]
  simp [noLong, need]

theorem xor (b : GReg) (a : GReg) (d : GReg) : Statement (.xor b a d) := fun _ rest => by
  refine decode_encode32 rfl rest rfl ?_
  rw [decodeLow_00 (pack_head _ _ _).2]
  simp only [decodeMaj00, laySR, unpack_pack, unpack_nil, Nat.reducePow, Nat.reduceMod, fit5]
  simp [noLong, need]

theorem sll (b : GReg) (a : GReg) (d : GReg) : Statement (.sll b a d) := fun _ rest => by
  refine decode_encode32 rfl rest rfl ?_
  rw [decodeLow_00 (pack_head _ _ _).2]
  simp only [decodeMaj00, laySR, unpack_pack, unpack_nil, Nat.reducePow, Nat.reduceMod, fit5]
  simp [noLong, need]

theorem srl (b : GReg) (a : GReg) (d : GReg) : Statement (.srl b a d) := fun _ rest => by
  refine decode_encode32 rfl rest rfl ?_
  rw [decodeLow_00 (pack_head _ _ _).2]
  simp only [decodeMaj00, laySR, unpack_pack, unpack_nil, Nat.reducePow, Nat.reduceMod, fit5]
  simp [noLong, need]

theorem sra (b : GReg) (a : GReg) (d : GReg) : Statement (.sra b a d) := fun _ rest => by
  refine decode_encode32 rfl rest rfl ?_
  rw [decodeLow_00 (pack_head _ _ _).2]
  simp only [decodeMaj00, laySR, unpack_pack, unpack_nil, Nat.reducePow, Nat.reduceMod, fit5]
  simp [noLong, need]

theorem slt (b : GReg) (a : GReg) (d : GReg) : Statement (.slt b a d) := fun _ rest => by
  refine decode_encode32 rfl rest rfl ?_
  rw [decodeLow_00 (pack_head _ _ _).2]
  simp only [decodeMaj00, laySR, unpack_pack, unpack_nil, Nat.reducePow, Nat.reduceMod, fit5]
  simp [noLong, need]

theorem sltu (b : GReg) (a : GReg) (d : GReg) : Statement (.sltu b a d) := fun _ rest => by
  refine decode_encode32 rfl rest rfl ?_
  rw [decodeLow_00 (pack_head _ _ _).2]
  simp only [decodeMaj00, laySR, unpack_pack, unpack_nil, Nat.reducePow, Nat.reduceMod, fit5]
  simp [noLong, need]

theorem min (b : GReg) (a : GReg) (d : GReg) : Statement (.min b a d) := fun _ rest => by
  refine decode_encode32 rfl rest rfl ?_
  rw [decodeLow_00 (pack_head _ _ _).2]
  simp only [decodeMaj00, laySR, unpack_pack, unpack_nil, Nat.reducePow, Nat.reduceMod, fit5]
  simp [noLong, need]

theorem max (b : GReg) (a : GReg) (d : GReg) : Statement (.max b a d) := fun _ rest => by
  refine decode_encode32 rfl rest rfl ?_
  rw [decodeLow_00 (pack_head _ _ _).2]
  simp only [decodeMaj00, laySR, unpack_pack, unpack_nil, Nat.reducePow, Nat.reduceMod, fit5]
  simp [noLong, need]

theorem minu (b : GReg) (a : GReg) (d : GReg) : Statement (.minu b a d) := fun _ rest => by
  refine decode_encode32 rfl rest rfl ?_
  rw [decodeLow_00 (pack_head _ _ _).2]
  simp only [decodeMaj00, laySR, unpack_pack, unpack_nil, Nat.reducePow, Nat.reduceMod, fit5]
  simp [noLong, need]

theorem maxu (b : GReg) (a : GReg) (d : GReg) : Statement (.maxu b a d) := fun _ rest => by
  refine decode_encode32 rfl rest rfl ?_
  rw [decodeLow_00 (pack_head _ _ _).2]
  simp only [decodeMaj00, laySR, unpack_pack, unpack_nil, Nat.reducePow, Nat.reduceMod, fit5]
  simp [noLong, need]

theorem mul (b : GReg) (a : GReg) (d : GReg) : Statement (.mul b a d) := fun _ rest => by
  refine decode_encode32 rfl rest rfl ?_
  rw [decodeLow_00 (pack_head _ _ _).2]
  simp only [decodeMaj00, laySR, unpack_pack, unpack_nil, Nat.reducePow, Nat.reduceMod, fit5]
  simp [noLong, need]

theorem mulh (b : GReg) (a : GReg) (d : GReg) : Statement (.mulh b a d) := fun _ rest => by
  refine decode_encode32 rfl rest rfl ?_
  rw [decodeLow_00 (pack_head _ _ _).2]
  simp only [decodeMaj00, laySR, unpack_pack, unpack_nil, Nat.reducePow, Nat.reduceMod, fit5]
  simp [noLong, need]

theorem mulhu (b : GReg) (a : GReg) (d : GReg) : Statement (.mulhu b a d) := fun _ rest => by
  refine decode_encode32 rfl rest rfl ?_
  rw [decodeLow_00 (pack_head _ _ _).2]
  simp only [decodeMaj00, laySR, unpack_pack, unpack_nil, Nat.reducePow, Nat.reduceMod, fit5]
  simp [noLong, need]

theorem div (b : GReg) (a : GReg) (d : GReg) : Statement (.div b a d) := fun _ rest => by
  refine decode_encode32 rfl rest rfl ?_
  rw [decodeLow_00 (pack_head _ _ _).2]
  simp only [decodeMaj00, laySR, unpack_pack, unpack_nil, Nat.reducePow, Nat.reduceMod, fit5]
  simp [noLong, need]

theorem divu (b : GReg) (a : GReg) (d : GReg) : Statement (.divu b a d) := fun _ rest => by
  refine decode_encode32 rfl rest rfl ?_
  rw [decodeLow_00 (pack_head _ _ _).2]
  simp only [decodeMaj00, laySR, unpack_pack, unpack_nil, Nat.reducePow, Nat.reduceMod, fit5]
  simp [noLong, need]

theorem rem (b : GReg) (a : GReg) (d : GReg) : Statement (.rem b a d) := fun _ rest => by
  refine decode_encode32 rfl rest rfl ?_
  rw [decodeLow_00 (pack_head _ _ _).2]
  simp only [decodeMaj00, laySR, unpack_pack, unpack_nil, Nat.reducePow, Nat.reduceMod, fit5]
  simp [noLong, need]

theorem remu (b : GReg) (a : GReg) (d : GReg) : Statement (.remu b a d) := fun _ rest => by
  refine decode_encode32 rfl rest rfl ?_
  rw [decodeLow_00 (pack_head _ _ _).2]
  simp only [decodeMaj00, laySR, unpack_pack, unpack_nil, Nat.reducePow, Nat.reduceMod, fit5]
  simp [noLong, need]

theorem clz (a : GReg) (d : GReg) : Statement (.clz a d) := fun _ rest => by
  refine decode_encode32 rfl rest rfl ?_
  rw [decodeLow_00 (pack_head _ _ _).2]
  simp only [decodeMaj00, laySR, unpack_pack, unpack_nil, Nat.reducePow, Nat.reduceMod, fit5]
  simp [noLong, need]

theorem ctz (a : GReg) (d : GReg) : Statement (.ctz a d) := fun _ rest => by
  refine decode_encode32 rfl rest rfl ?_
  rw [decodeLow_00 (pack_head _ _ _).2]
  simp only [decodeMaj00, laySR, unpack_pack, unpack_nil, Nat.reducePow, Nat.reduceMod, fit5]
  simp [noLong, need]

theorem popc (a : GReg) (d : GReg) : Statement (.popc a d) := fun _ rest => by
  refine decode_encode32 rfl rest rfl ?_
  rw [decodeLow_00 (pack_head _ _ _).2]
  simp only [decodeMaj00, laySR, unpack_pack, unpack_nil, Nat.reducePow, Nat.reduceMod, fit5]
  simp [noLong, need]

theorem addi (imm : BitVec 14) (a : GReg) (d : GReg) : Statement (.addi imm a d) := fun _ rest => by
  refine decode_encode32 rfl rest rfl ?_
  rw [decodeLow_01 (pack_head _ _ _).2]
  simp only [decodeMaj01, laySI, unpack_pack, unpack_nil, Nat.reducePow, Nat.reduceMod, fit14, fit5]
  simp [noLong, need]

theorem addiLong (a : GReg) (d : GReg) (imm32 : W32) : Statement (.addiLong a d imm32) := fun _ rest => by
  refine decode_encode64 rfl rest rfl (imm32.isLt) ?_
  rw [decodeLow_01 (pack_head _ _ _).2]
  simp only [decodeMaj01, laySI, unpack_pack, unpack_nil, Nat.reducePow, Nat.reduceMod, fit5]
  simp [noLong, need]

theorem andi (imm : BitVec 14) (a : GReg) (d : GReg) : Statement (.andi imm a d) := fun _ rest => by
  refine decode_encode32 rfl rest rfl ?_
  rw [decodeLow_02 (pack_head _ _ _).2]
  simp only [decodeMaj02, laySI, unpack_pack, unpack_nil, Nat.reducePow, Nat.reduceMod, fit14, fit5]
  simp [noLong, need]

theorem andiLong (a : GReg) (d : GReg) (imm32 : W32) : Statement (.andiLong a d imm32) := fun _ rest => by
  refine decode_encode64 rfl rest rfl (imm32.isLt) ?_
  rw [decodeLow_02 (pack_head _ _ _).2]
  simp only [decodeMaj02, laySI, unpack_pack, unpack_nil, Nat.reducePow, Nat.reduceMod, fit5]
  simp [noLong, need]

theorem ori (imm : BitVec 14) (a : GReg) (d : GReg) : Statement (.ori imm a d) := fun _ rest => by
  refine decode_encode32 rfl rest rfl ?_
  rw [decodeLow_03 (pack_head _ _ _).2]
  simp only [decodeMaj03, laySI, unpack_pack, unpack_nil, Nat.reducePow, Nat.reduceMod, fit14, fit5]
  simp [noLong, need]

theorem oriLong (a : GReg) (d : GReg) (imm32 : W32) : Statement (.oriLong a d imm32) := fun _ rest => by
  refine decode_encode64 rfl rest rfl (imm32.isLt) ?_
  rw [decodeLow_03 (pack_head _ _ _).2]
  simp only [decodeMaj03, laySI, unpack_pack, unpack_nil, Nat.reducePow, Nat.reduceMod, fit5]
  simp [noLong, need]

theorem xori (imm : BitVec 14) (a : GReg) (d : GReg) : Statement (.xori imm a d) := fun _ rest => by
  refine decode_encode32 rfl rest rfl ?_
  rw [decodeLow_04 (pack_head _ _ _).2]
  simp only [decodeMaj04, laySI, unpack_pack, unpack_nil, Nat.reducePow, Nat.reduceMod, fit14, fit5]
  simp [noLong, need]

theorem xoriLong (a : GReg) (d : GReg) (imm32 : W32) : Statement (.xoriLong a d imm32) := fun _ rest => by
  refine decode_encode64 rfl rest rfl (imm32.isLt) ?_
  rw [decodeLow_04 (pack_head _ _ _).2]
  simp only [decodeMaj04, laySI, unpack_pack, unpack_nil, Nat.reducePow, Nat.reduceMod, fit5]
  simp [noLong, need]

theorem slti (imm : BitVec 14) (a : GReg) (d : GReg) : Statement (.slti imm a d) := fun _ rest => by
  refine decode_encode32 rfl rest rfl ?_
  rw [decodeLow_05 (pack_head _ _ _).2]
  simp only [decodeMaj05, laySI, unpack_pack, unpack_nil, Nat.reducePow, Nat.reduceMod, fit14, fit5]
  simp [noLong, need]

theorem sltiLong (a : GReg) (d : GReg) (imm32 : W32) : Statement (.sltiLong a d imm32) := fun _ rest => by
  refine decode_encode64 rfl rest rfl (imm32.isLt) ?_
  rw [decodeLow_05 (pack_head _ _ _).2]
  simp only [decodeMaj05, laySI, unpack_pack, unpack_nil, Nat.reducePow, Nat.reduceMod, fit5]
  simp [noLong, need]

theorem slli (sh : BitVec 6) (a : GReg) (d : GReg) : Statement (.slli sh a d) := fun _ rest => by
  refine decode_encode32 rfl rest rfl ?_
  rw [decodeLow_06 (pack_head _ _ _).2]
  simp only [decodeMaj06, laySH, unpack_pack, unpack_nil, Nat.reducePow, Nat.reduceMod, fit5, fit6]
  simp [noLong, need]

theorem srli (sh : BitVec 6) (a : GReg) (d : GReg) : Statement (.srli sh a d) := fun _ rest => by
  refine decode_encode32 rfl rest rfl ?_
  rw [decodeLow_06 (pack_head _ _ _).2]
  simp only [decodeMaj06, laySH, unpack_pack, unpack_nil, Nat.reducePow, Nat.reduceMod, fit5, fit6]
  simp [noLong, need]

theorem srai (sh : BitVec 6) (a : GReg) (d : GReg) : Statement (.srai sh a d) := fun _ rest => by
  refine decode_encode32 rfl rest rfl ?_
  rw [decodeLow_06 (pack_head _ _ _).2]
  simp only [decodeMaj06, laySH, unpack_pack, unpack_nil, Nat.reducePow, Nat.reduceMod, fit5, fit6]
  simp [noLong, need]

theorem lih (imm : BitVec 14) (d : GReg) : Statement (.lih imm d) := fun _ rest => by
  refine decode_encode32 rfl rest rfl ?_
  rw [decodeLow_07 (pack_head _ _ _).2]
  simp only [decodeMaj07, laySI, unpack_pack, unpack_nil, Nat.reducePow, Nat.reduceMod, fit14, fit5]
  simp [noLong, need]

theorem lihLong (d : GReg) (imm32 : W32) : Statement (.lihLong d imm32) := fun _ rest => by
  refine decode_encode64 rfl rest rfl (imm32.isLt) ?_
  rw [decodeLow_07 (pack_head _ _ _).2]
  simp only [decodeMaj07, laySI, unpack_pack, unpack_nil, Nat.reducePow, Nat.reduceMod, fit5]
  simp [noLong, need]

theorem liw (imm : BitVec 14) (a : GReg) (d : GReg) : Statement (.liw imm a d) := fun _ rest => by
  refine decode_encode32 rfl rest rfl ?_
  rw [decodeLow_08 (pack_head _ _ _).2]
  simp only [decodeMaj08, laySI, unpack_pack, unpack_nil, Nat.reducePow, Nat.reduceMod, fit14, fit5]
  simp [noLong, need]

theorem liwLong (a : GReg) (d : GReg) (imm32 : W32) : Statement (.liwLong a d imm32) := fun _ rest => by
  refine decode_encode64 rfl rest rfl (imm32.isLt) ?_
  rw [decodeLow_08 (pack_head _ _ _).2]
  simp only [decodeMaj08, laySI, unpack_pack, unpack_nil, Nat.reducePow, Nat.reduceMod, fit5]
  simp [noLong, need]

theorem ldB (imm : BitVec 10) (a : GReg) (d : GReg) : Statement (.ldB imm a d) := fun _ rest => by
  refine decode_encode32 rfl rest rfl ?_
  rw [decodeLow_0C (pack_head _ _ _).2]
  simp only [decodeMaj0C, layLS, unpack_pack, unpack_nil, Nat.reducePow, Nat.reduceMod, fit10, fit5]
  simp [noLong, need]

theorem ldBLong (a : GReg) (d : GReg) (imm32 : W32) : Statement (.ldBLong a d imm32) := fun _ rest => by
  refine decode_encode64 rfl rest rfl (imm32.isLt) ?_
  rw [decodeLow_0C (pack_head _ _ _).2]
  simp only [decodeMaj0C, layLS, unpack_pack, unpack_nil, Nat.reducePow, Nat.reduceMod, fit5]
  simp [noLong, need]

theorem ldBu (imm : BitVec 10) (a : GReg) (d : GReg) : Statement (.ldBu imm a d) := fun _ rest => by
  refine decode_encode32 rfl rest rfl ?_
  rw [decodeLow_0C (pack_head _ _ _).2]
  simp only [decodeMaj0C, layLS, unpack_pack, unpack_nil, Nat.reducePow, Nat.reduceMod, fit10, fit5]
  simp [noLong, need]

theorem ldBuLong (a : GReg) (d : GReg) (imm32 : W32) : Statement (.ldBuLong a d imm32) := fun _ rest => by
  refine decode_encode64 rfl rest rfl (imm32.isLt) ?_
  rw [decodeLow_0C (pack_head _ _ _).2]
  simp only [decodeMaj0C, layLS, unpack_pack, unpack_nil, Nat.reducePow, Nat.reduceMod, fit5]
  simp [noLong, need]

theorem ldH (imm : BitVec 10) (a : GReg) (d : GReg) : Statement (.ldH imm a d) := fun _ rest => by
  refine decode_encode32 rfl rest rfl ?_
  rw [decodeLow_0C (pack_head _ _ _).2]
  simp only [decodeMaj0C, layLS, unpack_pack, unpack_nil, Nat.reducePow, Nat.reduceMod, fit10, fit5]
  simp [noLong, need]

theorem ldHLong (a : GReg) (d : GReg) (imm32 : W32) : Statement (.ldHLong a d imm32) := fun _ rest => by
  refine decode_encode64 rfl rest rfl (imm32.isLt) ?_
  rw [decodeLow_0C (pack_head _ _ _).2]
  simp only [decodeMaj0C, layLS, unpack_pack, unpack_nil, Nat.reducePow, Nat.reduceMod, fit5]
  simp [noLong, need]

theorem ldHu (imm : BitVec 10) (a : GReg) (d : GReg) : Statement (.ldHu imm a d) := fun _ rest => by
  refine decode_encode32 rfl rest rfl ?_
  rw [decodeLow_0C (pack_head _ _ _).2]
  simp only [decodeMaj0C, layLS, unpack_pack, unpack_nil, Nat.reducePow, Nat.reduceMod, fit10, fit5]
  simp [noLong, need]

theorem ldHuLong (a : GReg) (d : GReg) (imm32 : W32) : Statement (.ldHuLong a d imm32) := fun _ rest => by
  refine decode_encode64 rfl rest rfl (imm32.isLt) ?_
  rw [decodeLow_0C (pack_head _ _ _).2]
  simp only [decodeMaj0C, layLS, unpack_pack, unpack_nil, Nat.reducePow, Nat.reduceMod, fit5]
  simp [noLong, need]

theorem ldW (imm : BitVec 10) (a : GReg) (d : GReg) : Statement (.ldW imm a d) := fun _ rest => by
  refine decode_encode32 rfl rest rfl ?_
  rw [decodeLow_0C (pack_head _ _ _).2]
  simp only [decodeMaj0C, layLS, unpack_pack, unpack_nil, Nat.reducePow, Nat.reduceMod, fit10, fit5]
  simp [noLong, need]

theorem ldWLong (a : GReg) (d : GReg) (imm32 : W32) : Statement (.ldWLong a d imm32) := fun _ rest => by
  refine decode_encode64 rfl rest rfl (imm32.isLt) ?_
  rw [decodeLow_0C (pack_head _ _ _).2]
  simp only [decodeMaj0C, layLS, unpack_pack, unpack_nil, Nat.reducePow, Nat.reduceMod, fit5]
  simp [noLong, need]

theorem ldWu (imm : BitVec 10) (a : GReg) (d : GReg) : Statement (.ldWu imm a d) := fun _ rest => by
  refine decode_encode32 rfl rest rfl ?_
  rw [decodeLow_0C (pack_head _ _ _).2]
  simp only [decodeMaj0C, layLS, unpack_pack, unpack_nil, Nat.reducePow, Nat.reduceMod, fit10, fit5]
  simp [noLong, need]

theorem ldWuLong (a : GReg) (d : GReg) (imm32 : W32) : Statement (.ldWuLong a d imm32) := fun _ rest => by
  refine decode_encode64 rfl rest rfl (imm32.isLt) ?_
  rw [decodeLow_0C (pack_head _ _ _).2]
  simp only [decodeMaj0C, layLS, unpack_pack, unpack_nil, Nat.reducePow, Nat.reduceMod, fit5]
  simp [noLong, need]

theorem ldD (imm : BitVec 10) (a : GReg) (d : GReg) : Statement (.ldD imm a d) := fun _ rest => by
  refine decode_encode32 rfl rest rfl ?_
  rw [decodeLow_0C (pack_head _ _ _).2]
  simp only [decodeMaj0C, layLS, unpack_pack, unpack_nil, Nat.reducePow, Nat.reduceMod, fit10, fit5]
  simp [noLong, need]

theorem ldDLong (a : GReg) (d : GReg) (imm32 : W32) : Statement (.ldDLong a d imm32) := fun _ rest => by
  refine decode_encode64 rfl rest rfl (imm32.isLt) ?_
  rw [decodeLow_0C (pack_head _ _ _).2]
  simp only [decodeMaj0C, layLS, unpack_pack, unpack_nil, Nat.reducePow, Nat.reduceMod, fit5]
  simp [noLong, need]

theorem ldDA8 (imm : BitVec 10) (a : GReg) (d : GReg) : Statement (.ldDA8 imm a d) := fun _ rest => by
  refine decode_encode32 rfl rest rfl ?_
  rw [decodeLow_0C (pack_head _ _ _).2]
  simp only [decodeMaj0C, layLS, unpack_pack, unpack_nil, Nat.reducePow, Nat.reduceMod, fit10, fit5]
  simp [noLong, need]

theorem ldDA8Long (a : GReg) (d : GReg) (imm32 : W32) : Statement (.ldDA8Long a d imm32) := fun _ rest => by
  refine decode_encode64 rfl rest rfl (imm32.isLt) ?_
  rw [decodeLow_0C (pack_head _ _ _).2]
  simp only [decodeMaj0C, layLS, unpack_pack, unpack_nil, Nat.reducePow, Nat.reduceMod, fit5]
  simp [noLong, need]

theorem stB (imm : BitVec 10) (a : GReg) (d : GReg) : Statement (.stB imm a d) := fun _ rest => by
  refine decode_encode32 rfl rest rfl ?_
  rw [decodeLow_0C (pack_head _ _ _).2]
  simp only [decodeMaj0C, layLS, unpack_pack, unpack_nil, Nat.reducePow, Nat.reduceMod, fit10, fit5]
  simp [noLong, need]

theorem stBLong (a : GReg) (d : GReg) (imm32 : W32) : Statement (.stBLong a d imm32) := fun _ rest => by
  refine decode_encode64 rfl rest rfl (imm32.isLt) ?_
  rw [decodeLow_0C (pack_head _ _ _).2]
  simp only [decodeMaj0C, layLS, unpack_pack, unpack_nil, Nat.reducePow, Nat.reduceMod, fit5]
  simp [noLong, need]

theorem stH (imm : BitVec 10) (a : GReg) (d : GReg) : Statement (.stH imm a d) := fun _ rest => by
  refine decode_encode32 rfl rest rfl ?_
  rw [decodeLow_0C (pack_head _ _ _).2]
  simp only [decodeMaj0C, layLS, unpack_pack, unpack_nil, Nat.reducePow, Nat.reduceMod, fit10, fit5]
  simp [noLong, need]

theorem stHLong (a : GReg) (d : GReg) (imm32 : W32) : Statement (.stHLong a d imm32) := fun _ rest => by
  refine decode_encode64 rfl rest rfl (imm32.isLt) ?_
  rw [decodeLow_0C (pack_head _ _ _).2]
  simp only [decodeMaj0C, layLS, unpack_pack, unpack_nil, Nat.reducePow, Nat.reduceMod, fit5]
  simp [noLong, need]

theorem stW (imm : BitVec 10) (a : GReg) (d : GReg) : Statement (.stW imm a d) := fun _ rest => by
  refine decode_encode32 rfl rest rfl ?_
  rw [decodeLow_0C (pack_head _ _ _).2]
  simp only [decodeMaj0C, layLS, unpack_pack, unpack_nil, Nat.reducePow, Nat.reduceMod, fit10, fit5]
  simp [noLong, need]

theorem stWLong (a : GReg) (d : GReg) (imm32 : W32) : Statement (.stWLong a d imm32) := fun _ rest => by
  refine decode_encode64 rfl rest rfl (imm32.isLt) ?_
  rw [decodeLow_0C (pack_head _ _ _).2]
  simp only [decodeMaj0C, layLS, unpack_pack, unpack_nil, Nat.reducePow, Nat.reduceMod, fit5]
  simp [noLong, need]

theorem stD (imm : BitVec 10) (a : GReg) (d : GReg) : Statement (.stD imm a d) := fun _ rest => by
  refine decode_encode32 rfl rest rfl ?_
  rw [decodeLow_0C (pack_head _ _ _).2]
  simp only [decodeMaj0C, layLS, unpack_pack, unpack_nil, Nat.reducePow, Nat.reduceMod, fit10, fit5]
  simp [noLong, need]

theorem stDLong (a : GReg) (d : GReg) (imm32 : W32) : Statement (.stDLong a d imm32) := fun _ rest => by
  refine decode_encode64 rfl rest rfl (imm32.isLt) ?_
  rw [decodeLow_0C (pack_head _ _ _).2]
  simp only [decodeMaj0C, layLS, unpack_pack, unpack_nil, Nat.reducePow, Nat.reduceMod, fit5]
  simp [noLong, need]

theorem stDA8 (imm : BitVec 10) (a : GReg) (d : GReg) : Statement (.stDA8 imm a d) := fun _ rest => by
  refine decode_encode32 rfl rest rfl ?_
  rw [decodeLow_0C (pack_head _ _ _).2]
  simp only [decodeMaj0C, layLS, unpack_pack, unpack_nil, Nat.reducePow, Nat.reduceMod, fit10, fit5]
  simp [noLong, need]

theorem stDA8Long (a : GReg) (d : GReg) (imm32 : W32) : Statement (.stDA8Long a d imm32) := fun _ rest => by
  refine decode_encode64 rfl rest rfl (imm32.isLt) ?_
  rw [decodeLow_0C (pack_head _ _ _).2]
  simp only [decodeMaj0C, layLS, unpack_pack, unpack_nil, Nat.reducePow, Nat.reduceMod, fit5]
  simp [noLong, need]

theorem ldQA16 (imm : BitVec 10) (a : GReg) (d : GReg) : Statement (.ldQA16 imm a d) := fun h rest => by
  replace h : (decide (d.toNat % 2 = 0)) = true := h
  simp only [Bool.and_eq_true, Bool.or_eq_true, decide_eq_true_eq, Bool.not_eq_true'] at h
  refine decode_encode32 rfl rest rfl ?_
  rw [decodeLow_0C (pack_head _ _ _).2]
  simp only [decodeMaj0C, layLS, unpack_pack, unpack_nil, Nat.reducePow, Nat.reduceMod, fit10, fit5]
  simp [noLong, need, h]

theorem ldQA16Long (a : GReg) (d : GReg) (imm32 : W32) : Statement (.ldQA16Long a d imm32) := fun h rest => by
  replace h : (decide (d.toNat % 2 = 0)) = true := h
  simp only [Bool.and_eq_true, Bool.or_eq_true, decide_eq_true_eq, Bool.not_eq_true'] at h
  refine decode_encode64 rfl rest rfl (imm32.isLt) ?_
  rw [decodeLow_0C (pack_head _ _ _).2]
  simp only [decodeMaj0C, layLS, unpack_pack, unpack_nil, Nat.reducePow, Nat.reduceMod, fit5]
  simp [noLong, need, h]

theorem stQA16 (imm : BitVec 10) (a : GReg) (d : GReg) : Statement (.stQA16 imm a d) := fun h rest => by
  replace h : (decide (d.toNat % 2 = 0)) = true := h
  simp only [Bool.and_eq_true, Bool.or_eq_true, decide_eq_true_eq, Bool.not_eq_true'] at h
  refine decode_encode32 rfl rest rfl ?_
  rw [decodeLow_0C (pack_head _ _ _).2]
  simp only [decodeMaj0C, layLS, unpack_pack, unpack_nil, Nat.reducePow, Nat.reduceMod, fit10, fit5]
  simp [noLong, need, h]

theorem stQA16Long (a : GReg) (d : GReg) (imm32 : W32) : Statement (.stQA16Long a d imm32) := fun h rest => by
  replace h : (decide (d.toNat % 2 = 0)) = true := h
  simp only [Bool.and_eq_true, Bool.or_eq_true, decide_eq_true_eq, Bool.not_eq_true'] at h
  refine decode_encode64 rfl rest rfl (imm32.isLt) ?_
  rw [decodeLow_0C (pack_head _ _ _).2]
  simp only [decodeMaj0C, layLS, unpack_pack, unpack_nil, Nat.reducePow, Nat.reduceMod, fit5]
  simp [noLong, need, h]

theorem ldA (sz : BitVec 3) (sc : BitVec 3) (a : GReg) (d : GReg) : Statement (.ldA sz sc a d) := fun h rest => by
  replace h : (decide (sz.toNat ≤ 4) && decide (sc.toNat ≤ 4) && (decide (sz.toNat ≠ 4) || decide (d.toNat % 2 = 0))) = true := h
  simp only [Bool.and_eq_true, Bool.or_eq_true, decide_eq_true_eq, Bool.not_eq_true'] at h
  refine decode_encode32 rfl rest rfl ?_
  rw [decodeLow_0D (pack_head _ _ _).2]
  simp only [decodeMaj0D, layAR, unpack_pack, unpack_nil, Nat.reducePow, Nat.reduceMod, fit3, fit5]
  simp [noLong, need, h]

theorem ldALong (sz : BitVec 3) (sc : BitVec 3) (a : GReg) (d : GReg) (imm32 : W32) : Statement (.ldALong sz sc a d imm32) := fun h rest => by
  replace h : (decide (sz.toNat ≤ 4) && decide (sc.toNat ≤ 4) && (decide (sz.toNat ≠ 4) || decide (d.toNat % 2 = 0))) = true := h
  simp only [Bool.and_eq_true, Bool.or_eq_true, decide_eq_true_eq, Bool.not_eq_true'] at h
  refine decode_encode64 rfl rest rfl (imm32.isLt) ?_
  rw [decodeLow_0D (pack_head _ _ _).2]
  simp only [decodeMaj0D, layAR, unpack_pack, unpack_nil, Nat.reducePow, Nat.reduceMod, fit3, fit5]
  simp [noLong, need, h]

theorem stR (sz : BitVec 3) (sc : BitVec 3) (a : GReg) (d : GReg) : Statement (.stR sz sc a d) := fun h rest => by
  replace h : (decide (sz.toNat ≤ 4) && decide (sc.toNat ≤ 4) && (decide (sz.toNat ≠ 4) || decide (d.toNat % 2 = 0))) = true := h
  simp only [Bool.and_eq_true, Bool.or_eq_true, decide_eq_true_eq, Bool.not_eq_true'] at h
  refine decode_encode32 rfl rest rfl ?_
  rw [decodeLow_0D (pack_head _ _ _).2]
  simp only [decodeMaj0D, layAR, unpack_pack, unpack_nil, Nat.reducePow, Nat.reduceMod, fit3, fit5]
  simp [noLong, need, h]

theorem stRLong (sz : BitVec 3) (sc : BitVec 3) (a : GReg) (d : GReg) (imm32 : W32) : Statement (.stRLong sz sc a d imm32) := fun h rest => by
  replace h : (decide (sz.toNat ≤ 4) && decide (sc.toNat ≤ 4) && (decide (sz.toNat ≠ 4) || decide (d.toNat % 2 = 0))) = true := h
  simp only [Bool.and_eq_true, Bool.or_eq_true, decide_eq_true_eq, Bool.not_eq_true'] at h
  refine decode_encode64 rfl rest rfl (imm32.isLt) ?_
  rw [decodeLow_0D (pack_head _ _ _).2]
  simp only [decodeMaj0D, layAR, unpack_pack, unpack_nil, Nat.reducePow, Nat.reduceMod, fit3, fit5]
  simp [noLong, need, h]

theorem amoAdd (od : BitVec 2) (sc : BitVec 3) (b : GReg) (a : GReg) (d : GReg) (wide : Bool) : Statement (.amoAdd od sc b a d wide) := fun h rest => by
  replace h : (decide (sc.toNat ≤ 4) && (decide (od.toNat ≠ 0) || decide (sc.toNat = 0))) = true := h
  simp only [Bool.and_eq_true, Bool.or_eq_true, decide_eq_true_eq, Bool.not_eq_true'] at h
  cases wide
  · refine decode_encode32 rfl rest rfl ?_
    rw [decodeLow_0E (pack_head _ _ _).2]
    simp only [decodeMaj0E, layAM, unpack_pack, unpack_nil, Nat.reducePow, Nat.reduceMod, fit2, fit3, fit5]
    simp [noLong, need, h]
  · refine decode_encode32 rfl rest rfl ?_
    rw [decodeLow_0F (pack_head _ _ _).2]
    simp only [decodeMaj0F, layAM, unpack_pack, unpack_nil, Nat.reducePow, Nat.reduceMod, fit2, fit3, fit5]
    simp [noLong, need, h]

theorem amoAddLong (od : BitVec 2) (sc : BitVec 3) (b : GReg) (a : GReg) (d : GReg) (wide : Bool) (imm32 : W32) : Statement (.amoAddLong od sc b a d wide imm32) := fun h rest => by
  replace h : (decide (sc.toNat ≤ 4) && (decide (od.toNat ≠ 0) || decide (sc.toNat = 0))) = true := h
  simp only [Bool.and_eq_true, Bool.or_eq_true, decide_eq_true_eq, Bool.not_eq_true'] at h
  cases wide
  · refine decode_encode64 rfl rest rfl (imm32.isLt) ?_
    rw [decodeLow_0E (pack_head _ _ _).2]
    simp only [decodeMaj0E, layAM, unpack_pack, unpack_nil, Nat.reducePow, Nat.reduceMod, fit2, fit3, fit5]
    simp [noLong, need, h]
  · refine decode_encode64 rfl rest rfl (imm32.isLt) ?_
    rw [decodeLow_0F (pack_head _ _ _).2]
    simp only [decodeMaj0F, layAM, unpack_pack, unpack_nil, Nat.reducePow, Nat.reduceMod, fit2, fit3, fit5]
    simp [noLong, need, h]

theorem amoAnd (od : BitVec 2) (sc : BitVec 3) (b : GReg) (a : GReg) (d : GReg) (wide : Bool) : Statement (.amoAnd od sc b a d wide) := fun h rest => by
  replace h : (decide (sc.toNat ≤ 4) && (decide (od.toNat ≠ 0) || decide (sc.toNat = 0))) = true := h
  simp only [Bool.and_eq_true, Bool.or_eq_true, decide_eq_true_eq, Bool.not_eq_true'] at h
  cases wide
  · refine decode_encode32 rfl rest rfl ?_
    rw [decodeLow_0E (pack_head _ _ _).2]
    simp only [decodeMaj0E, layAM, unpack_pack, unpack_nil, Nat.reducePow, Nat.reduceMod, fit2, fit3, fit5]
    simp [noLong, need, h]
  · refine decode_encode32 rfl rest rfl ?_
    rw [decodeLow_0F (pack_head _ _ _).2]
    simp only [decodeMaj0F, layAM, unpack_pack, unpack_nil, Nat.reducePow, Nat.reduceMod, fit2, fit3, fit5]
    simp [noLong, need, h]

theorem amoAndLong (od : BitVec 2) (sc : BitVec 3) (b : GReg) (a : GReg) (d : GReg) (wide : Bool) (imm32 : W32) : Statement (.amoAndLong od sc b a d wide imm32) := fun h rest => by
  replace h : (decide (sc.toNat ≤ 4) && (decide (od.toNat ≠ 0) || decide (sc.toNat = 0))) = true := h
  simp only [Bool.and_eq_true, Bool.or_eq_true, decide_eq_true_eq, Bool.not_eq_true'] at h
  cases wide
  · refine decode_encode64 rfl rest rfl (imm32.isLt) ?_
    rw [decodeLow_0E (pack_head _ _ _).2]
    simp only [decodeMaj0E, layAM, unpack_pack, unpack_nil, Nat.reducePow, Nat.reduceMod, fit2, fit3, fit5]
    simp [noLong, need, h]
  · refine decode_encode64 rfl rest rfl (imm32.isLt) ?_
    rw [decodeLow_0F (pack_head _ _ _).2]
    simp only [decodeMaj0F, layAM, unpack_pack, unpack_nil, Nat.reducePow, Nat.reduceMod, fit2, fit3, fit5]
    simp [noLong, need, h]

theorem amoOr (od : BitVec 2) (sc : BitVec 3) (b : GReg) (a : GReg) (d : GReg) (wide : Bool) : Statement (.amoOr od sc b a d wide) := fun h rest => by
  replace h : (decide (sc.toNat ≤ 4) && (decide (od.toNat ≠ 0) || decide (sc.toNat = 0))) = true := h
  simp only [Bool.and_eq_true, Bool.or_eq_true, decide_eq_true_eq, Bool.not_eq_true'] at h
  cases wide
  · refine decode_encode32 rfl rest rfl ?_
    rw [decodeLow_0E (pack_head _ _ _).2]
    simp only [decodeMaj0E, layAM, unpack_pack, unpack_nil, Nat.reducePow, Nat.reduceMod, fit2, fit3, fit5]
    simp [noLong, need, h]
  · refine decode_encode32 rfl rest rfl ?_
    rw [decodeLow_0F (pack_head _ _ _).2]
    simp only [decodeMaj0F, layAM, unpack_pack, unpack_nil, Nat.reducePow, Nat.reduceMod, fit2, fit3, fit5]
    simp [noLong, need, h]

theorem amoOrLong (od : BitVec 2) (sc : BitVec 3) (b : GReg) (a : GReg) (d : GReg) (wide : Bool) (imm32 : W32) : Statement (.amoOrLong od sc b a d wide imm32) := fun h rest => by
  replace h : (decide (sc.toNat ≤ 4) && (decide (od.toNat ≠ 0) || decide (sc.toNat = 0))) = true := h
  simp only [Bool.and_eq_true, Bool.or_eq_true, decide_eq_true_eq, Bool.not_eq_true'] at h
  cases wide
  · refine decode_encode64 rfl rest rfl (imm32.isLt) ?_
    rw [decodeLow_0E (pack_head _ _ _).2]
    simp only [decodeMaj0E, layAM, unpack_pack, unpack_nil, Nat.reducePow, Nat.reduceMod, fit2, fit3, fit5]
    simp [noLong, need, h]
  · refine decode_encode64 rfl rest rfl (imm32.isLt) ?_
    rw [decodeLow_0F (pack_head _ _ _).2]
    simp only [decodeMaj0F, layAM, unpack_pack, unpack_nil, Nat.reducePow, Nat.reduceMod, fit2, fit3, fit5]
    simp [noLong, need, h]

theorem amoXor (od : BitVec 2) (sc : BitVec 3) (b : GReg) (a : GReg) (d : GReg) (wide : Bool) : Statement (.amoXor od sc b a d wide) := fun h rest => by
  replace h : (decide (sc.toNat ≤ 4) && (decide (od.toNat ≠ 0) || decide (sc.toNat = 0))) = true := h
  simp only [Bool.and_eq_true, Bool.or_eq_true, decide_eq_true_eq, Bool.not_eq_true'] at h
  cases wide
  · refine decode_encode32 rfl rest rfl ?_
    rw [decodeLow_0E (pack_head _ _ _).2]
    simp only [decodeMaj0E, layAM, unpack_pack, unpack_nil, Nat.reducePow, Nat.reduceMod, fit2, fit3, fit5]
    simp [noLong, need, h]
  · refine decode_encode32 rfl rest rfl ?_
    rw [decodeLow_0F (pack_head _ _ _).2]
    simp only [decodeMaj0F, layAM, unpack_pack, unpack_nil, Nat.reducePow, Nat.reduceMod, fit2, fit3, fit5]
    simp [noLong, need, h]

theorem amoXorLong (od : BitVec 2) (sc : BitVec 3) (b : GReg) (a : GReg) (d : GReg) (wide : Bool) (imm32 : W32) : Statement (.amoXorLong od sc b a d wide imm32) := fun h rest => by
  replace h : (decide (sc.toNat ≤ 4) && (decide (od.toNat ≠ 0) || decide (sc.toNat = 0))) = true := h
  simp only [Bool.and_eq_true, Bool.or_eq_true, decide_eq_true_eq, Bool.not_eq_true'] at h
  cases wide
  · refine decode_encode64 rfl rest rfl (imm32.isLt) ?_
    rw [decodeLow_0E (pack_head _ _ _).2]
    simp only [decodeMaj0E, layAM, unpack_pack, unpack_nil, Nat.reducePow, Nat.reduceMod, fit2, fit3, fit5]
    simp [noLong, need, h]
  · refine decode_encode64 rfl rest rfl (imm32.isLt) ?_
    rw [decodeLow_0F (pack_head _ _ _).2]
    simp only [decodeMaj0F, layAM, unpack_pack, unpack_nil, Nat.reducePow, Nat.reduceMod, fit2, fit3, fit5]
    simp [noLong, need, h]

theorem amoMin (od : BitVec 2) (sc : BitVec 3) (b : GReg) (a : GReg) (d : GReg) (wide : Bool) : Statement (.amoMin od sc b a d wide) := fun h rest => by
  replace h : (decide (sc.toNat ≤ 4) && (decide (od.toNat ≠ 0) || decide (sc.toNat = 0))) = true := h
  simp only [Bool.and_eq_true, Bool.or_eq_true, decide_eq_true_eq, Bool.not_eq_true'] at h
  cases wide
  · refine decode_encode32 rfl rest rfl ?_
    rw [decodeLow_0E (pack_head _ _ _).2]
    simp only [decodeMaj0E, layAM, unpack_pack, unpack_nil, Nat.reducePow, Nat.reduceMod, fit2, fit3, fit5]
    simp [noLong, need, h]
  · refine decode_encode32 rfl rest rfl ?_
    rw [decodeLow_0F (pack_head _ _ _).2]
    simp only [decodeMaj0F, layAM, unpack_pack, unpack_nil, Nat.reducePow, Nat.reduceMod, fit2, fit3, fit5]
    simp [noLong, need, h]

theorem amoMinLong (od : BitVec 2) (sc : BitVec 3) (b : GReg) (a : GReg) (d : GReg) (wide : Bool) (imm32 : W32) : Statement (.amoMinLong od sc b a d wide imm32) := fun h rest => by
  replace h : (decide (sc.toNat ≤ 4) && (decide (od.toNat ≠ 0) || decide (sc.toNat = 0))) = true := h
  simp only [Bool.and_eq_true, Bool.or_eq_true, decide_eq_true_eq, Bool.not_eq_true'] at h
  cases wide
  · refine decode_encode64 rfl rest rfl (imm32.isLt) ?_
    rw [decodeLow_0E (pack_head _ _ _).2]
    simp only [decodeMaj0E, layAM, unpack_pack, unpack_nil, Nat.reducePow, Nat.reduceMod, fit2, fit3, fit5]
    simp [noLong, need, h]
  · refine decode_encode64 rfl rest rfl (imm32.isLt) ?_
    rw [decodeLow_0F (pack_head _ _ _).2]
    simp only [decodeMaj0F, layAM, unpack_pack, unpack_nil, Nat.reducePow, Nat.reduceMod, fit2, fit3, fit5]
    simp [noLong, need, h]

theorem amoMax (od : BitVec 2) (sc : BitVec 3) (b : GReg) (a : GReg) (d : GReg) (wide : Bool) : Statement (.amoMax od sc b a d wide) := fun h rest => by
  replace h : (decide (sc.toNat ≤ 4) && (decide (od.toNat ≠ 0) || decide (sc.toNat = 0))) = true := h
  simp only [Bool.and_eq_true, Bool.or_eq_true, decide_eq_true_eq, Bool.not_eq_true'] at h
  cases wide
  · refine decode_encode32 rfl rest rfl ?_
    rw [decodeLow_0E (pack_head _ _ _).2]
    simp only [decodeMaj0E, layAM, unpack_pack, unpack_nil, Nat.reducePow, Nat.reduceMod, fit2, fit3, fit5]
    simp [noLong, need, h]
  · refine decode_encode32 rfl rest rfl ?_
    rw [decodeLow_0F (pack_head _ _ _).2]
    simp only [decodeMaj0F, layAM, unpack_pack, unpack_nil, Nat.reducePow, Nat.reduceMod, fit2, fit3, fit5]
    simp [noLong, need, h]

theorem amoMaxLong (od : BitVec 2) (sc : BitVec 3) (b : GReg) (a : GReg) (d : GReg) (wide : Bool) (imm32 : W32) : Statement (.amoMaxLong od sc b a d wide imm32) := fun h rest => by
  replace h : (decide (sc.toNat ≤ 4) && (decide (od.toNat ≠ 0) || decide (sc.toNat = 0))) = true := h
  simp only [Bool.and_eq_true, Bool.or_eq_true, decide_eq_true_eq, Bool.not_eq_true'] at h
  cases wide
  · refine decode_encode64 rfl rest rfl (imm32.isLt) ?_
    rw [decodeLow_0E (pack_head _ _ _).2]
    simp only [decodeMaj0E, layAM, unpack_pack, unpack_nil, Nat.reducePow, Nat.reduceMod, fit2, fit3, fit5]
    simp [noLong, need, h]
  · refine decode_encode64 rfl rest rfl (imm32.isLt) ?_
    rw [decodeLow_0F (pack_head _ _ _).2]
    simp only [decodeMaj0F, layAM, unpack_pack, unpack_nil, Nat.reducePow, Nat.reduceMod, fit2, fit3, fit5]
    simp [noLong, need, h]

theorem amoMinu (od : BitVec 2) (sc : BitVec 3) (b : GReg) (a : GReg) (d : GReg) (wide : Bool) : Statement (.amoMinu od sc b a d wide) := fun h rest => by
  replace h : (decide (sc.toNat ≤ 4) && (decide (od.toNat ≠ 0) || decide (sc.toNat = 0))) = true := h
  simp only [Bool.and_eq_true, Bool.or_eq_true, decide_eq_true_eq, Bool.not_eq_true'] at h
  cases wide
  · refine decode_encode32 rfl rest rfl ?_
    rw [decodeLow_0E (pack_head _ _ _).2]
    simp only [decodeMaj0E, layAM, unpack_pack, unpack_nil, Nat.reducePow, Nat.reduceMod, fit2, fit3, fit5]
    simp [noLong, need, h]
  · refine decode_encode32 rfl rest rfl ?_
    rw [decodeLow_0F (pack_head _ _ _).2]
    simp only [decodeMaj0F, layAM, unpack_pack, unpack_nil, Nat.reducePow, Nat.reduceMod, fit2, fit3, fit5]
    simp [noLong, need, h]

theorem amoMinuLong (od : BitVec 2) (sc : BitVec 3) (b : GReg) (a : GReg) (d : GReg) (wide : Bool) (imm32 : W32) : Statement (.amoMinuLong od sc b a d wide imm32) := fun h rest => by
  replace h : (decide (sc.toNat ≤ 4) && (decide (od.toNat ≠ 0) || decide (sc.toNat = 0))) = true := h
  simp only [Bool.and_eq_true, Bool.or_eq_true, decide_eq_true_eq, Bool.not_eq_true'] at h
  cases wide
  · refine decode_encode64 rfl rest rfl (imm32.isLt) ?_
    rw [decodeLow_0E (pack_head _ _ _).2]
    simp only [decodeMaj0E, layAM, unpack_pack, unpack_nil, Nat.reducePow, Nat.reduceMod, fit2, fit3, fit5]
    simp [noLong, need, h]
  · refine decode_encode64 rfl rest rfl (imm32.isLt) ?_
    rw [decodeLow_0F (pack_head _ _ _).2]
    simp only [decodeMaj0F, layAM, unpack_pack, unpack_nil, Nat.reducePow, Nat.reduceMod, fit2, fit3, fit5]
    simp [noLong, need, h]

theorem amoMaxu (od : BitVec 2) (sc : BitVec 3) (b : GReg) (a : GReg) (d : GReg) (wide : Bool) : Statement (.amoMaxu od sc b a d wide) := fun h rest => by
  replace h : (decide (sc.toNat ≤ 4) && (decide (od.toNat ≠ 0) || decide (sc.toNat = 0))) = true := h
  simp only [Bool.and_eq_true, Bool.or_eq_true, decide_eq_true_eq, Bool.not_eq_true'] at h
  cases wide
  · refine decode_encode32 rfl rest rfl ?_
    rw [decodeLow_0E (pack_head _ _ _).2]
    simp only [decodeMaj0E, layAM, unpack_pack, unpack_nil, Nat.reducePow, Nat.reduceMod, fit2, fit3, fit5]
    simp [noLong, need, h]
  · refine decode_encode32 rfl rest rfl ?_
    rw [decodeLow_0F (pack_head _ _ _).2]
    simp only [decodeMaj0F, layAM, unpack_pack, unpack_nil, Nat.reducePow, Nat.reduceMod, fit2, fit3, fit5]
    simp [noLong, need, h]

theorem amoMaxuLong (od : BitVec 2) (sc : BitVec 3) (b : GReg) (a : GReg) (d : GReg) (wide : Bool) (imm32 : W32) : Statement (.amoMaxuLong od sc b a d wide imm32) := fun h rest => by
  replace h : (decide (sc.toNat ≤ 4) && (decide (od.toNat ≠ 0) || decide (sc.toNat = 0))) = true := h
  simp only [Bool.and_eq_true, Bool.or_eq_true, decide_eq_true_eq, Bool.not_eq_true'] at h
  cases wide
  · refine decode_encode64 rfl rest rfl (imm32.isLt) ?_
    rw [decodeLow_0E (pack_head _ _ _).2]
    simp only [decodeMaj0E, layAM, unpack_pack, unpack_nil, Nat.reducePow, Nat.reduceMod, fit2, fit3, fit5]
    simp [noLong, need, h]
  · refine decode_encode64 rfl rest rfl (imm32.isLt) ?_
    rw [decodeLow_0F (pack_head _ _ _).2]
    simp only [decodeMaj0F, layAM, unpack_pack, unpack_nil, Nat.reducePow, Nat.reduceMod, fit2, fit3, fit5]
    simp [noLong, need, h]

theorem amoSwap (od : BitVec 2) (sc : BitVec 3) (b : GReg) (a : GReg) (d : GReg) (wide : Bool) : Statement (.amoSwap od sc b a d wide) := fun h rest => by
  replace h : (decide (sc.toNat ≤ 4) && (decide (od.toNat ≠ 0) || decide (sc.toNat = 0))) = true := h
  simp only [Bool.and_eq_true, Bool.or_eq_true, decide_eq_true_eq, Bool.not_eq_true'] at h
  cases wide
  · refine decode_encode32 rfl rest rfl ?_
    rw [decodeLow_0E (pack_head _ _ _).2]
    simp only [decodeMaj0E, layAM, unpack_pack, unpack_nil, Nat.reducePow, Nat.reduceMod, fit2, fit3, fit5]
    simp [noLong, need, h]
  · refine decode_encode32 rfl rest rfl ?_
    rw [decodeLow_0F (pack_head _ _ _).2]
    simp only [decodeMaj0F, layAM, unpack_pack, unpack_nil, Nat.reducePow, Nat.reduceMod, fit2, fit3, fit5]
    simp [noLong, need, h]

theorem amoSwapLong (od : BitVec 2) (sc : BitVec 3) (b : GReg) (a : GReg) (d : GReg) (wide : Bool) (imm32 : W32) : Statement (.amoSwapLong od sc b a d wide imm32) := fun h rest => by
  replace h : (decide (sc.toNat ≤ 4) && (decide (od.toNat ≠ 0) || decide (sc.toNat = 0))) = true := h
  simp only [Bool.and_eq_true, Bool.or_eq_true, decide_eq_true_eq, Bool.not_eq_true'] at h
  cases wide
  · refine decode_encode64 rfl rest rfl (imm32.isLt) ?_
    rw [decodeLow_0E (pack_head _ _ _).2]
    simp only [decodeMaj0E, layAM, unpack_pack, unpack_nil, Nat.reducePow, Nat.reduceMod, fit2, fit3, fit5]
    simp [noLong, need, h]
  · refine decode_encode64 rfl rest rfl (imm32.isLt) ?_
    rw [decodeLow_0F (pack_head _ _ _).2]
    simp only [decodeMaj0F, layAM, unpack_pack, unpack_nil, Nat.reducePow, Nat.reduceMod, fit2, fit3, fit5]
    simp [noLong, need, h]

theorem amoCas (od : BitVec 2) (sc : BitVec 3) (b : GReg) (a : GReg) (d : GReg) (wide : Bool) : Statement (.amoCas od sc b a d wide) := fun h rest => by
  replace h : (decide (sc.toNat ≤ 4) && (decide (od.toNat ≠ 0) || decide (sc.toNat = 0))) = true := h
  simp only [Bool.and_eq_true, Bool.or_eq_true, decide_eq_true_eq, Bool.not_eq_true'] at h
  cases wide
  · refine decode_encode32 rfl rest rfl ?_
    rw [decodeLow_0E (pack_head _ _ _).2]
    simp only [decodeMaj0E, layAM, unpack_pack, unpack_nil, Nat.reducePow, Nat.reduceMod, fit2, fit3, fit5]
    simp [noLong, need, h]
  · refine decode_encode32 rfl rest rfl ?_
    rw [decodeLow_0F (pack_head _ _ _).2]
    simp only [decodeMaj0F, layAM, unpack_pack, unpack_nil, Nat.reducePow, Nat.reduceMod, fit2, fit3, fit5]
    simp [noLong, need, h]

theorem amoCasLong (od : BitVec 2) (sc : BitVec 3) (b : GReg) (a : GReg) (d : GReg) (wide : Bool) (imm32 : W32) : Statement (.amoCasLong od sc b a d wide imm32) := fun h rest => by
  replace h : (decide (sc.toNat ≤ 4) && (decide (od.toNat ≠ 0) || decide (sc.toNat = 0))) = true := h
  simp only [Bool.and_eq_true, Bool.or_eq_true, decide_eq_true_eq, Bool.not_eq_true'] at h
  cases wide
  · refine decode_encode64 rfl rest rfl (imm32.isLt) ?_
    rw [decodeLow_0E (pack_head _ _ _).2]
    simp only [decodeMaj0E, layAM, unpack_pack, unpack_nil, Nat.reducePow, Nat.reduceMod, fit2, fit3, fit5]
    simp [noLong, need, h]
  · refine decode_encode64 rfl rest rfl (imm32.isLt) ?_
    rw [decodeLow_0F (pack_head _ _ _).2]
    simp only [decodeMaj0F, layAM, unpack_pack, unpack_nil, Nat.reducePow, Nat.reduceMod, fit2, fit3, fit5]
    simp [noLong, need, h]

theorem amoSwapA16 (od : BitVec 2) (sc : BitVec 3) (b : GReg) (a : GReg) (d : GReg) : Statement (.amoSwapA16 od sc b a d) := fun h rest => by
  replace h : (decide (sc.toNat ≤ 4) && (decide (od.toNat ≠ 0) || decide (sc.toNat = 0)) && decide (d.toNat % 2 = 0) && decide (b.toNat % 2 = 0)) = true := h
  simp only [Bool.and_eq_true, Bool.or_eq_true, decide_eq_true_eq, Bool.not_eq_true'] at h
  refine decode_encode32 rfl rest rfl ?_
  rw [decodeLow_0F (pack_head _ _ _).2]
  simp only [decodeMaj0F, layAM, unpack_pack, unpack_nil, Nat.reducePow, Nat.reduceMod, fit2, fit3, fit5]
  simp [noLong, need, h]

theorem amoSwapA16Long (od : BitVec 2) (sc : BitVec 3) (b : GReg) (a : GReg) (d : GReg) (imm32 : W32) : Statement (.amoSwapA16Long od sc b a d imm32) := fun h rest => by
  replace h : (decide (sc.toNat ≤ 4) && (decide (od.toNat ≠ 0) || decide (sc.toNat = 0)) && decide (d.toNat % 2 = 0) && decide (b.toNat % 2 = 0)) = true := h
  simp only [Bool.and_eq_true, Bool.or_eq_true, decide_eq_true_eq, Bool.not_eq_true'] at h
  refine decode_encode64 rfl rest rfl (imm32.isLt) ?_
  rw [decodeLow_0F (pack_head _ _ _).2]
  simp only [decodeMaj0F, layAM, unpack_pack, unpack_nil, Nat.reducePow, Nat.reduceMod, fit2, fit3, fit5]
  simp [noLong, need, h]

theorem amoCasA16 (od : BitVec 2) (sc : BitVec 3) (b : GReg) (a : GReg) (d : GReg) : Statement (.amoCasA16 od sc b a d) := fun h rest => by
  replace h : (decide (sc.toNat ≤ 4) && (decide (od.toNat ≠ 0) || decide (sc.toNat = 0)) && decide (d.toNat % 2 = 0) && decide (b.toNat % 2 = 0)) = true := h
  simp only [Bool.and_eq_true, Bool.or_eq_true, decide_eq_true_eq, Bool.not_eq_true'] at h
  refine decode_encode32 rfl rest rfl ?_
  rw [decodeLow_0F (pack_head _ _ _).2]
  simp only [decodeMaj0F, layAM, unpack_pack, unpack_nil, Nat.reducePow, Nat.reduceMod, fit2, fit3, fit5]
  simp [noLong, need, h]

theorem amoCasA16Long (od : BitVec 2) (sc : BitVec 3) (b : GReg) (a : GReg) (d : GReg) (imm32 : W32) : Statement (.amoCasA16Long od sc b a d imm32) := fun h rest => by
  replace h : (decide (sc.toNat ≤ 4) && (decide (od.toNat ≠ 0) || decide (sc.toNat = 0)) && decide (d.toNat % 2 = 0) && decide (b.toNat % 2 = 0)) = true := h
  simp only [Bool.and_eq_true, Bool.or_eq_true, decide_eq_true_eq, Bool.not_eq_true'] at h
  refine decode_encode64 rfl rest rfl (imm32.isLt) ?_
  rw [decodeLow_0F (pack_head _ _ _).2]
  simp only [decodeMaj0F, layAM, unpack_pack, unpack_nil, Nat.reducePow, Nat.reduceMod, fit2, fit3, fit5]
  simp [noLong, need, h]

theorem fence (sc : BitVec 3) : Statement (.fence sc) := fun h rest => by
  replace h : (decide (sc.toNat ≤ 4)) = true := h
  simp only [Bool.and_eq_true, Bool.or_eq_true, decide_eq_true_eq, Bool.not_eq_true'] at h
  refine decode_encode32 rfl rest rfl ?_
  rw [decodeLow_13 (pack_head _ _ _).2]
  simp only [decodeMaj13, layFN, unpack_pack, unpack_nil, Nat.reducePow, Nat.reduceMod, fit3]
  simp [noLong, need, h]

theorem fenceX (sc : BitVec 3) (after : BitVec 7) (before : BitVec 7) : Statement (.fenceX sc after before) := fun h rest => by
  replace h : (decide (sc.toNat ≤ 4)) = true := h
  simp only [Bool.and_eq_true, Bool.or_eq_true, decide_eq_true_eq, Bool.not_eq_true'] at h
  refine decode_encode32 rfl rest rfl ?_
  rw [decodeLow_13 (pack_head _ _ _).2]
  rw [decodeMaj13_fenceX (by simp only [pack] <;> omega)]
  simp only [decodeMaj13x, layFX, unpack_pack, unpack_nil, Nat.reducePow, Nat.reduceMod, fit3, fit7]
  simp [noLong, need, h]

theorem wfm (sc : BitVec 3) (b : GReg) (a : GReg) (d : GReg) : Statement (.wfm sc b a d) := fun h rest => by
  replace h : (decide (sc.toNat ≤ 4)) = true := h
  simp only [Bool.and_eq_true, Bool.or_eq_true, decide_eq_true_eq, Bool.not_eq_true'] at h
  refine decode_encode32 rfl rest rfl ?_
  rw [decodeLow_13 (pack_head _ _ _).2]
  simp only [decodeMaj13, layFN, unpack_pack, unpack_nil, Nat.reducePow, Nat.reduceMod, fit3, fit5]
  simp [noLong, need, h]

theorem wfmWake : Statement .wfmWake := fun h => nomatch h

theorem waitq (qm : BitVec 4) : Statement (.waitq qm) := fun _ rest => by
  have l_qm := qm.isLt
  have e_qm : qm.toNat % 32 = qm.toNat := Nat.mod_eq_of_lt (by omega)
  refine decode_encode32 rfl rest rfl ?_
  rw [decodeLow_13 (pack_head _ _ _).2]
  simp only [decodeMaj13, layFN, unpack_pack, unpack_nil, Nat.reducePow, Nat.reduceMod, e_qm]
  simp [noLong, need, e_qm, l_qm]

theorem beq (off : BitVec 14) (a : GReg) : Statement (.beq off a) := fun _ rest => by
  refine decode_encode32 rfl rest rfl ?_
  rw [decodeLow_10 (pack_head _ _ _).2]
  simp only [decodeMaj10, laySB, unpack_pack, unpack_nil, Nat.reducePow, Nat.reduceMod, fit14, fit5]
  simp [noLong, need]

theorem beqLong (off : BitVec 14) (a : GReg) (c : GReg) : Statement (.beqLong off a c) := fun _ rest => by
  have l_c := c.isLt
  refine decode_encode64 rfl rest rfl (Nat.lt_of_lt_of_le c.isLt (by decide)) ?_
  rw [decodeLow_10 (pack_head _ _ _).2]
  simp only [decodeMaj10, laySB, unpack_pack, unpack_nil, Nat.reducePow, Nat.reduceMod, fit14, fit5]
  simp [noLong, need, l_c]

theorem bne (off : BitVec 14) (a : GReg) : Statement (.bne off a) := fun _ rest => by
  refine decode_encode32 rfl rest rfl ?_
  rw [decodeLow_10 (pack_head _ _ _).2]
  simp only [decodeMaj10, laySB, unpack_pack, unpack_nil, Nat.reducePow, Nat.reduceMod, fit14, fit5]
  simp [noLong, need]

theorem bneLong (off : BitVec 14) (a : GReg) (c : GReg) : Statement (.bneLong off a c) := fun _ rest => by
  have l_c := c.isLt
  refine decode_encode64 rfl rest rfl (Nat.lt_of_lt_of_le c.isLt (by decide)) ?_
  rw [decodeLow_10 (pack_head _ _ _).2]
  simp only [decodeMaj10, laySB, unpack_pack, unpack_nil, Nat.reducePow, Nat.reduceMod, fit14, fit5]
  simp [noLong, need, l_c]

theorem blt (off : BitVec 14) (a : GReg) : Statement (.blt off a) := fun _ rest => by
  refine decode_encode32 rfl rest rfl ?_
  rw [decodeLow_10 (pack_head _ _ _).2]
  simp only [decodeMaj10, laySB, unpack_pack, unpack_nil, Nat.reducePow, Nat.reduceMod, fit14, fit5]
  simp [noLong, need]

theorem bltLong (off : BitVec 14) (a : GReg) (c : GReg) : Statement (.bltLong off a c) := fun _ rest => by
  have l_c := c.isLt
  refine decode_encode64 rfl rest rfl (Nat.lt_of_lt_of_le c.isLt (by decide)) ?_
  rw [decodeLow_10 (pack_head _ _ _).2]
  simp only [decodeMaj10, laySB, unpack_pack, unpack_nil, Nat.reducePow, Nat.reduceMod, fit14, fit5]
  simp [noLong, need, l_c]

theorem bge (off : BitVec 14) (a : GReg) : Statement (.bge off a) := fun _ rest => by
  refine decode_encode32 rfl rest rfl ?_
  rw [decodeLow_10 (pack_head _ _ _).2]
  simp only [decodeMaj10, laySB, unpack_pack, unpack_nil, Nat.reducePow, Nat.reduceMod, fit14, fit5]
  simp [noLong, need]

theorem bgeLong (off : BitVec 14) (a : GReg) (c : GReg) : Statement (.bgeLong off a c) := fun _ rest => by
  have l_c := c.isLt
  refine decode_encode64 rfl rest rfl (Nat.lt_of_lt_of_le c.isLt (by decide)) ?_
  rw [decodeLow_10 (pack_head _ _ _).2]
  simp only [decodeMaj10, laySB, unpack_pack, unpack_nil, Nat.reducePow, Nat.reduceMod, fit14, fit5]
  simp [noLong, need, l_c]

theorem bltu (off : BitVec 14) (a : GReg) : Statement (.bltu off a) := fun _ rest => by
  refine decode_encode32 rfl rest rfl ?_
  rw [decodeLow_10 (pack_head _ _ _).2]
  simp only [decodeMaj10, laySB, unpack_pack, unpack_nil, Nat.reducePow, Nat.reduceMod, fit14, fit5]
  simp [noLong, need]

theorem bltuLong (off : BitVec 14) (a : GReg) (c : GReg) : Statement (.bltuLong off a c) := fun _ rest => by
  have l_c := c.isLt
  refine decode_encode64 rfl rest rfl (Nat.lt_of_lt_of_le c.isLt (by decide)) ?_
  rw [decodeLow_10 (pack_head _ _ _).2]
  simp only [decodeMaj10, laySB, unpack_pack, unpack_nil, Nat.reducePow, Nat.reduceMod, fit14, fit5]
  simp [noLong, need, l_c]

theorem bgeu (off : BitVec 14) (a : GReg) : Statement (.bgeu off a) := fun _ rest => by
  refine decode_encode32 rfl rest rfl ?_
  rw [decodeLow_10 (pack_head _ _ _).2]
  simp only [decodeMaj10, laySB, unpack_pack, unpack_nil, Nat.reducePow, Nat.reduceMod, fit14, fit5]
  simp [noLong, need]

theorem bgeuLong (off : BitVec 14) (a : GReg) (c : GReg) : Statement (.bgeuLong off a c) := fun _ rest => by
  have l_c := c.isLt
  refine decode_encode64 rfl rest rfl (Nat.lt_of_lt_of_le c.isLt (by decide)) ?_
  rw [decodeLow_10 (pack_head _ _ _).2]
  simp only [decodeMaj10, laySB, unpack_pack, unpack_nil, Nat.reducePow, Nat.reduceMod, fit14, fit5]
  simp [noLong, need, l_c]

theorem jalr (off : BitVec 14) (a : GReg) : Statement (.jalr off a) := fun _ rest => by
  refine decode_encode32 rfl rest rfl ?_
  rw [decodeLow_10 (pack_head _ _ _).2]
  simp only [decodeMaj10, laySB, unpack_pack, unpack_nil, Nat.reducePow, Nat.reduceMod, fit14, fit5]
  simp [noLong, need]

theorem jalrLong (off : BitVec 14) (a : GReg) (c : GReg) : Statement (.jalrLong off a c) := fun _ rest => by
  have l_c := c.isLt
  refine decode_encode64 rfl rest rfl (Nat.lt_of_lt_of_le c.isLt (by decide)) ?_
  rw [decodeLow_10 (pack_head _ _ _).2]
  simp only [decodeMaj10, laySB, unpack_pack, unpack_nil, Nat.reducePow, Nat.reduceMod, fit14, fit5]
  simp [noLong, need, l_c]

theorem jal (off : BitVec 19) (d : GReg) : Statement (.jal off d) := fun _ rest => by
  refine decode_encode32 rfl rest rfl ?_
  rw [decodeLow_11 (pack_head _ _ _).2]
  simp only [decodeMaj11, laySJ, unpack_pack, unpack_nil, Nat.reducePow, Nat.reduceMod, fit19, fit5]
  simp [noLong, need]

theorem csrw (csr : BitVec 12) (a : GReg) (d : GReg) : Statement (.csrw csr a d) := fun _ rest => by
  refine decode_encode32 rfl rest rfl ?_
  rw [decodeLow_12 (pack_head _ _ _).2]
  simp only [decodeMaj12, layCS, unpack_pack, unpack_nil, Nat.reducePow, Nat.reduceMod, fit12, fit5]
  simp [noLong, need]

theorem csrs (csr : BitVec 12) (a : GReg) (d : GReg) : Statement (.csrs csr a d) := fun _ rest => by
  refine decode_encode32 rfl rest rfl ?_
  rw [decodeLow_12 (pack_head _ _ _).2]
  simp only [decodeMaj12, layCS, unpack_pack, unpack_nil, Nat.reducePow, Nat.reduceMod, fit12, fit5]
  simp [noLong, need]

theorem csrc (csr : BitVec 12) (a : GReg) (d : GReg) : Statement (.csrc csr a d) := fun _ rest => by
  refine decode_encode32 rfl rest rfl ?_
  rw [decodeLow_12 (pack_head _ _ _).2]
  simp only [decodeMaj12, layCS, unpack_pack, unpack_nil, Nat.reducePow, Nat.reduceMod, fit12, fit5]
  simp [noLong, need]

theorem ecall : Statement .ecall := fun _ rest => by
  refine decode_encode32 rfl rest rfl ?_
  rw [decodeLow_12 (pack_head _ _ _).2]
  rw [decodeMaj12_sys (by simp only [pack] <;> omega)]
  simp only [decodeSys, laySY, unpack_pack, unpack_nil, Nat.reducePow, Nat.reduceMod]
  simp [noLong, need]

theorem tret : Statement .tret := fun _ rest => by
  refine decode_encode32 rfl rest rfl ?_
  rw [decodeLow_12 (pack_head _ _ _).2]
  rw [decodeMaj12_sys (by simp only [pack] <;> omega)]
  simp only [decodeSys, laySY, unpack_pack, unpack_nil, Nat.reducePow, Nat.reduceMod]
  simp [noLong, need]

theorem brk (code : BitVec 5) : Statement (.brk code) := fun _ rest => by
  refine decode_encode32 rfl rest rfl ?_
  rw [decodeLow_12 (pack_head _ _ _).2]
  rw [decodeMaj12_sys (by simp only [pack] <;> omega)]
  simp only [decodeSys, laySY, unpack_pack, unpack_nil, Nat.reducePow, Nat.reduceMod, fit5]
  simp [noLong, need]

theorem halt : Statement .halt := fun _ rest => by
  refine decode_encode32 rfl rest rfl ?_
  rw [decodeLow_12 (pack_head _ _ _).2]
  rw [decodeMaj12_sys (by simp only [pack] <;> omega)]
  simp only [decodeSys, laySY, unpack_pack, unpack_nil, Nat.reducePow, Nat.reduceMod]
  simp [noLong, need]

theorem yield : Statement .yield := fun _ rest => by
  refine decode_encode32 rfl rest rfl ?_
  rw [decodeLow_12 (pack_head _ _ _).2]
  rw [decodeMaj12_sys (by simp only [pack] <;> omega)]
  simp only [decodeSys, laySY, unpack_pack, unpack_nil, Nat.reducePow, Nat.reduceMod]
  simp [noLong, need]

theorem glaunch (a : GReg) (d : GReg) : Statement (.glaunch a d) := fun _ rest => by
  refine decode_encode32 rfl rest rfl ?_
  rw [decodeLow_12 (pack_head _ _ _).2]
  rw [decodeMaj12_sys (by simp only [pack] <;> omega)]
  simp only [decodeSys, laySY, unpack_pack, unpack_nil, Nat.reducePow, Nat.reduceMod, fit5]
  simp [noLong, need]

theorem gexit : Statement .gexit := fun _ rest => by
  refine decode_encode32 rfl rest rfl ?_
  rw [decodeLow_12 (pack_head _ _ _).2]
  rw [decodeMaj12_sys (by simp only [pack] <;> omega)]
  simp only [decodeSys, laySY, unpack_pack, unpack_nil, Nat.reducePow, Nat.reduceMod]
  simp [noLong, need]

theorem gbar : Statement .gbar := fun _ rest => by
  refine decode_encode32 rfl rest rfl ?_
  rw [decodeLow_12 (pack_head _ _ _).2]
  rw [decodeMaj12_sys (by simp only [pack] <;> omega)]
  simp only [decodeSys, laySY, unpack_pack, unpack_nil, Nat.reducePow, Nat.reduceMod]
  simp [noLong, need]

theorem tlbiVa (b : GReg) (a : GReg) : Statement (.tlbiVa b a) := fun _ rest => by
  refine decode_encode32 rfl rest rfl ?_
  rw [decodeLow_12 (pack_head _ _ _).2]
  rw [decodeMaj12_sys (by simp only [pack] <;> omega)]
  simp only [decodeSys, laySY, unpack_pack, unpack_nil, Nat.reducePow, Nat.reduceMod, fit5]
  simp [noLong, need]

theorem tlbiAs (b : GReg) : Statement (.tlbiAs b) := fun _ rest => by
  refine decode_encode32 rfl rest rfl ?_
  rw [decodeLow_12 (pack_head _ _ _).2]
  rw [decodeMaj12_sys (by simp only [pack] <;> omega)]
  simp only [decodeSys, laySY, unpack_pack, unpack_nil, Nat.reducePow, Nat.reduceMod, fit5]
  simp [noLong, need]

theorem tlbiAll : Statement .tlbiAll := fun _ rest => by
  refine decode_encode32 rfl rest rfl ?_
  rw [decodeLow_12 (pack_head _ _ _).2]
  rw [decodeMaj12_sys (by simp only [pack] <;> omega)]
  simp only [decodeSys, laySY, unpack_pack, unpack_nil, Nat.reducePow, Nat.reduceMod]
  simp [noLong, need]

theorem vaddVv (cv : Bool) (mk : Bool) (b : Fld6) (a : Fld6) (d : Fld6) : Statement (.vaddVv cv mk b a d) := fun _ rest => by
  refine decode_encode32 rfl rest rfl ?_
  rw [decodeLow_14 (pack_head _ _ _).2]
  simp only [decodeMaj14, layVV, unpack_pack, unpack_nil, Nat.reducePow, Nat.reduceMod, fit6, bit_mod]
  simp [noLong, need]

theorem vaddVx (cv : Bool) (mk : Bool) (g : GReg) (a : Fld6) (d : Fld6) : Statement (.vaddVx cv mk g a d) := fun _ rest => by
  refine decode_encode32 rfl rest rfl ?_
  rw [decodeLow_15 (pack_head _ _ _).2]
  simp only [decodeMaj15, layVX, unpack_pack, unpack_nil, Nat.reducePow, Nat.reduceMod, fit5, fit6, bit_mod]
  simp [noLong, need]

theorem vsubVv (cv : Bool) (mk : Bool) (b : Fld6) (a : Fld6) (d : Fld6) : Statement (.vsubVv cv mk b a d) := fun _ rest => by
  refine decode_encode32 rfl rest rfl ?_
  rw [decodeLow_14 (pack_head _ _ _).2]
  simp only [decodeMaj14, layVV, unpack_pack, unpack_nil, Nat.reducePow, Nat.reduceMod, fit6, bit_mod]
  simp [noLong, need]

theorem vsubVx (cv : Bool) (mk : Bool) (g : GReg) (a : Fld6) (d : Fld6) : Statement (.vsubVx cv mk g a d) := fun _ rest => by
  refine decode_encode32 rfl rest rfl ?_
  rw [decodeLow_15 (pack_head _ _ _).2]
  simp only [decodeMaj15, layVX, unpack_pack, unpack_nil, Nat.reducePow, Nat.reduceMod, fit5, fit6, bit_mod]
  simp [noLong, need]

theorem vmulVv (cv : Bool) (mk : Bool) (b : Fld6) (a : Fld6) (d : Fld6) : Statement (.vmulVv cv mk b a d) := fun _ rest => by
  refine decode_encode32 rfl rest rfl ?_
  rw [decodeLow_14 (pack_head _ _ _).2]
  simp only [decodeMaj14, layVV, unpack_pack, unpack_nil, Nat.reducePow, Nat.reduceMod, fit6, bit_mod]
  simp [noLong, need]

theorem vmulVx (cv : Bool) (mk : Bool) (g : GReg) (a : Fld6) (d : Fld6) : Statement (.vmulVx cv mk g a d) := fun _ rest => by
  refine decode_encode32 rfl rest rfl ?_
  rw [decodeLow_15 (pack_head _ _ _).2]
  simp only [decodeMaj15, layVX, unpack_pack, unpack_nil, Nat.reducePow, Nat.reduceMod, fit5, fit6, bit_mod]
  simp [noLong, need]

theorem vminVv (cv : Bool) (mk : Bool) (b : Fld6) (a : Fld6) (d : Fld6) : Statement (.vminVv cv mk b a d) := fun _ rest => by
  refine decode_encode32 rfl rest rfl ?_
  rw [decodeLow_14 (pack_head _ _ _).2]
  simp only [decodeMaj14, layVV, unpack_pack, unpack_nil, Nat.reducePow, Nat.reduceMod, fit6, bit_mod]
  simp [noLong, need]

theorem vminVx (cv : Bool) (mk : Bool) (g : GReg) (a : Fld6) (d : Fld6) : Statement (.vminVx cv mk g a d) := fun _ rest => by
  refine decode_encode32 rfl rest rfl ?_
  rw [decodeLow_15 (pack_head _ _ _).2]
  simp only [decodeMaj15, layVX, unpack_pack, unpack_nil, Nat.reducePow, Nat.reduceMod, fit5, fit6, bit_mod]
  simp [noLong, need]

theorem vmaxVv (cv : Bool) (mk : Bool) (b : Fld6) (a : Fld6) (d : Fld6) : Statement (.vmaxVv cv mk b a d) := fun _ rest => by
  refine decode_encode32 rfl rest rfl ?_
  rw [decodeLow_14 (pack_head _ _ _).2]
  simp only [decodeMaj14, layVV, unpack_pack, unpack_nil, Nat.reducePow, Nat.reduceMod, fit6, bit_mod]
  simp [noLong, need]

theorem vmaxVx (cv : Bool) (mk : Bool) (g : GReg) (a : Fld6) (d : Fld6) : Statement (.vmaxVx cv mk g a d) := fun _ rest => by
  refine decode_encode32 rfl rest rfl ?_
  rw [decodeLow_15 (pack_head _ _ _).2]
  simp only [decodeMaj15, layVX, unpack_pack, unpack_nil, Nat.reducePow, Nat.reduceMod, fit5, fit6, bit_mod]
  simp [noLong, need]

theorem vandVv (cv : Bool) (mk : Bool) (b : Fld6) (a : Fld6) (d : Fld6) : Statement (.vandVv cv mk b a d) := fun _ rest => by
  refine decode_encode32 rfl rest rfl ?_
  rw [decodeLow_14 (pack_head _ _ _).2]
  simp only [decodeMaj14, layVV, unpack_pack, unpack_nil, Nat.reducePow, Nat.reduceMod, fit6, bit_mod]
  simp [noLong, need]

theorem vandVx (cv : Bool) (mk : Bool) (g : GReg) (a : Fld6) (d : Fld6) : Statement (.vandVx cv mk g a d) := fun _ rest => by
  refine decode_encode32 rfl rest rfl ?_
  rw [decodeLow_15 (pack_head _ _ _).2]
  simp only [decodeMaj15, layVX, unpack_pack, unpack_nil, Nat.reducePow, Nat.reduceMod, fit5, fit6, bit_mod]
  simp [noLong, need]

theorem vorVv (cv : Bool) (mk : Bool) (b : Fld6) (a : Fld6) (d : Fld6) : Statement (.vorVv cv mk b a d) := fun _ rest => by
  refine decode_encode32 rfl rest rfl ?_
  rw [decodeLow_14 (pack_head _ _ _).2]
  simp only [decodeMaj14, layVV, unpack_pack, unpack_nil, Nat.reducePow, Nat.reduceMod, fit6, bit_mod]
  simp [noLong, need]

theorem vorVx (cv : Bool) (mk : Bool) (g : GReg) (a : Fld6) (d : Fld6) : Statement (.vorVx cv mk g a d) := fun _ rest => by
  refine decode_encode32 rfl rest rfl ?_
  rw [decodeLow_15 (pack_head _ _ _).2]
  simp only [decodeMaj15, layVX, unpack_pack, unpack_nil, Nat.reducePow, Nat.reduceMod, fit5, fit6, bit_mod]
  simp [noLong, need]

theorem vxorVv (cv : Bool) (mk : Bool) (b : Fld6) (a : Fld6) (d : Fld6) : Statement (.vxorVv cv mk b a d) := fun _ rest => by
  refine decode_encode32 rfl rest rfl ?_
  rw [decodeLow_14 (pack_head _ _ _).2]
  simp only [decodeMaj14, layVV, unpack_pack, unpack_nil, Nat.reducePow, Nat.reduceMod, fit6, bit_mod]
  simp [noLong, need]

theorem vxorVx (cv : Bool) (mk : Bool) (g : GReg) (a : Fld6) (d : Fld6) : Statement (.vxorVx cv mk g a d) := fun _ rest => by
  refine decode_encode32 rfl rest rfl ?_
  rw [decodeLow_15 (pack_head _ _ _).2]
  simp only [decodeMaj15, layVX, unpack_pack, unpack_nil, Nat.reducePow, Nat.reduceMod, fit5, fit6, bit_mod]
  simp [noLong, need]

theorem vsllVv (cv : Bool) (mk : Bool) (b : Fld6) (a : Fld6) (d : Fld6) : Statement (.vsllVv cv mk b a d) := fun _ rest => by
  refine decode_encode32 rfl rest rfl ?_
  rw [decodeLow_14 (pack_head _ _ _).2]
  simp only [decodeMaj14, layVV, unpack_pack, unpack_nil, Nat.reducePow, Nat.reduceMod, fit6, bit_mod]
  simp [noLong, need]

theorem vsllVx (cv : Bool) (mk : Bool) (g : GReg) (a : Fld6) (d : Fld6) : Statement (.vsllVx cv mk g a d) := fun _ rest => by
  refine decode_encode32 rfl rest rfl ?_
  rw [decodeLow_15 (pack_head _ _ _).2]
  simp only [decodeMaj15, layVX, unpack_pack, unpack_nil, Nat.reducePow, Nat.reduceMod, fit5, fit6, bit_mod]
  simp [noLong, need]

theorem vsrlVv (cv : Bool) (mk : Bool) (b : Fld6) (a : Fld6) (d : Fld6) : Statement (.vsrlVv cv mk b a d) := fun _ rest => by
  refine decode_encode32 rfl rest rfl ?_
  rw [decodeLow_14 (pack_head _ _ _).2]
  simp only [decodeMaj14, layVV, unpack_pack, unpack_nil, Nat.reducePow, Nat.reduceMod, fit6, bit_mod]
  simp [noLong, need]

theorem vsrlVx (cv : Bool) (mk : Bool) (g : GReg) (a : Fld6) (d : Fld6) : Statement (.vsrlVx cv mk g a d) := fun _ rest => by
  refine decode_encode32 rfl rest rfl ?_
  rw [decodeLow_15 (pack_head _ _ _).2]
  simp only [decodeMaj15, layVX, unpack_pack, unpack_nil, Nat.reducePow, Nat.reduceMod, fit5, fit6, bit_mod]
  simp [noLong, need]

theorem vsraVv (cv : Bool) (mk : Bool) (b : Fld6) (a : Fld6) (d : Fld6) : Statement (.vsraVv cv mk b a d) := fun _ rest => by
  refine decode_encode32 rfl rest rfl ?_
  rw [decodeLow_14 (pack_head _ _ _).2]
  simp only [decodeMaj14, layVV, unpack_pack, unpack_nil, Nat.reducePow, Nat.reduceMod, fit6, bit_mod]
  simp [noLong, need]

theorem vsraVx (cv : Bool) (mk : Bool) (g : GReg) (a : Fld6) (d : Fld6) : Statement (.vsraVx cv mk g a d) := fun _ rest => by
  refine decode_encode32 rfl rest rfl ?_
  rw [decodeLow_15 (pack_head _ _ _).2]
  simp only [decodeMaj15, layVX, unpack_pack, unpack_nil, Nat.reducePow, Nat.reduceMod, fit5, fit6, bit_mod]
  simp [noLong, need]

theorem vmulhVv (cv : Bool) (mk : Bool) (b : Fld6) (a : Fld6) (d : Fld6) : Statement (.vmulhVv cv mk b a d) := fun _ rest => by
  refine decode_encode32 rfl rest rfl ?_
  rw [decodeLow_14 (pack_head _ _ _).2]
  simp only [decodeMaj14, layVV, unpack_pack, unpack_nil, Nat.reducePow, Nat.reduceMod, fit6, bit_mod]
  simp [noLong, need]

theorem vmulhVx (cv : Bool) (mk : Bool) (g : GReg) (a : Fld6) (d : Fld6) : Statement (.vmulhVx cv mk g a d) := fun _ rest => by
  refine decode_encode32 rfl rest rfl ?_
  rw [decodeLow_15 (pack_head _ _ _).2]
  simp only [decodeMaj15, layVX, unpack_pack, unpack_nil, Nat.reducePow, Nat.reduceMod, fit5, fit6, bit_mod]
  simp [noLong, need]

theorem vsaddVv (cv : Bool) (mk : Bool) (b : Fld6) (a : Fld6) (d : Fld6) : Statement (.vsaddVv cv mk b a d) := fun _ rest => by
  refine decode_encode32 rfl rest rfl ?_
  rw [decodeLow_14 (pack_head _ _ _).2]
  simp only [decodeMaj14, layVV, unpack_pack, unpack_nil, Nat.reducePow, Nat.reduceMod, fit6, bit_mod]
  simp [noLong, need]

theorem vsaddVx (cv : Bool) (mk : Bool) (g : GReg) (a : Fld6) (d : Fld6) : Statement (.vsaddVx cv mk g a d) := fun _ rest => by
  refine decode_encode32 rfl rest rfl ?_
  rw [decodeLow_15 (pack_head _ _ _).2]
  simp only [decodeMaj15, layVX, unpack_pack, unpack_nil, Nat.reducePow, Nat.reduceMod, fit5, fit6, bit_mod]
  simp [noLong, need]

theorem vssubVv (cv : Bool) (mk : Bool) (b : Fld6) (a : Fld6) (d : Fld6) : Statement (.vssubVv cv mk b a d) := fun _ rest => by
  refine decode_encode32 rfl rest rfl ?_
  rw [decodeLow_14 (pack_head _ _ _).2]
  simp only [decodeMaj14, layVV, unpack_pack, unpack_nil, Nat.reducePow, Nat.reduceMod, fit6, bit_mod]
  simp [noLong, need]

theorem vssubVx (cv : Bool) (mk : Bool) (g : GReg) (a : Fld6) (d : Fld6) : Statement (.vssubVx cv mk g a d) := fun _ rest => by
  refine decode_encode32 rfl rest rfl ?_
  rw [decodeLow_15 (pack_head _ _ _).2]
  simp only [decodeMaj15, layVX, unpack_pack, unpack_nil, Nat.reducePow, Nat.reduceMod, fit5, fit6, bit_mod]
  simp [noLong, need]

theorem vavgVv (cv : Bool) (mk : Bool) (b : Fld6) (a : Fld6) (d : Fld6) : Statement (.vavgVv cv mk b a d) := fun _ rest => by
  refine decode_encode32 rfl rest rfl ?_
  rw [decodeLow_14 (pack_head _ _ _).2]
  simp only [decodeMaj14, layVV, unpack_pack, unpack_nil, Nat.reducePow, Nat.reduceMod, fit6, bit_mod]
  simp [noLong, need]

theorem vavgVx (cv : Bool) (mk : Bool) (g : GReg) (a : Fld6) (d : Fld6) : Statement (.vavgVx cv mk g a d) := fun _ rest => by
  refine decode_encode32 rfl rest rfl ?_
  rw [decodeLow_15 (pack_head _ _ _).2]
  simp only [decodeMaj15, layVX, unpack_pack, unpack_nil, Nat.reducePow, Nat.reduceMod, fit5, fit6, bit_mod]
  simp [noLong, need]

theorem vdivVv (cv : Bool) (mk : Bool) (b : Fld6) (a : Fld6) (d : Fld6) : Statement (.vdivVv cv mk b a d) := fun _ rest => by
  refine decode_encode32 rfl rest rfl ?_
  rw [decodeLow_14 (pack_head _ _ _).2]
  simp only [decodeMaj14, layVV, unpack_pack, unpack_nil, Nat.reducePow, Nat.reduceMod, fit6, bit_mod]
  simp [noLong, need]

theorem vdivVx (cv : Bool) (mk : Bool) (g : GReg) (a : Fld6) (d : Fld6) : Statement (.vdivVx cv mk g a d) := fun _ rest => by
  refine decode_encode32 rfl rest rfl ?_
  rw [decodeLow_15 (pack_head _ _ _).2]
  simp only [decodeMaj15, layVX, unpack_pack, unpack_nil, Nat.reducePow, Nat.reduceMod, fit5, fit6, bit_mod]
  simp [noLong, need]

theorem vsplat (cv : Bool) (mk : Bool) (g : GReg) (d : Fld6) : Statement (.vsplat cv mk g d) := fun _ rest => by
  refine decode_encode32 rfl rest rfl ?_
  rw [decodeLow_15 (pack_head _ _ _).2]
  simp only [decodeMaj15, layVX, unpack_pack, unpack_nil, Nat.reducePow, Nat.reduceMod, fit5, fit6, bit_mod]
  simp [noLong, need]

theorem vfma (cv : Bool) (mk : Bool) (b : Fld6) (a : Fld6) (d : Fld6) : Statement (.vfma cv mk b a d) := fun _ rest => by
  refine decode_encode32 rfl rest rfl ?_
  rw [decodeLow_16 (pack_head _ _ _).2]
  simp only [decodeMaj16, layVV, unpack_pack, unpack_nil, Nat.reducePow, Nat.reduceMod, fit6, bit_mod]
  simp [noLong, need]

theorem vfms (cv : Bool) (mk : Bool) (b : Fld6) (a : Fld6) (d : Fld6) : Statement (.vfms cv mk b a d) := fun _ rest => by
  refine decode_encode32 rfl rest rfl ?_
  rw [decodeLow_16 (pack_head _ _ _).2]
  simp only [decodeMaj16, layVV, unpack_pack, unpack_nil, Nat.reducePow, Nat.reduceMod, fit6, bit_mod]
  simp [noLong, need]

theorem vfnma (cv : Bool) (mk : Bool) (b : Fld6) (a : Fld6) (d : Fld6) : Statement (.vfnma cv mk b a d) := fun _ rest => by
  refine decode_encode32 rfl rest rfl ?_
  rw [decodeLow_16 (pack_head _ _ _).2]
  simp only [decodeMaj16, layVV, unpack_pack, unpack_nil, Nat.reducePow, Nat.reduceMod, fit6, bit_mod]
  simp [noLong, need]

theorem vsqrt (cv : Bool) (mk : Bool) (b : Fld6) (x : Fld6) (d : Fld6) : Statement (.vsqrt cv mk b x d) := fun _ rest => by
  refine decode_encode32 rfl rest rfl ?_
  rw [decodeLow_16 (pack_head _ _ _).2]
  simp only [decodeMaj16, layVV, unpack_pack, unpack_nil, Nat.reducePow, Nat.reduceMod, fit6, bit_mod]
  simp [noLong, need]

theorem vrcp (cv : Bool) (mk : Bool) (b : Fld6) (x : Fld6) (d : Fld6) : Statement (.vrcp cv mk b x d) := fun _ rest => by
  refine decode_encode32 rfl rest rfl ?_
  rw [decodeLow_16 (pack_head _ _ _).2]
  simp only [decodeMaj16, layVV, unpack_pack, unpack_nil, Nat.reducePow, Nat.reduceMod, fit6, bit_mod]
  simp [noLong, need]

theorem vrsq (cv : Bool) (mk : Bool) (b : Fld6) (x : Fld6) (d : Fld6) : Statement (.vrsq cv mk b x d) := fun _ rest => by
  refine decode_encode32 rfl rest rfl ?_
  rw [decodeLow_16 (pack_head _ _ _).2]
  simp only [decodeMaj16, layVV, unpack_pack, unpack_nil, Nat.reducePow, Nat.reduceMod, fit6, bit_mod]
  simp [noLong, need]

theorem vexp (cv : Bool) (mk : Bool) (b : Fld6) (x : Fld6) (d : Fld6) : Statement (.vexp cv mk b x d) := fun _ rest => by
  refine decode_encode32 rfl rest rfl ?_
  rw [decodeLow_16 (pack_head _ _ _).2]
  simp only [decodeMaj16, layVV, unpack_pack, unpack_nil, Nat.reducePow, Nat.reduceMod, fit6, bit_mod]
  simp [noLong, need]

theorem vlog2 (cv : Bool) (mk : Bool) (b : Fld6) (x : Fld6) (d : Fld6) : Statement (.vlog2 cv mk b x d) := fun _ rest => by
  refine decode_encode32 rfl rest rfl ?_
  rw [decodeLow_16 (pack_head _ _ _).2]
  simp only [decodeMaj16, layVV, unpack_pack, unpack_nil, Nat.reducePow, Nat.reduceMod, fit6, bit_mod]
  simp [noLong, need]

theorem vabs (cv : Bool) (mk : Bool) (b : Fld6) (x : Fld6) (d : Fld6) : Statement (.vabs cv mk b x d) := fun _ rest => by
  refine decode_encode32 rfl rest rfl ?_
  rw [decodeLow_16 (pack_head _ _ _).2]
  simp only [decodeMaj16, layVV, unpack_pack, unpack_nil, Nat.reducePow, Nat.reduceMod, fit6, bit_mod]
  simp [noLong, need]

theorem vneg (cv : Bool) (mk : Bool) (b : Fld6) (x : Fld6) (d : Fld6) : Statement (.vneg cv mk b x d) := fun _ rest => by
  refine decode_encode32 rfl rest rfl ?_
  rw [decodeLow_16 (pack_head _ _ _).2]
  simp only [decodeMaj16, layVV, unpack_pack, unpack_nil, Nat.reducePow, Nat.reduceMod, fit6, bit_mod]
  simp [noLong, need]

theorem vnot (cv : Bool) (mk : Bool) (b : Fld6) (x : Fld6) (d : Fld6) : Statement (.vnot cv mk b x d) := fun _ rest => by
  refine decode_encode32 rfl rest rfl ?_
  rw [decodeLow_16 (pack_head _ _ _).2]
  simp only [decodeMaj16, layVV, unpack_pack, unpack_nil, Nat.reducePow, Nat.reduceMod, fit6, bit_mod]
  simp [noLong, need]

theorem vmov (cv : Bool) (mk : Bool) (b : Fld6) (x : Fld6) (d : Fld6) : Statement (.vmov cv mk b x d) := fun _ rest => by
  refine decode_encode32 rfl rest rfl ?_
  rw [decodeLow_16 (pack_head _ _ _).2]
  simp only [decodeMaj16, layVV, unpack_pack, unpack_nil, Nat.reducePow, Nat.reduceMod, fit6, bit_mod]
  simp [noLong, need]

theorem vcmpEqVv (cv : Bool) (mk : Bool) (b : Fld6) (a : Fld6) (d : Fld6) : Statement (.vcmpEqVv cv mk b a d) := fun _ rest => by
  refine decode_encode32 rfl rest rfl ?_
  rw [decodeLow_17 (pack_head _ _ _).2]
  simp only [decodeMaj17, layVV, unpack_pack, unpack_nil, Nat.reducePow, Nat.reduceMod, fit6, bit_mod]
  simp [noLong, need]

theorem vcmpNeVv (cv : Bool) (mk : Bool) (b : Fld6) (a : Fld6) (d : Fld6) : Statement (.vcmpNeVv cv mk b a d) := fun _ rest => by
  refine decode_encode32 rfl rest rfl ?_
  rw [decodeLow_17 (pack_head _ _ _).2]
  simp only [decodeMaj17, layVV, unpack_pack, unpack_nil, Nat.reducePow, Nat.reduceMod, fit6, bit_mod]
  simp [noLong, need]

theorem vcmpLtVv (cv : Bool) (mk : Bool) (b : Fld6) (a : Fld6) (d : Fld6) : Statement (.vcmpLtVv cv mk b a d) := fun _ rest => by
  refine decode_encode32 rfl rest rfl ?_
  rw [decodeLow_17 (pack_head _ _ _).2]
  simp only [decodeMaj17, layVV, unpack_pack, unpack_nil, Nat.reducePow, Nat.reduceMod, fit6, bit_mod]
  simp [noLong, need]

theorem vcmpLeVv (cv : Bool) (mk : Bool) (b : Fld6) (a : Fld6) (d : Fld6) : Statement (.vcmpLeVv cv mk b a d) := fun _ rest => by
  refine decode_encode32 rfl rest rfl ?_
  rw [decodeLow_17 (pack_head _ _ _).2]
  simp only [decodeMaj17, layVV, unpack_pack, unpack_nil, Nat.reducePow, Nat.reduceMod, fit6, bit_mod]
  simp [noLong, need]

theorem vcmpGtVv (cv : Bool) (mk : Bool) (b : Fld6) (a : Fld6) (d : Fld6) : Statement (.vcmpGtVv cv mk b a d) := fun _ rest => by
  refine decode_encode32 rfl rest rfl ?_
  rw [decodeLow_17 (pack_head _ _ _).2]
  simp only [decodeMaj17, layVV, unpack_pack, unpack_nil, Nat.reducePow, Nat.reduceMod, fit6, bit_mod]
  simp [noLong, need]

theorem vcmpGeVv (cv : Bool) (mk : Bool) (b : Fld6) (a : Fld6) (d : Fld6) : Statement (.vcmpGeVv cv mk b a d) := fun _ rest => by
  refine decode_encode32 rfl rest rfl ?_
  rw [decodeLow_17 (pack_head _ _ _).2]
  simp only [decodeMaj17, layVV, unpack_pack, unpack_nil, Nat.reducePow, Nat.reduceMod, fit6, bit_mod]
  simp [noLong, need]

theorem vcmpEqVx (cv : Bool) (mk : Bool) (g : GReg) (a : Fld6) (d : Fld6) : Statement (.vcmpEqVx cv mk g a d) := fun _ rest => by
  refine decode_encode32 rfl rest rfl ?_
  rw [decodeLow_18 (pack_head _ _ _).2]
  simp only [decodeMaj18, layVX, unpack_pack, unpack_nil, Nat.reducePow, Nat.reduceMod, fit5, fit6, bit_mod]
  simp [noLong, need]

theorem vcmpNeVx (cv : Bool) (mk : Bool) (g : GReg) (a : Fld6) (d : Fld6) : Statement (.vcmpNeVx cv mk g a d) := fun _ rest => by
  refine decode_encode32 rfl rest rfl ?_
  rw [decodeLow_18 (pack_head _ _ _).2]
  simp only [decodeMaj18, layVX, unpack_pack, unpack_nil, Nat.reducePow, Nat.reduceMod, fit5, fit6, bit_mod]
  simp [noLong, need]

theorem vcmpLtVx (cv : Bool) (mk : Bool) (g : GReg) (a : Fld6) (d : Fld6) : Statement (.vcmpLtVx cv mk g a d) := fun _ rest => by
  refine decode_encode32 rfl rest rfl ?_
  rw [decodeLow_18 (pack_head _ _ _).2]
  simp only [decodeMaj18, layVX, unpack_pack, unpack_nil, Nat.reducePow, Nat.reduceMod, fit5, fit6, bit_mod]
  simp [noLong, need]

theorem vcmpLeVx (cv : Bool) (mk : Bool) (g : GReg) (a : Fld6) (d : Fld6) : Statement (.vcmpLeVx cv mk g a d) := fun _ rest => by
  refine decode_encode32 rfl rest rfl ?_
  rw [decodeLow_18 (pack_head _ _ _).2]
  simp only [decodeMaj18, layVX, unpack_pack, unpack_nil, Nat.reducePow, Nat.reduceMod, fit5, fit6, bit_mod]
  simp [noLong, need]

theorem vcmpGtVx (cv : Bool) (mk : Bool) (g : GReg) (a : Fld6) (d : Fld6) : Statement (.vcmpGtVx cv mk g a d) := fun _ rest => by
  refine decode_encode32 rfl rest rfl ?_
  rw [decodeLow_18 (pack_head _ _ _).2]
  simp only [decodeMaj18, layVX, unpack_pack, unpack_nil, Nat.reducePow, Nat.reduceMod, fit5, fit6, bit_mod]
  simp [noLong, need]

theorem vcmpGeVx (cv : Bool) (mk : Bool) (g : GReg) (a : Fld6) (d : Fld6) : Statement (.vcmpGeVx cv mk g a d) := fun _ rest => by
  refine decode_encode32 rfl rest rfl ?_
  rw [decodeLow_18 (pack_head _ _ _).2]
  simp only [decodeMaj18, layVX, unpack_pack, unpack_nil, Nat.reducePow, Nat.reduceMod, fit5, fit6, bit_mod]
  simp [noLong, need]

theorem vwmacVv (cv : Bool) (mk : Bool) (b : Fld6) (a : Fld6) (d : Fld6) : Statement (.vwmacVv cv mk b a d) := fun _ rest => by
  refine decode_encode32 rfl rest rfl ?_
  rw [decodeLow_1C (pack_head _ _ _).2]
  simp only [decodeMaj1C, layVV, unpack_pack, unpack_nil, Nat.reducePow, Nat.reduceMod, fit6, bit_mod]
  simp [noLong, need]

theorem vsad (cv : Bool) (mk : Bool) (b : Fld6) (a : Fld6) (d : Fld6) : Statement (.vsad cv mk b a d) := fun _ rest => by
  refine decode_encode32 rfl rest rfl ?_
  rw [decodeLow_1C (pack_head _ _ _).2]
  simp only [decodeMaj1C, layVV, unpack_pack, unpack_nil, Nat.reducePow, Nat.reduceMod, fit6, bit_mod]
  simp [noLong, need]

theorem vwmacVx (cv : Bool) (mk : Bool) (g : GReg) (a : Fld6) (d : Fld6) : Statement (.vwmacVx cv mk g a d) := fun _ rest => by
  refine decode_encode32 rfl rest rfl ?_
  rw [decodeLow_1D (pack_head _ _ _).2]
  simp only [decodeMaj1D, layVX, unpack_pack, unpack_nil, Nat.reducePow, Nat.reduceMod, fit5, fit6, bit_mod]
  simp [noLong, need]

theorem vnshr (cv : Bool) (mk : Bool) (g : GReg) (a : Fld6) (d : Fld6) : Statement (.vnshr cv mk g a d) := fun _ rest => by
  refine decode_encode32 rfl rest rfl ?_
  rw [decodeLow_1D (pack_head _ _ _).2]
  simp only [decodeMaj1D, layVX, unpack_pack, unpack_nil, Nat.reducePow, Nat.reduceMod, fit5, fit6, bit_mod]
  simp [noLong, need]

theorem vclip (cv : Bool) (mk : Bool) (g : GReg) (a : Fld6) (d : Fld6) : Statement (.vclip cv mk g a d) := fun _ rest => by
  refine decode_encode32 rfl rest rfl ?_
  rw [decodeLow_1D (pack_head _ _ _).2]
  simp only [decodeMaj1D, layVX, unpack_pack, unpack_nil, Nat.reducePow, Nat.reduceMod, fit5, fit6, bit_mod]
  simp [noLong, need]

theorem vredSum (cv : Bool) (mk : Bool) (a : Fld6) (d : Fld6) : Statement (.vredSum cv mk a d) := fun _ rest => by
  refine decode_encode32 rfl rest rfl ?_
  rw [decodeLow_1E (pack_head _ _ _).2]
  simp only [decodeMaj1E, layVV, unpack_pack, unpack_nil, Nat.reducePow, Nat.reduceMod, fit6, bit_mod]
  simp [noLong, need]

theorem vredMax (cv : Bool) (mk : Bool) (a : Fld6) (d : Fld6) : Statement (.vredMax cv mk a d) := fun _ rest => by
  refine decode_encode32 rfl rest rfl ?_
  rw [decodeLow_1E (pack_head _ _ _).2]
  simp only [decodeMaj1E, layVV, unpack_pack, unpack_nil, Nat.reducePow, Nat.reduceMod, fit6, bit_mod]
  simp [noLong, need]

theorem vredMin (cv : Bool) (mk : Bool) (a : Fld6) (d : Fld6) : Statement (.vredMin cv mk a d) := fun _ rest => by
  refine decode_encode32 rfl rest rfl ?_
  rw [decodeLow_1E (pack_head _ _ _).2]
  simp only [decodeMaj1E, layVV, unpack_pack, unpack_nil, Nat.reducePow, Nat.reduceMod, fit6, bit_mod]
  simp [noLong, need]

theorem vredAnd (cv : Bool) (mk : Bool) (a : Fld6) (d : Fld6) : Statement (.vredAnd cv mk a d) := fun _ rest => by
  refine decode_encode32 rfl rest rfl ?_
  rw [decodeLow_1E (pack_head _ _ _).2]
  simp only [decodeMaj1E, layVV, unpack_pack, unpack_nil, Nat.reducePow, Nat.reduceMod, fit6, bit_mod]
  simp [noLong, need]

theorem vredOr (cv : Bool) (mk : Bool) (a : Fld6) (d : Fld6) : Statement (.vredOr cv mk a d) := fun _ rest => by
  refine decode_encode32 rfl rest rfl ?_
  rw [decodeLow_1E (pack_head _ _ _).2]
  simp only [decodeMaj1E, layVV, unpack_pack, unpack_nil, Nat.reducePow, Nat.reduceMod, fit6, bit_mod]
  simp [noLong, need]

theorem vredoSum (cv : Bool) (mk : Bool) (b : Fld6) (a : Fld6) (d : Fld6) : Statement (.vredoSum cv mk b a d) := fun _ rest => by
  refine decode_encode32 rfl rest rfl ?_
  rw [decodeLow_1E (pack_head _ _ _).2]
  simp only [decodeMaj1E, layVV, unpack_pack, unpack_nil, Nat.reducePow, Nat.reduceMod, fit6, bit_mod]
  simp [noLong, need]

theorem vscanAdd (cv : Bool) (mk : Bool) (a : Fld6) (d : Fld6) : Statement (.vscanAdd cv mk a d) := fun _ rest => by
  refine decode_encode32 rfl rest rfl ?_
  rw [decodeLow_1E (pack_head _ _ _).2]
  simp only [decodeMaj1E, layVV, unpack_pack, unpack_nil, Nat.reducePow, Nat.reduceMod, fit6, bit_mod]
  simp [noLong, need]

theorem vscanMax (cv : Bool) (mk : Bool) (a : Fld6) (d : Fld6) : Statement (.vscanMax cv mk a d) := fun _ rest => by
  refine decode_encode32 rfl rest rfl ?_
  rw [decodeLow_1E (pack_head _ _ _).2]
  simp only [decodeMaj1E, layVV, unpack_pack, unpack_nil, Nat.reducePow, Nat.reduceMod, fit6, bit_mod]
  simp [noLong, need]

theorem vscanMin (cv : Bool) (mk : Bool) (a : Fld6) (d : Fld6) : Statement (.vscanMin cv mk a d) := fun _ rest => by
  refine decode_encode32 rfl rest rfl ?_
  rw [decodeLow_1E (pack_head _ _ _).2]
  simp only [decodeMaj1E, layVV, unpack_pack, unpack_nil, Nat.reducePow, Nat.reduceMod, fit6, bit_mod]
  simp [noLong, need]

theorem vrgather (cv : Bool) (mk : Bool) (b : Fld6) (a : Fld6) (d : Fld6) : Statement (.vrgather cv mk b a d) := fun _ rest => by
  refine decode_encode32 rfl rest rfl ?_
  rw [decodeLow_1E (pack_head _ _ _).2]
  simp only [decodeMaj1E, layVV, unpack_pack, unpack_nil, Nat.reducePow, Nat.reduceMod, fit6, bit_mod]
  simp [noLong, need]

theorem vcompress (cv : Bool) (b : Fld6) (a : Fld6) (d : Fld6) : Statement (.vcompress cv b a d) := fun _ rest => by
  refine decode_encode32 rfl rest rfl ?_
  rw [decodeLow_1E (pack_head _ _ _).2]
  simp only [decodeMaj1E, layVV, unpack_pack, unpack_nil, Nat.reducePow, Nat.reduceMod, fit6, bit_mod]
  simp [noLong, need]

theorem vexpand (cv : Bool) (b : Fld6) (a : Fld6) (d : Fld6) : Statement (.vexpand cv b a d) := fun _ rest => by
  refine decode_encode32 rfl rest rfl ?_
  rw [decodeLow_1E (pack_head _ _ _).2]
  simp only [decodeMaj1E, layVV, unpack_pack, unpack_nil, Nat.reducePow, Nat.reduceMod, fit6, bit_mod]
  simp [noLong, need]

theorem vmergeM (cv : Bool) (b : Fld6) (a : Fld6) (d : Fld6) : Statement (.vmergeM cv b a d) := fun _ rest => by
  refine decode_encode32 rfl rest rfl ?_
  rw [decodeLow_1E (pack_head _ _ _).2]
  simp only [decodeMaj1E, layVV, unpack_pack, unpack_nil, Nat.reducePow, Nat.reduceMod, fit6, bit_mod]
  simp [noLong, need]

theorem vtrans8 (cv : Bool) (d : Fld6) : Statement (.vtrans8 cv d) := fun _ rest => by
  refine decode_encode32 rfl rest rfl ?_
  rw [decodeLow_1E (pack_head _ _ _).2]
  simp only [decodeMaj1E, layVV, unpack_pack, unpack_nil, Nat.reducePow, Nat.reduceMod, fit6, bit_mod]
  simp [noLong, need]

theorem vid (cv : Bool) (mk : Bool) (d : Fld6) : Statement (.vid cv mk d) := fun _ rest => by
  refine decode_encode32 rfl rest rfl ?_
  rw [decodeLow_1F (pack_head _ _ _).2]
  simp only [decodeMaj1F, layVX, unpack_pack, unpack_nil, Nat.reducePow, Nat.reduceMod, fit6, bit_mod]
  simp [noLong, need]

theorem viota (cv : Bool) (mk : Bool) (a : Fld6) (d : Fld6) : Statement (.viota cv mk a d) := fun _ rest => by
  refine decode_encode32 rfl rest rfl ?_
  rw [decodeLow_1F (pack_head _ _ _).2]
  simp only [decodeMaj1F, layVX, unpack_pack, unpack_nil, Nat.reducePow, Nat.reduceMod, fit6, bit_mod]
  simp [noLong, need]

theorem vslideup (cv : Bool) (mk : Bool) (g : GReg) (a : Fld6) (d : Fld6) : Statement (.vslideup cv mk g a d) := fun _ rest => by
  refine decode_encode32 rfl rest rfl ?_
  rw [decodeLow_1F (pack_head _ _ _).2]
  simp only [decodeMaj1F, layVX, unpack_pack, unpack_nil, Nat.reducePow, Nat.reduceMod, fit5, fit6, bit_mod]
  simp [noLong, need]

theorem vslidedn (cv : Bool) (mk : Bool) (g : GReg) (a : Fld6) (d : Fld6) : Statement (.vslidedn cv mk g a d) := fun _ rest => by
  refine decode_encode32 rfl rest rfl ?_
  rw [decodeLow_1F (pack_head _ _ _).2]
  simp only [decodeMaj1F, layVX, unpack_pack, unpack_nil, Nat.reducePow, Nat.reduceMod, fit5, fit6, bit_mod]
  simp [noLong, need]

theorem vext (cv : Bool) (g : GReg) (a : Fld6) (d : GReg) : Statement (.vext cv g a d) := fun _ rest => by
  have l_d := d.isLt
  have e_d : d.toNat % 64 = d.toNat := Nat.mod_eq_of_lt (by omega)
  refine decode_encode32 rfl rest rfl ?_
  rw [decodeLow_1F (pack_head _ _ _).2]
  simp only [decodeMaj1F, layVX, unpack_pack, unpack_nil, Nat.reducePow, Nat.reduceMod, fit5, fit6, bit_mod, e_d]
  simp [noLong, need, e_d, l_d]

theorem vins (cv : Bool) (g : GReg) (a : GReg) (d : Fld6) : Statement (.vins cv g a d) := fun _ rest => by
  have l_a := a.isLt
  have e_a : a.toNat % 64 = a.toNat := Nat.mod_eq_of_lt (by omega)
  refine decode_encode32 rfl rest rfl ?_
  rw [decodeLow_1F (pack_head _ _ _).2]
  simp only [decodeMaj1F, layVX, unpack_pack, unpack_nil, Nat.reducePow, Nat.reduceMod, fit5, fit6, bit_mod, e_a]
  simp [noLong, need, e_a, l_a]

theorem mpopc (cv : Bool) (mk : Bool) (a : Fld6) (d : GReg) : Statement (.mpopc cv mk a d) := fun _ rest => by
  have l_d := d.isLt
  have e_d : d.toNat % 64 = d.toNat := Nat.mod_eq_of_lt (by omega)
  refine decode_encode32 rfl rest rfl ?_
  rw [decodeLow_1F (pack_head _ _ _).2]
  simp only [decodeMaj1F, layVX, unpack_pack, unpack_nil, Nat.reducePow, Nat.reduceMod, fit6, bit_mod, e_d]
  simp [noLong, need, e_d, l_d]

theorem mfirst (cv : Bool) (mk : Bool) (a : Fld6) (d : GReg) : Statement (.mfirst cv mk a d) := fun _ rest => by
  have l_d := d.isLt
  have e_d : d.toNat % 64 = d.toNat := Nat.mod_eq_of_lt (by omega)
  refine decode_encode32 rfl rest rfl ?_
  rw [decodeLow_1F (pack_head _ _ _).2]
  simp only [decodeMaj1F, layVX, unpack_pack, unpack_nil, Nat.reducePow, Nat.reduceMod, fit6, bit_mod, e_d]
  simp [noLong, need, e_d, l_d]

theorem vld (cv : Bool) (mk : Bool) (ord : Bool) (fm : Bool) (a8 : Bool) (g : GReg) (d : Fld6) : Statement (.vld cv mk ord fm a8 g d) := fun _ rest => by
  refine decode_encode32 rfl rest rfl ?_
  rw [decodeLow_20 (pack_head _ _ _).2]
  simp only [decodeMaj20, layVM, unpack_pack, unpack_nil, Nat.reducePow, Nat.reduceMod, fit5, fit6, bit_mod]
  simp [noLong, need]

theorem vldLong (cv : Bool) (mk : Bool) (ord : Bool) (fm : Bool) (a8 : Bool) (g : GReg) (d : Fld6) (imm32 : W32) : Statement (.vldLong cv mk ord fm a8 g d imm32) := fun _ rest => by
  refine decode_encode64 rfl rest rfl (imm32.isLt) ?_
  rw [decodeLow_20 (pack_head _ _ _).2]
  simp only [decodeMaj20, layVM, unpack_pack, unpack_nil, Nat.reducePow, Nat.reduceMod, fit5, fit6, bit_mod]
  simp [noLong, need]

theorem vlds (cv : Bool) (mk : Bool) (ord : Bool) (fm : Bool) (a8 : Bool) (g : GReg) (st : GReg) (d : Fld6) : Statement (.vlds cv mk ord fm a8 g st d) := fun _ rest => by
  have l_st := st.isLt
  have e_st : st.toNat % 64 = st.toNat := Nat.mod_eq_of_lt (by omega)
  refine decode_encode32 rfl rest rfl ?_
  rw [decodeLow_20 (pack_head _ _ _).2]
  simp only [decodeMaj20, layVM, unpack_pack, unpack_nil, Nat.reducePow, Nat.reduceMod, fit5, fit6, bit_mod, e_st]
  simp [noLong, need, e_st, l_st]

theorem vldsLong (cv : Bool) (mk : Bool) (ord : Bool) (fm : Bool) (a8 : Bool) (g : GReg) (st : GReg) (d : Fld6) (imm32 : W32) : Statement (.vldsLong cv mk ord fm a8 g st d imm32) := fun _ rest => by
  have l_st := st.isLt
  have e_st : st.toNat % 64 = st.toNat := Nat.mod_eq_of_lt (by omega)
  refine decode_encode64 rfl rest rfl (imm32.isLt) ?_
  rw [decodeLow_20 (pack_head _ _ _).2]
  simp only [decodeMaj20, layVM, unpack_pack, unpack_nil, Nat.reducePow, Nat.reduceMod, fit5, fit6, bit_mod, e_st]
  simp [noLong, need, e_st, l_st]

theorem vldx (cv : Bool) (mk : Bool) (ord : Bool) (fm : Bool) (a8 : Bool) (g : GReg) (a : Fld6) (d : Fld6) : Statement (.vldx cv mk ord fm a8 g a d) := fun _ rest => by
  refine decode_encode32 rfl rest rfl ?_
  rw [decodeLow_20 (pack_head _ _ _).2]
  simp only [decodeMaj20, layVM, unpack_pack, unpack_nil, Nat.reducePow, Nat.reduceMod, fit5, fit6, bit_mod]
  simp [noLong, need]

theorem vldxLong (cv : Bool) (mk : Bool) (ord : Bool) (fm : Bool) (a8 : Bool) (g : GReg) (a : Fld6) (d : Fld6) (imm32 : W32) : Statement (.vldxLong cv mk ord fm a8 g a d imm32) := fun _ rest => by
  refine decode_encode64 rfl rest rfl (imm32.isLt) ?_
  rw [decodeLow_20 (pack_head _ _ _).2]
  simp only [decodeMaj20, layVM, unpack_pack, unpack_nil, Nat.reducePow, Nat.reduceMod, fit5, fit6, bit_mod]
  simp [noLong, need]

theorem vldseg (cv : Bool) (mk : Bool) (ord : Bool) (fm : Bool) (a8 : Bool) (g : GReg) (nf : BitVec 3) (d : Fld6) : Statement (.vldseg cv mk ord fm a8 g nf d) := fun _ rest => by
  have l_nf := nf.isLt
  have e_nf : nf.toNat % 64 = nf.toNat := Nat.mod_eq_of_lt (by omega)
  refine decode_encode32 rfl rest rfl ?_
  rw [decodeLow_20 (pack_head _ _ _).2]
  simp only [decodeMaj20, layVM, unpack_pack, unpack_nil, Nat.reducePow, Nat.reduceMod, fit5, fit6, bit_mod, e_nf]
  simp [noLong, need, e_nf, l_nf]

theorem vldsegLong (cv : Bool) (mk : Bool) (ord : Bool) (fm : Bool) (a8 : Bool) (g : GReg) (nf : BitVec 3) (d : Fld6) (imm32 : W32) : Statement (.vldsegLong cv mk ord fm a8 g nf d imm32) := fun _ rest => by
  have l_nf := nf.isLt
  have e_nf : nf.toNat % 64 = nf.toNat := Nat.mod_eq_of_lt (by omega)
  refine decode_encode64 rfl rest rfl (imm32.isLt) ?_
  rw [decodeLow_20 (pack_head _ _ _).2]
  simp only [decodeMaj20, layVM, unpack_pack, unpack_nil, Nat.reducePow, Nat.reduceMod, fit5, fit6, bit_mod, e_nf]
  simp [noLong, need, e_nf, l_nf]

theorem vst (cv : Bool) (mk : Bool) (ord : Bool) (fm : Bool) (a8 : Bool) (g : GReg) (d : Fld6) : Statement (.vst cv mk ord fm a8 g d) := fun _ rest => by
  refine decode_encode32 rfl rest rfl ?_
  rw [decodeLow_21 (pack_head _ _ _).2]
  simp only [decodeMaj21, layVM, unpack_pack, unpack_nil, Nat.reducePow, Nat.reduceMod, fit5, fit6, bit_mod]
  simp [noLong, need]

theorem vstLong (cv : Bool) (mk : Bool) (ord : Bool) (fm : Bool) (a8 : Bool) (g : GReg) (d : Fld6) (imm32 : W32) : Statement (.vstLong cv mk ord fm a8 g d imm32) := fun _ rest => by
  refine decode_encode64 rfl rest rfl (imm32.isLt) ?_
  rw [decodeLow_21 (pack_head _ _ _).2]
  simp only [decodeMaj21, layVM, unpack_pack, unpack_nil, Nat.reducePow, Nat.reduceMod, fit5, fit6, bit_mod]
  simp [noLong, need]

theorem vsts (cv : Bool) (mk : Bool) (ord : Bool) (fm : Bool) (a8 : Bool) (g : GReg) (st : GReg) (d : Fld6) : Statement (.vsts cv mk ord fm a8 g st d) := fun _ rest => by
  have l_st := st.isLt
  have e_st : st.toNat % 64 = st.toNat := Nat.mod_eq_of_lt (by omega)
  refine decode_encode32 rfl rest rfl ?_
  rw [decodeLow_21 (pack_head _ _ _).2]
  simp only [decodeMaj21, layVM, unpack_pack, unpack_nil, Nat.reducePow, Nat.reduceMod, fit5, fit6, bit_mod, e_st]
  simp [noLong, need, e_st, l_st]

theorem vstsLong (cv : Bool) (mk : Bool) (ord : Bool) (fm : Bool) (a8 : Bool) (g : GReg) (st : GReg) (d : Fld6) (imm32 : W32) : Statement (.vstsLong cv mk ord fm a8 g st d imm32) := fun _ rest => by
  have l_st := st.isLt
  have e_st : st.toNat % 64 = st.toNat := Nat.mod_eq_of_lt (by omega)
  refine decode_encode64 rfl rest rfl (imm32.isLt) ?_
  rw [decodeLow_21 (pack_head _ _ _).2]
  simp only [decodeMaj21, layVM, unpack_pack, unpack_nil, Nat.reducePow, Nat.reduceMod, fit5, fit6, bit_mod, e_st]
  simp [noLong, need, e_st, l_st]

theorem vstx (cv : Bool) (mk : Bool) (ord : Bool) (fm : Bool) (a8 : Bool) (g : GReg) (a : Fld6) (d : Fld6) : Statement (.vstx cv mk ord fm a8 g a d) := fun _ rest => by
  refine decode_encode32 rfl rest rfl ?_
  rw [decodeLow_21 (pack_head _ _ _).2]
  simp only [decodeMaj21, layVM, unpack_pack, unpack_nil, Nat.reducePow, Nat.reduceMod, fit5, fit6, bit_mod]
  simp [noLong, need]

theorem vstxLong (cv : Bool) (mk : Bool) (ord : Bool) (fm : Bool) (a8 : Bool) (g : GReg) (a : Fld6) (d : Fld6) (imm32 : W32) : Statement (.vstxLong cv mk ord fm a8 g a d imm32) := fun _ rest => by
  refine decode_encode64 rfl rest rfl (imm32.isLt) ?_
  rw [decodeLow_21 (pack_head _ _ _).2]
  simp only [decodeMaj21, layVM, unpack_pack, unpack_nil, Nat.reducePow, Nat.reduceMod, fit5, fit6, bit_mod]
  simp [noLong, need]

theorem vstseg (cv : Bool) (mk : Bool) (ord : Bool) (fm : Bool) (a8 : Bool) (g : GReg) (nf : BitVec 3) (d : Fld6) : Statement (.vstseg cv mk ord fm a8 g nf d) := fun _ rest => by
  have l_nf := nf.isLt
  have e_nf : nf.toNat % 64 = nf.toNat := Nat.mod_eq_of_lt (by omega)
  refine decode_encode32 rfl rest rfl ?_
  rw [decodeLow_21 (pack_head _ _ _).2]
  simp only [decodeMaj21, layVM, unpack_pack, unpack_nil, Nat.reducePow, Nat.reduceMod, fit5, fit6, bit_mod, e_nf]
  simp [noLong, need, e_nf, l_nf]

theorem vstsegLong (cv : Bool) (mk : Bool) (ord : Bool) (fm : Bool) (a8 : Bool) (g : GReg) (nf : BitVec 3) (d : Fld6) (imm32 : W32) : Statement (.vstsegLong cv mk ord fm a8 g nf d imm32) := fun _ rest => by
  have l_nf := nf.isLt
  have e_nf : nf.toNat % 64 = nf.toNat := Nat.mod_eq_of_lt (by omega)
  refine decode_encode64 rfl rest rfl (imm32.isLt) ?_
  rw [decodeLow_21 (pack_head _ _ _).2]
  simp only [decodeMaj21, layVM, unpack_pack, unpack_nil, Nat.reducePow, Nat.reduceMod, fit5, fit6, bit_mod, e_nf]
  simp [noLong, need, e_nf, l_nf]

theorem vldc (g : GReg) (a : GReg) (d : Fld6) : Statement (.vldc g a d) := fun _ rest => by
  have l_a := a.isLt
  have e_a : a.toNat % 64 = a.toNat := Nat.mod_eq_of_lt (by omega)
  refine decode_encode32 rfl rest rfl ?_
  rw [decodeLow_22 (pack_head _ _ _).2]
  simp only [decodeMaj22, layVX, unpack_pack, unpack_nil, Nat.reducePow, Nat.reduceMod, fit5, fit6, e_a]
  simp [noLong, need, e_a, l_a]

theorem vamoAdd (cv : Bool) (mk : Bool) (ord : Bool) (g : GReg) (a : Fld6) (d : Fld6) : Statement (.vamoAdd cv mk ord g a d) := fun _ rest => by
  cases ord
  · refine decode_encode32 rfl rest rfl ?_
    rw [decodeLow_22 (pack_head _ _ _).2]
    simp only [decodeMaj22, layVX, unpack_pack, unpack_nil, Nat.reducePow, bit_true, bit_false, Nat.reduceMul, Nat.reduceAdd, Nat.reduceMod, fit5, fit6, bit_mod]
    simp [noLong, need]
  · refine decode_encode32 rfl rest rfl ?_
    rw [decodeLow_22 (pack_head _ _ _).2]
    simp only [decodeMaj22, layVX, unpack_pack, unpack_nil, Nat.reducePow, bit_true, bit_false, Nat.reduceMul, Nat.reduceAdd, Nat.reduceMod, fit5, fit6, bit_mod]
    simp [noLong, need]

theorem vamoAddLong (cv : Bool) (mk : Bool) (ord : Bool) (g : GReg) (a : Fld6) (d : Fld6) (imm32 : W32) : Statement (.vamoAddLong cv mk ord g a d imm32) := fun _ rest => by
  cases ord
  · refine decode_encode64 rfl rest rfl (imm32.isLt) ?_
    rw [decodeLow_22 (pack_head _ _ _).2]
    simp only [decodeMaj22, layVX, unpack_pack, unpack_nil, Nat.reducePow, bit_true, bit_false, Nat.reduceMul, Nat.reduceAdd, Nat.reduceMod, fit5, fit6, bit_mod]
    simp [noLong, need]
  · refine decode_encode64 rfl rest rfl (imm32.isLt) ?_
    rw [decodeLow_22 (pack_head _ _ _).2]
    simp only [decodeMaj22, layVX, unpack_pack, unpack_nil, Nat.reducePow, bit_true, bit_false, Nat.reduceMul, Nat.reduceAdd, Nat.reduceMod, fit5, fit6, bit_mod]
    simp [noLong, need]

theorem vamoMax (cv : Bool) (mk : Bool) (ord : Bool) (g : GReg) (a : Fld6) (d : Fld6) : Statement (.vamoMax cv mk ord g a d) := fun _ rest => by
  cases ord
  · refine decode_encode32 rfl rest rfl ?_
    rw [decodeLow_22 (pack_head _ _ _).2]
    simp only [decodeMaj22, layVX, unpack_pack, unpack_nil, Nat.reducePow, bit_true, bit_false, Nat.reduceMul, Nat.reduceAdd, Nat.reduceMod, fit5, fit6, bit_mod]
    simp [noLong, need]
  · refine decode_encode32 rfl rest rfl ?_
    rw [decodeLow_22 (pack_head _ _ _).2]
    simp only [decodeMaj22, layVX, unpack_pack, unpack_nil, Nat.reducePow, bit_true, bit_false, Nat.reduceMul, Nat.reduceAdd, Nat.reduceMod, fit5, fit6, bit_mod]
    simp [noLong, need]

theorem vamoMaxLong (cv : Bool) (mk : Bool) (ord : Bool) (g : GReg) (a : Fld6) (d : Fld6) (imm32 : W32) : Statement (.vamoMaxLong cv mk ord g a d imm32) := fun _ rest => by
  cases ord
  · refine decode_encode64 rfl rest rfl (imm32.isLt) ?_
    rw [decodeLow_22 (pack_head _ _ _).2]
    simp only [decodeMaj22, layVX, unpack_pack, unpack_nil, Nat.reducePow, bit_true, bit_false, Nat.reduceMul, Nat.reduceAdd, Nat.reduceMod, fit5, fit6, bit_mod]
    simp [noLong, need]
  · refine decode_encode64 rfl rest rfl (imm32.isLt) ?_
    rw [decodeLow_22 (pack_head _ _ _).2]
    simp only [decodeMaj22, layVX, unpack_pack, unpack_nil, Nat.reducePow, bit_true, bit_false, Nat.reduceMul, Nat.reduceAdd, Nat.reduceMod, fit5, fit6, bit_mod]
    simp [noLong, need]

theorem vamoMin (cv : Bool) (mk : Bool) (ord : Bool) (g : GReg) (a : Fld6) (d : Fld6) : Statement (.vamoMin cv mk ord g a d) := fun _ rest => by
  cases ord
  · refine decode_encode32 rfl rest rfl ?_
    rw [decodeLow_22 (pack_head _ _ _).2]
    simp only [decodeMaj22, layVX, unpack_pack, unpack_nil, Nat.reducePow, bit_true, bit_false, Nat.reduceMul, Nat.reduceAdd, Nat.reduceMod, fit5, fit6, bit_mod]
    simp [noLong, need]
  · refine decode_encode32 rfl rest rfl ?_
    rw [decodeLow_22 (pack_head _ _ _).2]
    simp only [decodeMaj22, layVX, unpack_pack, unpack_nil, Nat.reducePow, bit_true, bit_false, Nat.reduceMul, Nat.reduceAdd, Nat.reduceMod, fit5, fit6, bit_mod]
    simp [noLong, need]

theorem vamoMinLong (cv : Bool) (mk : Bool) (ord : Bool) (g : GReg) (a : Fld6) (d : Fld6) (imm32 : W32) : Statement (.vamoMinLong cv mk ord g a d imm32) := fun _ rest => by
  cases ord
  · refine decode_encode64 rfl rest rfl (imm32.isLt) ?_
    rw [decodeLow_22 (pack_head _ _ _).2]
    simp only [decodeMaj22, layVX, unpack_pack, unpack_nil, Nat.reducePow, bit_true, bit_false, Nat.reduceMul, Nat.reduceAdd, Nat.reduceMod, fit5, fit6, bit_mod]
    simp [noLong, need]
  · refine decode_encode64 rfl rest rfl (imm32.isLt) ?_
    rw [decodeLow_22 (pack_head _ _ _).2]
    simp only [decodeMaj22, layVX, unpack_pack, unpack_nil, Nat.reducePow, bit_true, bit_false, Nat.reduceMul, Nat.reduceAdd, Nat.reduceMod, fit5, fit6, bit_mod]
    simp [noLong, need]

theorem vamoSwap (cv : Bool) (mk : Bool) (ord : Bool) (g : GReg) (a : Fld6) (d : Fld6) : Statement (.vamoSwap cv mk ord g a d) := fun _ rest => by
  cases ord
  · refine decode_encode32 rfl rest rfl ?_
    rw [decodeLow_22 (pack_head _ _ _).2]
    simp only [decodeMaj22, layVX, unpack_pack, unpack_nil, Nat.reducePow, bit_true, bit_false, Nat.reduceMul, Nat.reduceAdd, Nat.reduceMod, fit5, fit6, bit_mod]
    simp [noLong, need]
  · refine decode_encode32 rfl rest rfl ?_
    rw [decodeLow_22 (pack_head _ _ _).2]
    simp only [decodeMaj22, layVX, unpack_pack, unpack_nil, Nat.reducePow, bit_true, bit_false, Nat.reduceMul, Nat.reduceAdd, Nat.reduceMod, fit5, fit6, bit_mod]
    simp [noLong, need]

theorem vamoSwapLong (cv : Bool) (mk : Bool) (ord : Bool) (g : GReg) (a : Fld6) (d : Fld6) (imm32 : W32) : Statement (.vamoSwapLong cv mk ord g a d imm32) := fun _ rest => by
  cases ord
  · refine decode_encode64 rfl rest rfl (imm32.isLt) ?_
    rw [decodeLow_22 (pack_head _ _ _).2]
    simp only [decodeMaj22, layVX, unpack_pack, unpack_nil, Nat.reducePow, bit_true, bit_false, Nat.reduceMul, Nat.reduceAdd, Nat.reduceMod, fit5, fit6, bit_mod]
    simp [noLong, need]
  · refine decode_encode64 rfl rest rfl (imm32.isLt) ?_
    rw [decodeLow_22 (pack_head _ _ _).2]
    simp only [decodeMaj22, layVX, unpack_pack, unpack_nil, Nat.reducePow, bit_true, bit_false, Nat.reduceMul, Nat.reduceAdd, Nat.reduceMod, fit5, fit6, bit_mod]
    simp [noLong, need]

theorem vmcast (cv : Bool) (mk : Bool) (g : GReg) (a : Fld6) (d : Fld6) : Statement (.vmcast cv mk g a d) := fun _ rest => by
  refine decode_encode32 rfl rest rfl ?_
  rw [decodeLow_22 (pack_head _ _ _).2]
  simp only [decodeMaj22, layVX, unpack_pack, unpack_nil, Nat.reducePow, Nat.reduceMod, fit5, fit6, bit_mod]
  simp [noLong, need]

theorem vsave (g : GReg) : Statement (.vsave g) := fun _ rest => by
  refine decode_encode32 rfl rest rfl ?_
  rw [decodeLow_22 (pack_head _ _ _).2]
  simp only [decodeMaj22, layVX, unpack_pack, unpack_nil, Nat.reducePow, Nat.reduceMod, fit5]
  simp [noLong, need]

theorem vrest (g : GReg) : Statement (.vrest g) := fun _ rest => by
  refine decode_encode32 rfl rest rfl ?_
  rw [decodeLow_22 (pack_head _ _ _).2]
  simp only [decodeMaj22, layVX, unpack_pack, unpack_nil, Nat.reducePow, Nat.reduceMod, fit5]
  simp [noLong, need]

theorem vpop (cv : Bool) (mk : Bool) (a : Fld6) (d : Fld6) : Statement (.vpop cv mk a d) := fun _ rest => by
  refine decode_encode32 rfl rest rfl ?_
  rw [decodeLow_23 (pack_head _ _ _).2]
  simp only [decodeMaj23, layVX, unpack_pack, unpack_nil, Nat.reducePow, Nat.reduceMod, fit6, bit_mod]
  simp [noLong, need]

theorem vpush (cv : Bool) (mk : Bool) (a : Fld6) (d : Fld6) : Statement (.vpush cv mk a d) := fun _ rest => by
  refine decode_encode32 rfl rest rfl ?_
  rw [decodeLow_23 (pack_head _ _ _).2]
  simp only [decodeMaj23, layVX, unpack_pack, unpack_nil, Nat.reducePow, Nat.reduceMod, fit6, bit_mod]
  simp [noLong, need]

theorem sbind (g : GReg) (d : Fld6) : Statement (.sbind g d) := fun _ rest => by
  refine decode_encode32 rfl rest rfl ?_
  rw [decodeLow_27 (pack_head _ _ _).2]
  simp only [decodeMaj27, layVX, unpack_pack, unpack_nil, Nat.reducePow, Nat.reduceMod, fit5, fit6]
  simp [noLong, need]

theorem sfree (d : Fld6) : Statement (.sfree d) := fun _ rest => by
  refine decode_encode32 rfl rest rfl ?_
  rw [decodeLow_27 (pack_head _ _ _).2]
  simp only [decodeMaj27, layVX, unpack_pack, unpack_nil, Nat.reducePow, Nat.reduceMod, fit6]
  simp [noLong, need]

theorem streamReadAhead (s : BitVec 3) (n : Nat) : Statement (.streamReadAhead s n) := fun h => nomatch h

theorem vcfg (g : GReg) : Statement (.vcfg g) := fun _ rest => by
  refine decode_encode32 rfl rest rfl ?_
  rw [decodeLow_24 (pack_head _ _ _).2]
  simp only [decodeMaj24, layVX, unpack_pack, unpack_nil, Nat.reducePow, Nat.reduceMod, fit5]
  simp [noLong, need]

theorem vtag (t : BitVec 5) (d : Fld6) : Statement (.vtag t d) := fun _ rest => by
  have l_t := t.isLt
  have e_t : t.toNat % 64 = t.toNat := Nat.mod_eq_of_lt (by omega)
  refine decode_encode32 rfl rest rfl ?_
  rw [decodeLow_24 (pack_head _ _ _).2]
  simp only [decodeMaj24, layVX, unpack_pack, unpack_nil, Nat.reducePow, Nat.reduceMod, fit6, e_t]
  simp [noLong, need, e_t, l_t]

theorem vwinV (g : GReg) (d : Fld6) : Statement (.vwinV g d) := fun _ rest => by
  refine decode_encode32 rfl rest rfl ?_
  rw [decodeLow_24 (pack_head _ _ _).2]
  simp only [decodeMaj24, layVX, unpack_pack, unpack_nil, Nat.reducePow, Nat.reduceMod, fit5, fit6]
  simp [noLong, need]

theorem vwinM (g : GReg) (d : Fld6) : Statement (.vwinM g d) := fun _ rest => by
  refine decode_encode32 rfl rest rfl ?_
  rw [decodeLow_24 (pack_head _ _ _).2]
  simp only [decodeMaj24, layVX, unpack_pack, unpack_nil, Nat.reducePow, Nat.reduceMod, fit5, fit6]
  simp [noLong, need]

theorem vsetl (g : GReg) (d : GReg) : Statement (.vsetl g d) := fun _ rest => by
  have l_d := d.isLt
  have e_d : d.toNat % 64 = d.toNat := Nat.mod_eq_of_lt (by omega)
  refine decode_encode32 rfl rest rfl ?_
  rw [decodeLow_24 (pack_head _ _ _).2]
  simp only [decodeMaj24, layVX, unpack_pack, unpack_nil, Nat.reducePow, Nat.reduceMod, fit5, e_d]
  simp [noLong, need, e_d, l_d]

theorem vloop (g : GReg) : Statement (.vloop g) := fun _ rest => by
  refine decode_encode32 rfl rest rfl ?_
  rw [decodeLow_24 (pack_head _ _ _).2]
  simp only [decodeMaj24, layVX, unpack_pack, unpack_nil, Nat.reducePow, Nat.reduceMod, fit5]
  simp [noLong, need]

theorem vnext (off : BitVec 17) : Statement (.vnext off) := fun _ rest => by
  refine decode_encode32 rfl rest rfl ?_
  rw [decodeLow_24 (pack_head _ _ _).2]
  rw [decodeMaj24_vnext (by simp only [pack] <;> omega)]
  simp only [decodeVnext, layVN, unpack_pack, unpack_nil, Nat.reducePow, Nat.reduceMod, fit17]
  simp [noLong, need]

theorem vflat (g : GReg) (d : GReg) : Statement (.vflat g d) := fun h rest => by
  replace h : (decide (d.toNat % 2 = 0)) = true := h
  simp only [Bool.and_eq_true, Bool.or_eq_true, decide_eq_true_eq, Bool.not_eq_true'] at h
  have l_d := d.isLt
  have e_d : d.toNat % 64 = d.toNat := Nat.mod_eq_of_lt (by omega)
  refine decode_encode32 rfl rest rfl ?_
  rw [decodeLow_24 (pack_head _ _ _).2]
  simp only [decodeMaj24, layVX, unpack_pack, unpack_nil, Nat.reducePow, Nat.reduceMod, fit5, e_d]
  simp [noLong, need, h, e_d, l_d]

theorem vrgn (a : Fld6) (n : BitVec 5) : Statement (.vrgn a n) := fun _ rest => by
  have l_n := n.isLt
  have e_n : n.toNat % 64 = n.toNat := Nat.mod_eq_of_lt (by omega)
  refine decode_encode32 rfl rest rfl ?_
  rw [decodeLow_24 (pack_head _ _ _).2]
  simp only [decodeMaj24, layVX, unpack_pack, unpack_nil, Nat.reducePow, Nat.reduceMod, fit6, e_n]
  simp [noLong, need, e_n, l_n]

theorem winset (g : GReg) (d : Fld6) : Statement (.winset g d) := fun _ rest => by
  refine decode_encode32 rfl rest rfl ?_
  rw [decodeLow_25 (pack_head _ _ _).2]
  simp only [decodeMaj25, layVX, unpack_pack, unpack_nil, Nat.reducePow, Nat.reduceMod, fit5, fit6]
  simp [noLong, need]

theorem winclr (d : Fld6) : Statement (.winclr d) := fun _ rest => by
  refine decode_encode32 rfl rest rfl ?_
  rw [decodeLow_25 (pack_head _ _ _).2]
  simp only [decodeMaj25, layVX, unpack_pack, unpack_nil, Nat.reducePow, Nat.reduceMod, fit6]
  simp [noLong, need]

theorem winclrD (d : Fld6) : Statement (.winclrD d) := fun _ rest => by
  refine decode_encode32 rfl rest rfl ?_
  rw [decodeLow_25 (pack_head _ _ _).2]
  simp only [decodeMaj25, layVX, unpack_pack, unpack_nil, Nat.reducePow, Nat.reduceMod, fit6]
  simp [noLong, need]

theorem winwait (d : Fld6) : Statement (.winwait d) := fun _ rest => by
  refine decode_encode32 rfl rest rfl ?_
  rw [decodeLow_25 (pack_head _ _ _).2]
  simp only [decodeMaj25, layVX, unpack_pack, unpack_nil, Nat.reducePow, Nat.reduceMod, fit6]
  simp [noLong, need]

theorem winflush (d : Fld6) : Statement (.winflush d) := fun _ rest => by
  refine decode_encode32 rfl rest rfl ?_
  rw [decodeLow_25 (pack_head _ _ _).2]
  simp only [decodeMaj25, layVX, unpack_pack, unpack_nil, Nat.reducePow, Nat.reduceMod, fit6]
  simp [noLong, need]

theorem lcset (g : GReg) (imm : BitVec 6) (d : Fld6) : Statement (.lcset g imm d) := fun _ rest => by
  refine decode_encode32 rfl rest rfl ?_
  rw [decodeLow_25 (pack_head _ _ _).2]
  simp only [decodeMaj25, layVX, unpack_pack, unpack_nil, Nat.reducePow, Nat.reduceMod, fit5, fit6]
  simp [noLong, need]

theorem lcsetLong (g : GReg) (imm : BitVec 6) (d : Fld6) (imm32 : W32) : Statement (.lcsetLong g imm d imm32) := fun _ rest => by
  refine decode_encode64 rfl rest rfl (imm32.isLt) ?_
  rw [decodeLow_25 (pack_head _ _ _).2]
  simp only [decodeMaj25, layVX, unpack_pack, unpack_nil, Nat.reducePow, Nat.reduceMod, fit5, fit6]
  simp [noLong, need]

theorem lcadv (g : GReg) (imm : BitVec 6) (d : Fld6) : Statement (.lcadv g imm d) := fun _ rest => by
  refine decode_encode32 rfl rest rfl ?_
  rw [decodeLow_25 (pack_head _ _ _).2]
  simp only [decodeMaj25, layVX, unpack_pack, unpack_nil, Nat.reducePow, Nat.reduceMod, fit5, fit6]
  simp [noLong, need]

theorem lcadvLong (g : GReg) (imm : BitVec 6) (d : Fld6) (imm32 : W32) : Statement (.lcadvLong g imm d imm32) := fun _ rest => by
  refine decode_encode64 rfl rest rfl (imm32.isLt) ?_
  rw [decodeLow_25 (pack_head _ _ _).2]
  simp only [decodeMaj25, layVX, unpack_pack, unpack_nil, Nat.reducePow, Nat.reduceMod, fit5, fit6]
  simp [noLong, need]

theorem advance : Statement .advance := fun h => nomatch h

theorem lcrd (a : Fld6) (d : GReg) : Statement (.lcrd a d) := fun _ rest => by
  have l_d := d.isLt
  have e_d : d.toNat % 64 = d.toNat := Nat.mod_eq_of_lt (by omega)
  refine decode_encode32 rfl rest rfl ?_
  rw [decodeLow_25 (pack_head _ _ _).2]
  simp only [decodeMaj25, layVX, unpack_pack, unpack_nil, Nat.reducePow, Nat.reduceMod, fit6, e_d]
  simp [noLong, need, e_d, l_d]

theorem winq (a : Fld6) (d : GReg) : Statement (.winq a d) := fun _ rest => by
  have l_d := d.isLt
  have e_d : d.toNat % 64 = d.toNat := Nat.mod_eq_of_lt (by omega)
  refine decode_encode32 rfl rest rfl ?_
  rw [decodeLow_25 (pack_head _ _ _).2]
  simp only [decodeMaj25, layVX, unpack_pack, unpack_nil, Nat.reducePow, Nat.reduceMod, fit6, e_d]
  simp [noLong, need, e_d, l_d]

theorem vldw (cv : Bool) (mk : Bool) (dim : BitVec 2) (g : GReg) (a : Fld6) (d : Fld6) : Statement (.vldw cv mk dim g a d) := fun _ rest => by
  rcases two_bits dim with rfl | rfl | rfl | rfl
  · refine decode_encode32 rfl rest rfl ?_
    rw [decodeLow_26 (pack_head _ _ _).2]
    simp only [decodeMaj26z, layVX, unpack_pack, unpack_nil, Nat.reducePow, BitVec.reduceToNat, BitVec.ofNat_eq_ofNat, Nat.reduceAdd, Nat.reduceMod, fit5, fit6, bit_mod]
    simp only [BitVec.reduceToNat, BitVec.ofNat_eq_ofNat, Nat.reduceAdd, Nat.reduceMod, Nat.reduceDiv, need, if_pos]
    simp only [decodeMaj26, layVX, unpack_pack, unpack_nil, Nat.reducePow, BitVec.reduceToNat, BitVec.ofNat_eq_ofNat, Nat.reduceAdd, Nat.reduceMod, fit5, fit6, bit_mod]
    simp [noLong, need]
  · refine decode_encode32 rfl rest rfl ?_
    rw [decodeLow_26 (pack_head _ _ _).2]
    simp only [decodeMaj26z, layVX, unpack_pack, unpack_nil, Nat.reducePow, BitVec.reduceToNat, BitVec.ofNat_eq_ofNat, Nat.reduceAdd, Nat.reduceMod, fit5, fit6, bit_mod]
    simp only [BitVec.reduceToNat, BitVec.ofNat_eq_ofNat, Nat.reduceAdd, Nat.reduceMod, Nat.reduceDiv, need, if_pos]
    simp only [decodeMaj26, layVX, unpack_pack, unpack_nil, Nat.reducePow, BitVec.reduceToNat, BitVec.ofNat_eq_ofNat, Nat.reduceAdd, Nat.reduceMod, fit5, fit6, bit_mod]
    simp [noLong, need]
  · refine decode_encode32 rfl rest rfl ?_
    rw [decodeLow_26 (pack_head _ _ _).2]
    simp only [decodeMaj26z, layVX, unpack_pack, unpack_nil, Nat.reducePow, BitVec.reduceToNat, BitVec.ofNat_eq_ofNat, Nat.reduceAdd, Nat.reduceMod, fit5, fit6, bit_mod]
    simp only [BitVec.reduceToNat, BitVec.ofNat_eq_ofNat, Nat.reduceAdd, Nat.reduceMod, Nat.reduceDiv, need, if_pos]
    simp only [decodeMaj26, layVX, unpack_pack, unpack_nil, Nat.reducePow, BitVec.reduceToNat, BitVec.ofNat_eq_ofNat, Nat.reduceAdd, Nat.reduceMod, fit5, fit6, bit_mod]
    simp [noLong, need]
  · refine decode_encode32 rfl rest rfl ?_
    rw [decodeLow_26 (pack_head _ _ _).2]
    simp only [decodeMaj26z, layVX, unpack_pack, unpack_nil, Nat.reducePow, BitVec.reduceToNat, BitVec.ofNat_eq_ofNat, Nat.reduceAdd, Nat.reduceMod, fit5, fit6, bit_mod]
    simp only [BitVec.reduceToNat, BitVec.ofNat_eq_ofNat, Nat.reduceAdd, Nat.reduceMod, Nat.reduceDiv, need, if_pos]
    simp only [decodeMaj26, layVX, unpack_pack, unpack_nil, Nat.reducePow, BitVec.reduceToNat, BitVec.ofNat_eq_ofNat, Nat.reduceAdd, Nat.reduceMod, fit5, fit6, bit_mod]
    simp [noLong, need]

theorem vstw (cv : Bool) (mk : Bool) (dim : BitVec 2) (g : GReg) (a : Fld6) (d : Fld6) : Statement (.vstw cv mk dim g a d) := fun _ rest => by
  rcases two_bits dim with rfl | rfl | rfl | rfl
  · refine decode_encode32 rfl rest rfl ?_
    rw [decodeLow_26 (pack_head _ _ _).2]
    simp only [decodeMaj26z, layVX, unpack_pack, unpack_nil, Nat.reducePow, BitVec.reduceToNat, BitVec.ofNat_eq_ofNat, Nat.reduceAdd, Nat.reduceMod, fit5, fit6, bit_mod]
    simp only [BitVec.reduceToNat, BitVec.ofNat_eq_ofNat, Nat.reduceAdd, Nat.reduceMod, Nat.reduceDiv, need, if_pos]
    simp only [decodeMaj26, layVX, unpack_pack, unpack_nil, Nat.reducePow, BitVec.reduceToNat, BitVec.ofNat_eq_ofNat, Nat.reduceAdd, Nat.reduceMod, fit5, fit6, bit_mod]
    simp [noLong, need]
  · refine decode_encode32 rfl rest rfl ?_
    rw [decodeLow_26 (pack_head _ _ _).2]
    simp only [decodeMaj26z, layVX, unpack_pack, unpack_nil, Nat.reducePow, BitVec.reduceToNat, BitVec.ofNat_eq_ofNat, Nat.reduceAdd, Nat.reduceMod, fit5, fit6, bit_mod]
    simp only [BitVec.reduceToNat, BitVec.ofNat_eq_ofNat, Nat.reduceAdd, Nat.reduceMod, Nat.reduceDiv, need, if_pos]
    simp only [decodeMaj26, layVX, unpack_pack, unpack_nil, Nat.reducePow, BitVec.reduceToNat, BitVec.ofNat_eq_ofNat, Nat.reduceAdd, Nat.reduceMod, fit5, fit6, bit_mod]
    simp [noLong, need]
  · refine decode_encode32 rfl rest rfl ?_
    rw [decodeLow_26 (pack_head _ _ _).2]
    simp only [decodeMaj26z, layVX, unpack_pack, unpack_nil, Nat.reducePow, BitVec.reduceToNat, BitVec.ofNat_eq_ofNat, Nat.reduceAdd, Nat.reduceMod, fit5, fit6, bit_mod]
    simp only [BitVec.reduceToNat, BitVec.ofNat_eq_ofNat, Nat.reduceAdd, Nat.reduceMod, Nat.reduceDiv, need, if_pos]
    simp only [decodeMaj26, layVX, unpack_pack, unpack_nil, Nat.reducePow, BitVec.reduceToNat, BitVec.ofNat_eq_ofNat, Nat.reduceAdd, Nat.reduceMod, fit5, fit6, bit_mod]
    simp [noLong, need]
  · refine decode_encode32 rfl rest rfl ?_
    rw [decodeLow_26 (pack_head _ _ _).2]
    simp only [decodeMaj26z, layVX, unpack_pack, unpack_nil, Nat.reducePow, BitVec.reduceToNat, BitVec.ofNat_eq_ofNat, Nat.reduceAdd, Nat.reduceMod, fit5, fit6, bit_mod]
    simp only [BitVec.reduceToNat, BitVec.ofNat_eq_ofNat, Nat.reduceAdd, Nat.reduceMod, Nat.reduceDiv, need, if_pos]
    simp only [decodeMaj26, layVX, unpack_pack, unpack_nil, Nat.reducePow, BitVec.reduceToNat, BitVec.ofNat_eq_ofNat, Nat.reduceAdd, Nat.reduceMod, fit5, fit6, bit_mod]
    simp [noLong, need]

theorem lineArrival (w : BitVec 4) (line : Nat) : Statement (.lineArrival w line) := fun h => nomatch h

theorem residencyPrefetch (w : BitVec 4) (ahead : Nat) : Statement (.residencyPrefetch w ahead) := fun h => nomatch h

theorem earlyWriteback (w : BitVec 4) (slot : Nat) : Statement (.earlyWriteback w slot) := fun h => nomatch h

theorem vscmpLt (cv : Bool) (mk : Bool) (b : Fld6) (a : Fld6) (d : Fld6) : Statement (.vscmpLt cv mk b a d) := fun _ rest => by
  refine decode_encode32 rfl rest rfl ?_
  rw [decodeLow_28 (pack_head _ _ _).2]
  simp only [decodeMaj28, layVV, unpack_pack, unpack_nil, Nat.reducePow, Nat.reduceMod, fit6, bit_mod]
  simp [noLong, need]

theorem vscmpLe (cv : Bool) (mk : Bool) (b : Fld6) (a : Fld6) (d : Fld6) : Statement (.vscmpLe cv mk b a d) := fun _ rest => by
  refine decode_encode32 rfl rest rfl ?_
  rw [decodeLow_28 (pack_head _ _ _).2]
  simp only [decodeMaj28, layVV, unpack_pack, unpack_nil, Nat.reducePow, Nat.reduceMod, fit6, bit_mod]
  simp [noLong, need]

theorem vscmpGt (cv : Bool) (mk : Bool) (b : Fld6) (a : Fld6) (d : Fld6) : Statement (.vscmpGt cv mk b a d) := fun _ rest => by
  refine decode_encode32 rfl rest rfl ?_
  rw [decodeLow_28 (pack_head _ _ _).2]
  simp only [decodeMaj28, layVV, unpack_pack, unpack_nil, Nat.reducePow, Nat.reduceMod, fit6, bit_mod]
  simp [noLong, need]

theorem vscmpGe (cv : Bool) (mk : Bool) (b : Fld6) (a : Fld6) (d : Fld6) : Statement (.vscmpGe cv mk b a d) := fun _ rest => by
  refine decode_encode32 rfl rest rfl ?_
  rw [decodeLow_28 (pack_head _ _ _).2]
  simp only [decodeMaj28, layVV, unpack_pack, unpack_nil, Nat.reducePow, Nat.reduceMod, fit6, bit_mod]
  simp [noLong, need]

theorem pandInd (cv : Bool) (mk : Bool) (b : Fld6) (a : Fld6) (d : Fld6) : Statement (.pandInd cv mk b a d) := fun _ rest => by
  refine decode_encode32 rfl rest rfl ?_
  rw [decodeLow_28 (pack_head _ _ _).2]
  simp only [decodeMaj28, layVV, unpack_pack, unpack_nil, Nat.reducePow, Nat.reduceMod, fit6, bit_mod]
  simp [noLong, need]

theorem pandPos (cv : Bool) (mk : Bool) (b : Fld6) (a : Fld6) (d : Fld6) : Statement (.pandPos cv mk b a d) := fun _ rest => by
  refine decode_encode32 rfl rest rfl ?_
  rw [decodeLow_28 (pack_head _ _ _).2]
  simp only [decodeMaj28, layVV, unpack_pack, unpack_nil, Nat.reducePow, Nat.reduceMod, fit6, bit_mod]
  simp [noLong, need]

theorem pandNeg (cv : Bool) (mk : Bool) (b : Fld6) (a : Fld6) (d : Fld6) : Statement (.pandNeg cv mk b a d) := fun _ rest => by
  refine decode_encode32 rfl rest rfl ?_
  rw [decodeLow_28 (pack_head _ _ _).2]
  simp only [decodeMaj28, layVV, unpack_pack, unpack_nil, Nat.reducePow, Nat.reduceMod, fit6, bit_mod]
  simp [noLong, need]

theorem porInd (cv : Bool) (mk : Bool) (b : Fld6) (a : Fld6) (d : Fld6) : Statement (.porInd cv mk b a d) := fun _ rest => by
  refine decode_encode32 rfl rest rfl ?_
  rw [decodeLow_28 (pack_head _ _ _).2]
  simp only [decodeMaj28, layVV, unpack_pack, unpack_nil, Nat.reducePow, Nat.reduceMod, fit6, bit_mod]
  simp [noLong, need]

theorem porPos (cv : Bool) (mk : Bool) (b : Fld6) (a : Fld6) (d : Fld6) : Statement (.porPos cv mk b a d) := fun _ rest => by
  refine decode_encode32 rfl rest rfl ?_
  rw [decodeLow_28 (pack_head _ _ _).2]
  simp only [decodeMaj28, layVV, unpack_pack, unpack_nil, Nat.reducePow, Nat.reduceMod, fit6, bit_mod]
  simp [noLong, need]

theorem porNeg (cv : Bool) (mk : Bool) (b : Fld6) (a : Fld6) (d : Fld6) : Statement (.porNeg cv mk b a d) := fun _ rest => by
  refine decode_encode32 rfl rest rfl ?_
  rw [decodeLow_28 (pack_head _ _ _).2]
  simp only [decodeMaj28, layVV, unpack_pack, unpack_nil, Nat.reducePow, Nat.reduceMod, fit6, bit_mod]
  simp [noLong, need]

theorem pnot (cv : Bool) (mk : Bool) (b : Fld6) (x : Fld6) (d : Fld6) : Statement (.pnot cv mk b x d) := fun _ rest => by
  refine decode_encode32 rfl rest rfl ?_
  rw [decodeLow_28 (pack_head _ _ _).2]
  simp only [decodeMaj28, layVV, unpack_pack, unpack_nil, Nat.reducePow, Nat.reduceMod, fit6, bit_mod]
  simp [noLong, need]

theorem pblendM (cv : Bool) (b : Fld6) (a : Fld6) (d : Fld6) : Statement (.pblendM cv b a d) := fun _ rest => by
  refine decode_encode32 rfl rest rfl ?_
  rw [decodeLow_28 (pack_head _ _ _).2]
  simp only [decodeMaj28, layVV, unpack_pack, unpack_nil, Nat.reducePow, Nat.reduceMod, fit6, bit_mod]
  simp [noLong, need]

theorem pcoll (cv : Bool) (mk : Bool) (a : Fld6) (d : Fld6) : Statement (.pcoll cv mk a d) := fun _ rest => by
  refine decode_encode32 rfl rest rfl ?_
  rw [decodeLow_29 (pack_head _ _ _).2]
  simp only [decodeMaj29, layVV, unpack_pack, unpack_nil, Nat.reducePow, Nat.reduceMod, fit6, bit_mod]
  simp [noLong, need]

theorem pthr (cv : Bool) (mk : Bool) (a : Fld6) (d : Fld6) : Statement (.pthr cv mk a d) := fun _ rest => by
  refine decode_encode32 rfl rest rfl ?_
  rw [decodeLow_29 (pack_head _ _ _).2]
  simp only [decodeMaj29, layVV, unpack_pack, unpack_nil, Nat.reducePow, Nat.reduceMod, fit6, bit_mod]
  simp [noLong, need]

theorem pgrad (cv : Bool) (mk : Bool) (a : Fld6) (d : Fld6) : Statement (.pgrad cv mk a d) := fun _ rest => by
  refine decode_encode32 rfl rest rfl ?_
  rw [decodeLow_29 (pack_head _ _ _).2]
  simp only [decodeMaj29, layVV, unpack_pack, unpack_nil, Nat.reducePow, Nat.reduceMod, fit6, bit_mod]
  simp [noLong, need]

theorem pgradSt (cv : Bool) (mk : Bool) (a : Fld6) (d : Fld6) : Statement (.pgradSt cv mk a d) := fun _ rest => by
  refine decode_encode32 rfl rest rfl ?_
  rw [decodeLow_29 (pack_head _ _ _).2]
  simp only [decodeMaj29, layVV, unpack_pack, unpack_nil, Nat.reducePow, Nat.reduceMod, fit6, bit_mod]
  simp [noLong, need]

theorem pbgrad (cv : Bool) (mk : Bool) (b : Fld6) (a : Fld6) (d : Fld6) : Statement (.pbgrad cv mk b a d) := fun _ rest => by
  refine decode_encode32 rfl rest rfl ?_
  rw [decodeLow_29 (pack_head _ _ _).2]
  simp only [decodeMaj29, layVV, unpack_pack, unpack_nil, Nat.reducePow, Nat.reduceMod, fit6, bit_mod]
  simp [noLong, need]

theorem pmovV (cv : Bool) (mk : Bool) (a : Fld6) (d : Fld6) : Statement (.pmovV cv mk a d) := fun _ rest => by
  refine decode_encode32 rfl rest rfl ?_
  rw [decodeLow_29 (pack_head _ _ _).2]
  simp only [decodeMaj29, layVV, unpack_pack, unpack_nil, Nat.reducePow, Nat.reduceMod, fit6, bit_mod]
  simp [noLong, need]

theorem pmovM (cv : Bool) (mk : Bool) (a : Fld6) (d : Fld6) : Statement (.pmovM cv mk a d) := fun _ rest => by
  refine decode_encode32 rfl rest rfl ?_
  rw [decodeLow_29 (pack_head _ _ _).2]
  simp only [decodeMaj29, layVV, unpack_pack, unpack_nil, Nat.reducePow, Nat.reduceMod, fit6, bit_mod]
  simp [noLong, need]

theorem xpa (cv : Bool) (mk : Bool) (pb : Bool) (pa : Bool) (b : Fld6) (a : Fld6) (d : Fld6) : Statement (.xpa cv mk pb pa b a d) := fun h rest => by
  replace h : ((!pa || decide (a.toNat < 32)) && (!pb || decide (b.toNat < 32)) && (!cv || !pa || !pb)) = true := h
  simp only [Bool.and_eq_true, Bool.or_eq_true, decide_eq_true_eq, Bool.not_eq_true', or_assoc] at h
  refine decode_encode32 rfl rest rfl ?_
  rw [decodeLow_2A (pack_head _ _ _).2]
  simp only [decodeMaj2A, layXP, unpack_pack, unpack_nil, Nat.reducePow, Nat.reduceMod, fit6, bit_mod]
  simp [noLong, need, h]

theorem xps (cv : Bool) (mk : Bool) (pb : Bool) (pa : Bool) (b : Fld6) (a : Fld6) (d : Fld6) : Statement (.xps cv mk pb pa b a d) := fun h rest => by
  replace h : ((!pa || decide (a.toNat < 32)) && (!pb || decide (b.toNat < 32)) && (!cv || !pa || !pb)) = true := h
  simp only [Bool.and_eq_true, Bool.or_eq_true, decide_eq_true_eq, Bool.not_eq_true', or_assoc] at h
  refine decode_encode32 rfl rest rfl ?_
  rw [decodeLow_2A (pack_head _ _ _).2]
  simp only [decodeMaj2A, layXP, unpack_pack, unpack_nil, Nat.reducePow, Nat.reduceMod, fit6, bit_mod]
  simp [noLong, need, h]

theorem xpaI (cv : Bool) (mk : Bool) (pb : Bool) (pa : Bool) (b : Fld6) (a : Fld6) (d : Fld6) : Statement (.xpaI cv mk pb pa b a d) := fun h rest => by
  replace h : ((!pa || decide (a.toNat < 32)) && (!pb || decide (b.toNat < 32)) && (!cv || !pa || !pb)) = true := h
  simp only [Bool.and_eq_true, Bool.or_eq_true, decide_eq_true_eq, Bool.not_eq_true', or_assoc] at h
  refine decode_encode32 rfl rest rfl ?_
  rw [decodeLow_2A (pack_head _ _ _).2]
  simp only [decodeMaj2A, layXP, unpack_pack, unpack_nil, Nat.reducePow, Nat.reduceMod, fit6, bit_mod]
  simp [noLong, need, h]

theorem xpaS (cv : Bool) (mk : Bool) (b : Fld6) (a : Fld6) (d : Fld6) : Statement (.xpaS cv mk b a d) := fun _ rest => by
  refine decode_encode32 rfl rest rfl ?_
  rw [decodeLow_2A (pack_head _ _ _).2]
  simp only [decodeMaj2A, layXP, unpack_pack, unpack_nil, Nat.reducePow, Nat.reduceMod, fit6, bit_mod]
  simp [noLong, need]

theorem mxon (g : GReg) : Statement (.mxon g) := fun _ rest => by
  refine decode_encode32 rfl rest rfl ?_
  rw [decodeLow_2B (pack_head _ _ _).2]
  simp only [decodeMaj2B, layVX, unpack_pack, unpack_nil, Nat.reducePow, Nat.reduceMod, fit5]
  simp [noLong, need]

theorem matrixAcquire : Statement .matrixAcquire := fun h => nomatch h

theorem mxoff : Statement .mxoff := fun _ rest => by
  refine decode_encode32 rfl rest rfl ?_
  rw [decodeLow_2B (pack_head _ _ _).2]
  simp only [decodeMaj2B, layVX, unpack_pack, unpack_nil, Nat.reducePow, Nat.reduceMod]
  simp [noLong, need]

theorem mzero (d : Fld6) : Statement (.mzero d) := fun _ rest => by
  refine decode_encode32 rfl rest rfl ?_
  rw [decodeLow_2B (pack_head _ _ _).2]
  simp only [decodeMaj2B, layVX, unpack_pack, unpack_nil, Nat.reducePow, Nat.reduceMod, fit6]
  simp [noLong, need]

theorem mrdV (mk : Bool) (g : GReg) (a : Fld6) (d : Fld6) : Statement (.mrdV mk g a d) := fun _ rest => by
  refine decode_encode32 rfl rest rfl ?_
  rw [decodeLow_2B (pack_head _ _ _).2]
  simp only [decodeMaj2B, layVX, unpack_pack, unpack_nil, Nat.reducePow, Nat.reduceMod, fit5, fit6, bit_mod]
  simp [noLong, need]

theorem mrdG (g : GReg) (a : Fld6) (d : GReg) : Statement (.mrdG g a d) := fun _ rest => by
  have l_d := d.isLt
  have e_d : d.toNat % 64 = d.toNat := Nat.mod_eq_of_lt (by omega)
  refine decode_encode32 rfl rest rfl ?_
  rw [decodeLow_2B (pack_head _ _ _).2]
  simp only [decodeMaj2B, layVX, unpack_pack, unpack_nil, Nat.reducePow, Nat.reduceMod, fit5, fit6, e_d]
  simp [noLong, need, e_d, l_d]

theorem mwr (mk : Bool) (g : GReg) (a : Fld6) (d : Fld6) : Statement (.mwr mk g a d) := fun _ rest => by
  refine decode_encode32 rfl rest rfl ?_
  rw [decodeLow_2B (pack_head _ _ _).2]
  simp only [decodeMaj2B, layVX, unpack_pack, unpack_nil, Nat.reducePow, Nat.reduceMod, fit5, fit6, bit_mod]
  simp [noLong, need]

theorem mld (g : GReg) (a : GReg) (d : Fld6) : Statement (.mld g a d) := fun _ rest => by
  have l_a := a.isLt
  have e_a : a.toNat % 64 = a.toNat := Nat.mod_eq_of_lt (by omega)
  refine decode_encode32 rfl rest rfl ?_
  rw [decodeLow_2B (pack_head _ _ _).2]
  simp only [decodeMaj2B, layVX, unpack_pack, unpack_nil, Nat.reducePow, Nat.reduceMod, fit5, fit6, e_a]
  simp [noLong, need, e_a, l_a]

theorem mst (g : GReg) (a : GReg) (d : Fld6) : Statement (.mst g a d) := fun _ rest => by
  have l_a := a.isLt
  have e_a : a.toNat % 64 = a.toNat := Nat.mod_eq_of_lt (by omega)
  refine decode_encode32 rfl rest rfl ?_
  rw [decodeLow_2B (pack_head _ _ _).2]
  simp only [decodeMaj2B, layVX, unpack_pack, unpack_nil, Nat.reducePow, Nat.reduceMod, fit5, fit6, e_a]
  simp [noLong, need, e_a, l_a]

theorem enq (mk : Bool) (a : Fld6) (d : Fld6) : Statement (.enq mk a d) := fun _ rest => by
  refine decode_encode32 rfl rest rfl ?_
  rw [decodeLow_2C (pack_head _ _ _).2]
  simp only [decodeMaj2C, layVX, unpack_pack, unpack_nil, Nat.reducePow, Nat.reduceMod, fit6, bit_mod]
  simp [noLong, need]

theorem cVadd (b : GReg) (d : Fld6) : Statement (.cVadd b d) := fun _ rest => by
  refine decode_encode16 rfl rest rfl ?_
  simp [decodeCompact]

theorem cVsub (b : GReg) (d : Fld6) : Statement (.cVsub b d) := fun _ rest => by
  refine decode_encode16 rfl rest rfl ?_
  simp [decodeCompact]

theorem cVmul (b : GReg) (d : Fld6) : Statement (.cVmul b d) := fun _ rest => by
  refine decode_encode16 rfl rest rfl ?_
  simp [decodeCompact]

theorem cVfma (b : GReg) (d : Fld6) : Statement (.cVfma b d) := fun _ rest => by
  refine decode_encode16 rfl rest rfl ?_
  simp [decodeCompact]

theorem cVmin (b : GReg) (d : Fld6) : Statement (.cVmin b d) := fun _ rest => by
  refine decode_encode16 rfl rest rfl ?_
  simp [decodeCompact]

theorem cVmax (b : GReg) (d : Fld6) : Statement (.cVmax b d) := fun _ rest => by
  refine decode_encode16 rfl rest rfl ?_
  simp [decodeCompact]

theorem cVand (b : GReg) (d : Fld6) : Statement (.cVand b d) := fun _ rest => by
  refine decode_encode16 rfl rest rfl ?_
  simp [decodeCompact]

theorem cVor (b : GReg) (d : Fld6) : Statement (.cVor b d) := fun _ rest => by
  refine decode_encode16 rfl rest rfl ?_
  simp [decodeCompact]

theorem cVxor (b : GReg) (d : Fld6) : Statement (.cVxor b d) := fun _ rest => by
  refine decode_encode16 rfl rest rfl ?_
  simp [decodeCompact]

theorem cVmov (b : GReg) (d : Fld6) : Statement (.cVmov b d) := fun _ rest => by
  refine decode_encode16 rfl rest rfl ?_
  simp [decodeCompact]

theorem cVabs (b : GReg) (d : Fld6) : Statement (.cVabs b d) := fun _ rest => by
  refine decode_encode16 rfl rest rfl ?_
  simp [decodeCompact]

theorem cVneg (b : GReg) (d : Fld6) : Statement (.cVneg b d) := fun _ rest => by
  refine decode_encode16 rfl rest rfl ?_
  simp [decodeCompact]

theorem cVsadd (b : GReg) (d : Fld6) : Statement (.cVsadd b d) := fun _ rest => by
  refine decode_encode16 rfl rest rfl ?_
  simp [decodeCompact]

theorem cVssub (b : GReg) (d : Fld6) : Statement (.cVssub b d) := fun _ rest => by
  refine decode_encode16 rfl rest rfl ?_
  simp [decodeCompact]

theorem cVavg (b : GReg) (d : Fld6) : Statement (.cVavg b d) := fun _ rest => by
  refine decode_encode16 rfl rest rfl ?_
  simp [decodeCompact]

theorem pageWalk (va : W64) (write : Bool) : Statement (.pageWalk va write) := fun h => nomatch h

theorem copy (c : Command) : Statement (.copy c) := fun h => nomatch h

theorem copyt (c : Command) : Statement (.copyt c) := fun h => nomatch h

theorem fprint (c : Command) : Statement (.fprint c) := fun h => nomatch h

theorem decode (c : Command) : Statement (.decode c) := fun h => nomatch h

theorem decodeWatchdogCut (c : Command) (chunks emitted : Nat) : Statement (.decodeWatchdogCut c chunks emitted) := fun h => nomatch h

theorem topk (c : Command) : Statement (.topk c) := fun h => nomatch h

theorem ring (c : Command) : Statement (.ring c) := fun h => nomatch h

theorem srd (c : Command) : Statement (.srd c) := fun h => nomatch h

theorem swr (c : Command) : Statement (.swr c) := fun h => nomatch h

theorem flcfg (c : Command) : Statement (.flcfg c) := fun h => nomatch h

theorem flcfgEmpty (c : Command) : Statement (.flcfgEmpty c) := fun h => nomatch h

theorem flrun (c : Command) : Statement (.flrun c) := fun h => nomatch h

theorem gangReady (gang : Nat) : Statement (.gangReady gang) := fun h => nomatch h

theorem gangPlace (gang : Nat) : Statement (.gangPlace gang) := fun h => nomatch h

theorem nextPreload (gang : Nat) : Statement (.nextPreload gang) := fun h => nomatch h

theorem priorityAging (gang : Nat) : Statement (.priorityAging gang) := fun h => nomatch h

theorem priorityRise (gang : Nat) : Statement (.priorityRise gang) := fun h => nomatch h

theorem budgetOverrun (gang : Nat) : Statement (.budgetOverrun gang) := fun h => nomatch h

theorem hartHalt (hart : Nat) : Statement (.hartHalt hart) := fun h => nomatch h

theorem kill (q : SchedCmd) : Statement (.kill q) := fun h => nomatch h

theorem rerun (q : SchedCmd) : Statement (.rerun q) := fun h => nomatch h

theorem resume (q : SchedCmd) : Statement (.resume q) := fun h => nomatch h

theorem patrolScrub (pa : Nat) (found : ScrubFind) : Statement (.patrolScrub pa found) := fun h => nomatch h

theorem errorLogRead (die slot : Nat) : Statement (.errorLogRead die slot) := fun h => nomatch h

theorem persistentFault (die : Nat) (core : Option Nat) (point addr : Nat) : Statement (.persistentFault die core point addr) := fun h => nomatch h

theorem noiseHealthFailure (die core : Nat) : Statement (.noiseHealthFailure die core) := fun h => nomatch h

theorem hostPostedWrite (at' : OuterAddr) (data : List Byte) : Statement (.hostPostedWrite at' data) := fun h => nomatch h

theorem hostRead (at' : OuterAddr) (n : Nat) : Statement (.hostRead at' n) := fun h => nomatch h

theorem startSupervisor (part : Nat) : Statement (.startSupervisor part) := fun h => nomatch h

theorem diesChange (part : Nat) (mask : W64) : Statement (.diesChange part mask) := fun h => nomatch h

theorem partitionBlockWrite (part off : Nat) (data : List Byte) : Statement (.partitionBlockWrite part off data) := fun h => nomatch h

theorem powerOn (b : BootReport) : Statement (.powerOn b) := fun h => nomatch h

theorem bootWatchdog : Statement .bootWatchdog := fun h => nomatch h

theorem firmwareWrite (image : List Byte) : Statement (.firmwareWrite image) := fun h => nomatch h

theorem startRequest (b : BootReport) : Statement (.startRequest b) := fun h => nomatch h

theorem attestation (nonce : List Byte) : Statement (.attestation nonce) := fun h => nomatch h

theorem clockThrottle (island khz : Nat) : Statement (.clockThrottle island khz) := fun h => nomatch h

theorem linkFailure (link : Nat) : Statement (.linkFailure link) := fun h => nomatch h

theorem illegalEncoding (sub : Byte) (low : W32) : Statement (.illegalEncoding sub low) := fun h => nomatch h

theorem fetchFault (cause : Byte) (tval : W64) : Statement (.fetchFault cause tval) := fun h => nomatch h

theorem peerAccess (write : Bool) (at' : OuterAddr) (n : Nat) (data : List Byte) : Statement (.peerAccess write at' n data) := fun h => nomatch h

theorem driveCompletion (sct sc : Nat) (data : DriveData) : Statement (.driveCompletion sct sc data) := fun h => nomatch h

end Sys2Proof.Laws.RoundTrip
end

