-- ==== Sys2Proof/Laws/Reach.lean ====
section
/-! SUPPORT. Accesses that reach memory whatever the memory holds: addresses below 1 GiB in a machine that maps the first GiB of DRAM onto itself, and register windows apart. -/
namespace Sys2Proof.Machine

/-- The translation of the first GiB of DRAM onto itself in a die's TLB, for a supervisor of partition 0: V, R, W, X, A, D and IDEM. -/
def flatEntry (die : Nat) : TlbEntry := { part := 0, asid := 0, va := 0, size := 0x40000000, pte := 0xDCF, home := die }

/-- Dies 0, 1 and 7 translate the first GiB of DRAM onto itself, die 0 is in service, and partition 0 owns it. -/
structure Flat (s : State) : Prop where
  tlb : s.tlb = [flatEntry 0, flatEntry 1, flatEntry 7]
  utlb : s.utlb = []
  dies : s.deadDies = []
  owns : s.ownsDie 0 0 = true

/-- An access of partition 0's supervisor through the TLB of die 0, 1 or 7. -/
def Acc.flat (a : Acc) : Prop := a.part = 0 ∧ a.asid = 0 ∧ a.user = false ∧ a.die ∈ [0, 1, 7]

/-- The addresses of an access. -/
def spanKeys (va : W64) (n : Nat) : List Nat := (List.range n).map (fun j => va.toNat + j)

theorem Flat.congr {s u : State} (h : Flat s) (e : u.bare = s.bare) : Flat u := by
  have h1 : u.tlb = s.tlb := (congrArg State.tlb e : u.bare.tlb = s.bare.tlb)
  have h0 : u.utlb = s.utlb := (congrArg State.utlb e : u.bare.utlb = s.bare.utlb)
  have h2 : u.deadDies = s.deadDies := (congrArg State.deadDies e : u.bare.deadDies = s.bare.deadDies)
  have h3 : u.parts = s.parts := (congrArg State.parts e : u.bare.parts = s.bare.parts)
  refine ⟨h1.trans h.tlb, h0.trans h.utlb, h2.trans h.dies, ?_⟩
  have := h.owns
  unfold State.ownsDie State.pblock at this ⊢
  rw [h3]; exact this

/-- Such an address translates to itself. -/
theorem Flat.resolve {s : State} (h : Flat s) {a : Acc} (ha : a.flat) {va : W64} (hv : va.toNat < 0x40000000) : s.resolve a va = .ok (va.toNat, s) := by
  obtain ⟨h1, h2, h3, h4⟩ := ha
  have c : canonical va.toNat = true := by
    have : va.toNat / 2 ^ 56 = 0 := by omega
    unfold canonical; rw [this]; rfl
  have n : inAperture va.toNat = false := by
    have : va.toNat / 2 ^ 40 = 0 := by omega
    unfold inAperture; rw [this]; rfl
  have z : va.toNat / 0x40000000 * 0x40000000 = 0 := by omega
  have f : s.tlbFind a va.toNat = some (flatEntry a.die) := by
    unfold State.tlbFind
    rw [h.utlb, List.find?_nil]
    simp only []
    rw [h.tlb]
    simp only [List.mem_cons, List.not_mem_nil, or_false] at h4
    rcases h4 with h4 | h4 | h4 <;> rw [h4] <;> simp [List.find?, TlbEntry.matches, flatEntry, z, h1, h2]
  have p : leafPa 0xDCF 0x40000000 va.toNat = va.toNat := by
    have : ptePpn 0xDCF * 4096 / 0x40000000 * 0x40000000 = 0 := rfl
    unfold leafPa
    rw [this, Nat.zero_add, Nat.mod_eq_of_lt hv]
  have q : permCheck a 0xDCF = none := by
    unfold permCheck
    rw [h3, show pteR 0xDCF = true by decide, show pteW 0xDCF = true by decide, show pteX 0xDCF = true by decide, show pteU 0xDCF = false by decide]
    simp
  have d : needsDirty a 0xDCF = false := by unfold needsDirty; rw [show pteD 0xDCF = true by decide]; simp
  have r : isRegSpace va.toNat = false := by simp [isRegSpace]; omega
  have k : s.physCheck a va.toNat = none := by
    have e1 : va.toNat / 2 ^ 51 = 0 := by omega
    have e2 : va.toNat / 2 ^ 41 = 0 := by omega
    have e3 : bits va.toNat 35 6 = 0 := by unfold bits; omega
    have e4 : s.populated va.toNat = true := by
      have : bits va.toNat 0 35 < Config.dramBytes := by unfold bits Config.dramBytes; omega
      simp [State.populated, h.dies, this]
    unfold State.physCheck
    rw [if_neg (by rw [e1]; exact Nat.zero_ne_one), if_pos e2, if_neg (by rw [e4]; decide), e3, h1, if_neg (by rw [h.owns]; decide)]
  unfold State.resolve State.resolveNat
  have us : (flatEntry a.die).usable a = true := by
    unfold TlbEntry.usable
    rw [show (flatEntry a.die).pte = 0xDCF from rfl, d, show pteA 0xDCF = true by decide]
    rfl
  simp only [c, n, f, us, Bool.not_true, Bool.false_eq_true, if_false]
  simp [flatEntry, p, State.leafCheck, q, r, k, show pteIdem 0xDCF = true by decide]

theorem Flat.reaches {s : State} (h : Flat s) {a : Acc} (ha : a.flat) {va : W64} {n : Nat} (hv : va.toNat < 0x40000000) (hp : va.toNat % 4096 + n ≤ 4096) :
    s.resolveSpan a va n = .ok (spanKeys va n, s) := by
  have r : isRegSpace va.toNat = false := by simp [isRegSpace]; omega
  unfold State.resolveSpan spanKeys
  rw [h.resolve ha hv]
  have : n ≤ 4096 - va.toNat % 4096 := by omega
  simp [this, r]

theorem plain_range {a n : Nat} (h : a + n ≤ 0x40000000) : Plain ((List.range n).map (fun j => a + j)) := by
  intro k hk
  obtain ⟨j, hj, rfl⟩ := List.mem_map.1 hk
  have := List.mem_range.1 hj
  simp [isRegSpace]; omega

theorem nodup_range (a n : Nat) : ((List.range n).map (fun j => a + j)).Nodup :=
  List.pairwise_map.2 (List.nodup_range.imp (fun h e => h (by omega)))

/-- An access within a page is resident. -/
theorem Flat.resident {s : State} (h : Flat s) {a : Acc} (ha : a.flat) {va : W64} {n : Nat} (hv : va.toNat + n ≤ 0x40000000) (hn : 0 < n) (hp : va.toNat % 4096 + n ≤ 4096) :
    Resident s a va n (spanKeys va n) :=
  ⟨plain_range hv, nodup_range _ _, fun u e => (h.congr e).reaches ha (by omega) hp⟩

/-- A range spans its own addresses. -/
theorem Flat.spans {s : State} (h : Flat s) {a : Acc} (ha : a.flat) {va : W64} {n : Nat} (hv : va.toNat + n ≤ 0x40000000) :
    Spans s a va n (spanKeys va n) := by
  refine ⟨plain_range hv, nodup_range _ _, by simp [spanKeys], fun o k hk ho hp u e => ?_⟩
  have e0 : (va + BitVec.ofNat 64 o).toNat = va.toNat + o := by
    rw [BitVec.toNat_add, BitVec.toNat_ofNat]; omega
  rw [(h.congr e).reaches ha (by omega) hp]
  unfold spanKeys
  rw [e0]
  congr 2
  rw [List.map_drop.symm, List.map_take.symm]
  have : ((List.range n).drop o).take k = (List.range k).map (fun j => o + j) := by
    apply List.ext_getElem?
    intro i
    by_cases hi : i < k
    · have : o + i < n := by omega
      simp [List.getElem?_drop, hi, this]
    · simp [hi] <;> omega
  rw [this, List.map_map]
  congr 1
  funext j
  simp; omega

/-- DRAM lies in no register's window and in no bound window. -/
theorem below_window (h : Hart) (r : Nat) {k : Nat} (hk : k < 0x40000000) : ¬ h.inWindow r k := by
  rintro (⟨_, o, _, e⟩ | ⟨_, o, _, e⟩) <;> unfold chamberKey at e <;> omega
theorem below_bound (s : State) {k : Nat} (hk : k < 0x40000000) : s.inBoundWindow k = false := by
  have : isChamber k = false := by unfold isChamber; simp; omega
  unfold State.inBoundWindow
  rw [this]
  rfl

/-- No graph is in the way where none is loaded. -/
theorem unbound_none {s : State} (h : s.flow = []) (path k : Nat) : s.unbound path k := by
  have : ∀ w, s.boundGraph path w k = none := by
    intro w
    unfold State.boundGraph
    rw [h]
    split <;> rfl
  exact ⟨this false, this true⟩

/-- Nothing stands wrong and nothing is poisoned where nothing is recorded. -/
theorem clean_none {s : State} (h : s.poison = []) (hf : s.flaws = []) (hc : s.checks = []) (ks : List Nat) : Clean s ks := by
  refine ⟨fun k _ => ⟨?_, ?_⟩, fun k _ _ => ?_⟩
  · unfold State.flawed; rw [hf]; rfl
  · unfold State.mismatch; rw [hc]; simp
  · unfold State.poisoned; rw [h]; rfl

/-- No write is hidden where none is recorded. -/
theorem seen_none {s : State} (h : s.unseen = []) (hart path : Nat) (ks : List Nat) : Seen s hart path ks := by
  intro k _ u hu
  unfold State.recordsAt at hu
  rw [h] at hu
  cases hu
theorem allSeen_none {s : State} (h : s.unseen = []) (hart path : Nat) : AllSeen s hart path := by
  intro u hu
  rw [h] at hu
  cases hu

/-- The window of a register: its base and its size. -/
def Hart.seat (h : Hart) (r : Nat) : Nat × Nat := if r < 64 then ((h.vreg r).base, h.vw) else ((h.mreg (r - 128)).base, 2 * h.em)

/-- Windows that lie in the Chamber and apart, as a check. -/
def apartB (h : Hart) (rs : List Nat) : Bool :=
  rs.all fun r => decide ((h.seat r).1 + (h.seat r).2 ≤ 0x800000) && rs.all fun q =>
    r == q || decide ((h.seat r).1 + (h.seat r).2 ≤ (h.seat q).1) || decide ((h.seat q).1 + (h.seat q).2 ≤ (h.seat r).1)
theorem windowsApart_of {s : State} {rs : List Nat} (h : apartB s.hart rs = true) : WindowsApart s rs := by
  have hw : ∀ r k, s.hart.inWindow r k → ∃ o, o < (s.hart.seat r).2 ∧ k = chamberKey (chamberAddr s.hart.core ((s.hart.seat r).1 + o)) := by
    rintro r k (⟨h1, o, ho, e⟩ | ⟨h1, o, ho, e⟩)
    · exact ⟨o, by simpa [Hart.seat, h1] using ho, by simpa [Hart.seat, h1] using e⟩
    · have h2 : ¬ r < 64 := by omega
      exact ⟨o, by simpa [Hart.seat, h2] using ho, by simpa [Hart.seat, h2] using e⟩
  simp only [apartB, List.all_eq_true, Bool.and_eq_true, Bool.or_eq_true, decide_eq_true_eq, beq_iff_eq] at h
  refine ⟨fun r r' k hr hr' hne h1 h2 => ?_, fun r hr => ?_⟩
  · obtain ⟨o, ho, e⟩ := hw r k h1
    obtain ⟨o', ho', e'⟩ := hw r' k h2
    have := (h r hr).2 r' hr'
    unfold chamberKey chamberAddr at e e'
    omega
  · have := (h r hr).1
    unfold Hart.seat at this
    split <;> simp_all

/-- What `Ready` asks, as a check. -/
def readyB (i : Instr) (s : State) : Bool :=
  s.hart.convoy.isNone && s.hart.span.isNone && s.poison.isEmpty && s.flaws.isEmpty && s.checks.isEmpty && s.unseen.isEmpty && noiseMode s.hart.csr.noise == 0 && decide (s.hart.csr.vlN ≤ s.hart.em) && !s.owesTile
    && (infoOf i s.hart).all (fun v => v.ill.isNone && (bypassCodes (v.reads ++ v.writes)).isEmpty)
theorem ready_of {i : Instr} {s : State} (h : readyB i s = true) : Ready i s := by
  simp only [readyB, Bool.and_eq_true, Option.isNone_iff_eq_none, List.isEmpty_iff, beq_iff_eq, decide_eq_true_eq, Bool.not_eq_true', Option.all_eq_true] at h
  obtain ⟨⟨⟨⟨⟨⟨⟨⟨⟨h1, h2⟩, h3⟩, h8⟩, h9⟩, hu⟩, h4⟩, h5⟩, h6⟩, h7⟩ := h
  exact ⟨h1, h2, h3, h8, h9, allSeen_none hu _ _, h4, h5, h6, h7⟩

/-- Accesses below 1 GiB, each within a page, as a check. -/
def reachB (n : Nat) (ea : Nat → W64) (l : Nat) : Bool :=
  (List.range l).all (fun j => decide ((ea j).toNat + n ≤ 0x40000000) && decide (0 < n) && decide ((ea j).toNat % 4096 + n ≤ 4096))
theorem Flat.each {s : State} (hf : Flat s) {a : Acc} (ha : a.flat) {n l : Nat} {ea : Nat → W64} (h : reachB n ea l = true) {j : Nat} (hj : j < l) :
    Resident s a (ea j) n (spanKeys (ea j) n) ∧ ∀ k, k ∈ spanKeys (ea j) n → s.inBoundWindow k = false ∧ ∀ r, ¬ s.hart.inWindow r k := by
  simp only [reachB, List.all_eq_true, List.mem_range, Bool.and_eq_true, decide_eq_true_eq] at h
  obtain ⟨⟨e1, e2⟩, e3⟩ := h j hj
  refine ⟨hf.resident ha e1 e2 e3, fun k hk => ?_⟩
  obtain ⟨b, hb, rfl⟩ := List.mem_map.1 hk
  have hb' := List.mem_range.1 hb
  exact ⟨below_bound s (by omega), fun r => below_window _ _ (by omega)⟩

/-- A byte of the hart's Chamber outside a register's window. -/
theorem outside_seat {h : Hart} {r x : Nat} (hx : x < (h.seat r).1 ∨ (h.seat r).1 + (h.seat r).2 ≤ x) : ¬ h.inWindow r (chamberKey (chamberAddr h.core x)) := by
  rintro (⟨h1, o, ho, e⟩ | ⟨h1, o, ho, e⟩)
  · simp only [Hart.seat, h1, if_true] at hx
    unfold chamberKey chamberAddr at e; omega
  · have h2 : ¬ r < 64 := by omega
    simp only [Hart.seat, h2, if_false] at hx
    unfold chamberKey chamberAddr at e; omega

/-- A range below 1 GiB: its keys are in no bound window and no register's window. -/
theorem span_free (s : State) {va : W64} {n : Nat} (h : va.toNat + n ≤ 0x40000000) {k : Nat} (hk : k ∈ spanKeys va n) : s.inBoundWindow k = false ∧ ∀ r, ¬ s.hart.inWindow r k := by
  obtain ⟨b, hb, rfl⟩ := List.mem_map.1 hk
  have hb' := List.mem_range.1 hb
  exact ⟨below_bound s (by omega), fun r => below_window _ _ (by omega)⟩

/-- What a vector load or store asks of a machine that maps DRAM onto itself, as a check: the keys are the addresses of its elements. -/
def goesB (i : Instr) (s : State) (m : VMem) : Bool :=
  readyB i s && (infoOf i s.hart).any (fun v => apartB s.hart (v.reads ++ v.writes)) && m.ok s.hart
    && (List.range s.hart.csr.vlN).all (fun j => (List.range m.kind.nf).all (fun f =>
      decide ((m.ea s j f).toNat + (m.tag s.hart).bytes ≤ 0x40000000) && decide (0 < (m.tag s.hart).bytes)
        && decide ((m.ea s j f).toNat % 4096 + (m.tag s.hart).bytes ≤ 4096) && (!m.a8 || decide ((m.ea s j f).toNat % 8 = 0))))
theorem goes_of {i : Instr} {s : State} {m : VMem} (hf : Flat s) (h1 : s.hart.part = 0) (h2 : s.hart.asid = 0) (h3 : s.hart.sup = true) (h4 : s.hart.die = 0) (hu : s.unseen = []) (h : goesB i s m = true) :
    Ready i s ∧ ∃ v, infoOf i s.hart = some v ∧ m.Goes s v (fun j f => spanKeys (m.ea s j f) (m.tag s.hart).bytes) := by
  simp only [goesB, Bool.and_eq_true, Bool.or_eq_true, List.all_eq_true, List.mem_range, decide_eq_true_eq, Bool.not_eq_true', Option.any_eq_true] at h
  obtain ⟨⟨⟨hr, v, hv, hw⟩, hm⟩, he⟩ := h
  refine ⟨ready_of hr, v, hv, hm, windowsApart_of hw, fun j f hj hfn => ?_⟩
  obtain ⟨⟨⟨e1, e2⟩, e3⟩, e4⟩ := he j hj.2.1 f hfn
  refine ⟨hf.resident ⟨h1, h2, by simp [Hart.acc, h3], by simp [Hart.acc, h4]⟩ e1 e2 e3, fun ha => e4.resolve_left (by simp [ha]), seen_none hu _ _ _, fun k hk r _ => ?_⟩
  obtain ⟨b, hb, rfl⟩ := List.mem_map.1 hk
  have hb' := List.mem_range.1 hb
  exact below_window _ _ (by omega)

/-- Nothing stands wrong in memory, nothing is hidden, and no graph is loaded that binds pages. -/
structure Quiet (s : State) : Prop where
  poison : s.poison = []
  flaws : s.flaws = []
  checks : s.checks = []
  unseen : s.unseen = []
  flow : s.flow.all (fun f => f.graph.kind == 0) = true
  paid : s.gangs.all (fun g => g.owed.isNone) = true
theorem unbound_row {s : State} (h : s.flow.all (fun f => f.graph.kind == 0) = true) (path k : Nat) : s.unbound path k := by
  have : ∀ w, s.boundGraph path w k = none := by
    intro w
    unfold State.boundGraph
    split
    · rw [List.find?_eq_none.2]
      · rfl
      · intro f hf
        have := List.all_eq_true.1 h f hf
        have e : f.graph.kind = 0 := by simpa using this
        cases w <;> simp [e]
    · rfl
  exact ⟨this false, this true⟩
theorem Quiet.settled {s : State} (h : Quiet s) (c : Command) (path : Nat) : c.settled s path :=
  ⟨h.flaws, h.checks, fun x _ l => by unfold State.hiding State.recordsAt; rw [h.unseen]; rfl, fun g hg => by simpa using List.all_eq_true.1 h.paid g hg⟩
/-- Nothing stands wrong where nothing is recorded, poison or not. -/
theorem sound_none {s : State} (hf : s.flaws = []) (hc : s.checks = []) (ks : List Nat) : Sound s ks := by
  intro k _
  constructor
  · unfold State.flawed; rw [hf]; rfl
  · unfold State.mismatch; rw [hc]; simp
theorem Quiet.clean {s : State} (h : Quiet s) (ks : List Nat) : Clean s ks := clean_none h.poison h.flaws h.checks ks
theorem Quiet.fits {s : State} (h : Quiet s) (k : Nat) : s.mismatch k = false := by unfold State.mismatch; rw [h.checks]; simp

/-- The addresses of an access below 1 GiB. -/
theorem span_below {va : W64} {n : Nat} (h : va.toNat + n ≤ 0x40000000) {k : Nat} (hk : k ∈ spanKeys va n) : k < 0x40000000 := by
  obtain ⟨b, hb, rfl⟩ := List.mem_map.1 hk
  have := List.mem_range.1 hb
  omega

/-- A read below 1 GiB has no effect. -/
theorem afterRead_below (s : State) {va : W64} {n : Nat} (h : va.toNat + n ≤ 0x40000000) : s.afterRead (spanKeys va n) = s := by
  have e : (spanKeys va n).filter s.inBoundWindow = [] := List.filter_eq_nil_iff.2 (fun k hk => by simp [below_bound s (span_below h hk)])
  rw [State.afterRead_plain s (ks := spanKeys va n) (plain_range h)]
  unfold State.taint
  rw [e]; rfl

/-- What a load, a store and a fetch of a hart that sees DRAM as it is ask of it. -/
theorem Flat.reads {s : State} (hf : Flat s) (hq : Quiet s) {kind : AKind} {dev : Bool} (ha : (s.hart.acc kind dev).flat) {va : W64} {n : Nat}
    (hv : va.toNat < 0x40000000) (hp : va.toNat % 4096 + n ≤ 4096) : Reads s kind dev va n (spanKeys va n) s :=
  ⟨hf.reaches ha hv hp, hq.clean _, hq.clean _, seen_none hq.unseen _ _ _⟩
theorem Flat.writes {s : State} (hf : Flat s) (hq : Quiet s) (ha : (s.hart.acc .write true).flat) {va : W64} {n : Nat}
    (hv : va.toNat + n ≤ 0x40000000) (hn : 0 < n) (hp : va.toNat % 4096 + n ≤ 4096) : Writes s va n (spanKeys va n) s :=
  ⟨hf.reaches ha (by omega) hp, plain_range hv, fun k _ => ⟨fun _ => (hq.clean [k]).1 k (by simp) |>.1, hq.fits k⟩, seen_none hq.unseen _ _ _⟩
theorem Flat.fetches {s : State} (hf : Flat s) (hq : Quiet s) (ha : s.hart.fetchAcc.flat) {n : Nat} (hv : s.hart.pc.toNat + n ≤ 0x40000000) (hn : 0 < n)
    (hp : s.hart.pc.toNat % 4096 + n ≤ 4096) : FetchesPart s n s (s.keyBytes (spanKeys s.hart.pc n)) :=
  ⟨_, s, hf.reaches ha (by omega) hp, hq.clean _, hq.clean _, rfl, (afterRead_below s hv).symm⟩
theorem Flat.mapped {s : State} (hf : Flat s) {a : Acc} (ha : a.flat) {va : W64} {n : Nat} (hv : va.toNat + n ≤ 0x40000000) (hn : 0 < n) (hp : va.toNat % 4096 + n ≤ 4096) :
    Mapped s a va n (spanKeys va n) := by
  refine ⟨plain_range hv, nodup_range _ _, fun u e => Flat.reaches ?_ ha (by omega) hp⟩
  simp only [State.mapping, Prod.mk.injEq] at e
  obtain ⟨e1, e2, e3, e4, -⟩ := e
  refine ⟨e1.trans hf.tlb, e2.trans hf.utlb, e4.trans hf.dies, ?_⟩
  have := hf.owns
  unfold State.ownsDie State.pblock at this ⊢
  rw [e3]; exact this

end Sys2Proof.Machine
end

