-- ==== Sys2Proof/Laws/Vector.lean ====
section
/-! SUPPORT. The bodies of vector instructions on registers: where their operand checks hold they go on to their end and change only their destinations. -/
namespace Sys2Proof.Machine

variable {ws : List Nat} {gw : Option GReg} {out : Nat → Prop} {Q : Units} {s : State}

/-- The result of a body: it ends at the next instruction. -/
abbrev Runs (ws : List Nat) (gw : Option GReg) (out : Nat → Prop) (Q : Units) (s : State) (m : M Ctl) : Prop := ∃ t, m s = .ok Ctl.seq t ∧ Calm ws gw out Q s t

theorem Runs.of {m : M Ctl} (hl : Loose s) (hq : Q s.mxs s.hart.wins s.hart.strs) (h : Ends (Calm ws gw out Q s) m) : Runs ws gw out Q s m := h s (Calm.start hl hq)

/-- A body that begins by reading the hart. -/
theorem Runs.getH {f : Hart → M Ctl} (h : Runs ws gw out Q s (f s.hart)) : Runs ws gw out Q s (Machine.getH >>= f) := h
theorem Runs.getS {f : State → M Ctl} (h : Runs ws gw out Q s (f s)) : Runs ws gw out Q s (Machine.getS >>= f) := h

theorem readsThen {α : Type} {o : VOp} {t : Tag} {i q : Nat} {f : Nat → M α} (h : ∀ x, Keeps (Calm ws gw out Q s) (f x)) : Keeps (Calm ws gw out Q s) (readCode o t i q >>= f) :=
  (readCode_keeps o t i q).bind h
theorem hartThen {α : Type} {f : Hart → M α} (h : ∀ x, Keeps (Calm ws gw out Q s) (f x)) : Keeps (Calm ws gw out Q s) (getH >>= f) := Keeps.getH (fun u _ => h u.hart)
theorem stateThen {α : Type} {f : State → M α} (h : ∀ x, Keeps (Calm ws gw out Q s) (f x)) : Keeps (Calm ws gw out Q s) (getS >>= f) := Keeps.getS (fun u _ => h u)

/-! Element-wise arithmetic. -/

theorem binaryVV_ends {ints floats mk : Bool} {op : Tag → Csr → Nat → Nat → EOut} {d a b : Fld6} (hl : Loose s) (hq : Q s.mxs s.hart.wins s.hart.strs) (hs : SatOk ws s)
    (hd : VecDst ws s (s.hart.vop d) (s.hart.opTag (s.hart.vop d))) (hok : s.hart.binaryOk ints floats false d a b = true) :
    Runs ws gw out Q s (binaryVV ints floats op mk d a b) :=
  Runs.getH (Runs.of hl hq (Ends.check hok (Ends.last (elementwise_keeps hl hd hs (fun _ _ => readsThen fun _ => readsThen fun _ => hartThen fun _ => Keeps.pure _)))))

theorem binaryVX_ends {ints floats mk : Bool} {op : Tag → Csr → Nat → Nat → EOut} {d a : Fld6} {g : GReg} (hl : Loose s) (hq : Q s.mxs s.hart.wins s.hart.strs) (hs : SatOk ws s)
    (hd : VecDst ws s (s.hart.vop d) (s.hart.opTag (s.hart.vop d))) (hok : s.hart.unaryOk ints floats false d a = true) :
    Runs ws gw out Q s (binaryVX ints floats op mk d a g) :=
  Runs.getH (Runs.of hl hq (Ends.check hok (Ends.last (elementwise_keeps hl hd hs (fun _ _ => readsThen fun _ => hartThen fun _ => Keeps.pure _)))))

theorem unaryV_ends {ints mk : Bool} {op : Tag → Csr → Nat → EOut} {d b : Fld6} (hl : Loose s) (hq : Q s.mxs s.hart.wins s.hart.strs) (hs : SatOk ws s)
    (hd : VecDst ws s (s.hart.vop d) (s.hart.opTag (s.hart.vop d))) (hok : s.hart.unaryOk ints true false d b = true) : Runs ws gw out Q s (unaryV ints op mk d b) :=
  Runs.getH (Runs.of hl hq (Ends.check hok (Ends.last (elementwise_keeps hl hd hs (fun _ _ => readsThen fun _ => hartThen fun _ => Keeps.pure _)))))

theorem fmaV_ends {fi : Int → Int → Int → Int} {ff : Bool → Val → Val → Val → Val × W64} {mk : Bool} {d a b : Fld6} (hl : Loose s) (hq : Q s.mxs s.hart.wins s.hart.strs)
    (hs : SatOk ws s) (hd : VecDst ws s (s.hart.vop d) (s.hart.opTag (s.hart.vop d))) (hok : s.hart.fmaOk d a b = true) : Runs ws gw out Q s (fmaV fi ff mk d a b) := by
  have e : s.hart.opTag (s.hart.vop d) = s.hart.opTag (s.hart.vop a) := by
    unfold Hart.fmaOk at hok
    simp only [Bool.and_eq_true, beq_iff_eq] at hok
    exact hok.1.1.2
  rw [e] at hd
  exact Runs.getH (Runs.of hl hq (Ends.check hok (Ends.last (elementwise_keeps hl hd hs (fun _ _ =>
    readsThen fun _ => readsThen fun _ => readsThen fun _ => hartThen fun _ => Keeps.ite (fun _ => Keeps.pure _) (fun _ => Keeps.pure _))))))

theorem splatV_ends {mk : Bool} {d : Fld6} {g : GReg} (hl : Loose s) (hq : Q s.mxs s.hart.wins s.hart.strs)
    (hd : VecDst ws s (s.hart.vop d) (s.hart.opTag (s.hart.vop d))) (hok : s.hart.splatOk d = true) : Runs ws gw out Q s (splatV mk d g) :=
  Runs.getH (Runs.of hl hq (Ends.check (by unfold Hart.splatOk Hart.wholeOk at hok; exact hok) (Ends.last (codewise_keeps hd (fun _ _ => Keeps.pure _)))))

theorem moveV_ends {mk : Bool} {d b : Fld6} (hl : Loose s) (hq : Q s.mxs s.hart.wins s.hart.strs) (hs : SatOk ws s)
    (hd : VecDst ws s (s.hart.vop d) (s.hart.opTag (s.hart.vop d))) (hok : s.hart.moveOk d b = true) : Runs ws gw out Q s (moveV mk d b) := by
  refine Runs.getH (Runs.of hl hq (Ends.check hok ?_))
  refine Ends.ite (fun _ => ?_) (fun _ => Ends.ite (fun _ => ?_) (fun _ => ?_))
  · exact Ends.last (codewise_keeps hd (fun _ _ => readCode_keeps _ _ _ _))
  · exact Ends.last (elementwise_keeps hl hd hs (fun _ _ => (readVal_keeps _ _ _ _).bind fun _ => Keeps.pure _))
  · exact Ends.last (elementwise_keeps hl hd hs (fun _ _ => readsThen fun _ => Keeps.pure _))

/-! Compares. -/

theorem compareVV_ends {rel : Int → Bool} {ne mk : Bool} {d a b : Fld6} (hl : Loose s) (hq : Q s.mxs s.hart.wins s.hart.strs) (hd : 128 + d.toNat ∈ ws)
    (hok : s.hart.compareOk a b = true) : Runs ws gw out Q s (compareVV rel ne mk d a b) :=
  Runs.getH (Runs.of hl hq (Ends.check hok (Ends.last (maskwise_keeps hl hd (fun _ _ =>
    readsThen fun _ => readsThen fun _ => hartThen fun _ => (orFlags_keeps _).seq (Keeps.pure _))))))

theorem compareVX_ends {rel : Int → Bool} {ne mk : Bool} {d a : Fld6} {g : GReg} (hl : Loose s) (hq : Q s.mxs s.hart.wins s.hart.strs) (hd : 128 + d.toNat ∈ ws)
    (hok : s.hart.compareXOk a = true) : Runs ws gw out Q s (compareVX rel ne mk d a g) :=
  Runs.getH (Runs.of hl hq (Ends.check hok (Ends.last (maskwise_keeps hl hd (fun _ _ => readsThen fun _ => hartThen fun _ => (orFlags_keeps _).seq (Keeps.pure _))))))

theorem softCompare_ends {rel : Int → Bool} {less mk : Bool} {d a b : Fld6} (hl : Loose s) (hq : Q s.mxs s.hart.wins s.hart.strs) (hd : 128 + d.toNat ∈ ws)
    (hok : s.hart.compareOk a b = true) : Runs ws gw out Q s (softCompare rel less mk d a b) :=
  Runs.getH (Runs.of hl hq (Ends.check hok (Ends.last (maskwise_keeps hl hd (fun _ _ =>
    hartThen fun _ => readsThen fun _ => readsThen fun _ => Keeps.ite (fun _ => (orFlags_keeps _).seq (Keeps.pure _)) (fun _ => Keeps.pure _))))))

/-! Fixed point. -/

theorem and_left3 {a b c : Bool} (h : (a && b && c) = true) : c = true := by simp only [Bool.and_eq_true] at h; exact h.2

/-- A wide tag is no BX tag. -/
theorem wide_notBx {t u : Tag} (h : t.wide = some u) : u.isBx = false := by cases t <;> simp [Tag.wide] at h <;> subst h <;> rfl

theorem widen_ends {f : Int → Int → Int} {mk : Bool} {d a : Fld6} {srcs : List (VOp × Tag)} {y : Nat → M Nat} (hl : Loose s) (hq : Q s.mxs s.hart.wins s.hart.strs) (hs : SatOk ws s)
    (hd : VecDst ws s (s.hart.vop d 2) (s.hart.opTag (s.hart.vop d 2))) (hok : s.hart.widenOk d a srcs = true) (hy : ∀ i, Keeps (Calm ws gw out Q s) (y i)) :
    Runs ws gw out Q s (widen f mk (s.hart.vop d 2) (s.hart.vop a) (s.hart.opTag (s.hart.vop d 2)) (s.hart.opTag (s.hart.vop a)) srcs y) :=
  Runs.getH (Runs.of hl hq (Ends.check hok (Ends.last (elementwise_keeps hl hd hs (fun _ _ => readsThen fun _ => (hy _).bind fun _ => readsThen fun _ => Keeps.pure _)))))

theorem widenVV_ends {f : Int → Int → Int} {mk : Bool} {d a b : Fld6} (hl : Loose s) (hq : Q s.mxs s.hart.wins s.hart.strs) (hs : SatOk ws s)
    (hd : VecDst ws s (s.hart.vop d 2) (s.hart.opTag (s.hart.vop d 2))) (hok : s.hart.widenVVOk d a b = true) : Runs ws gw out Q s (widenVV f mk d a b) := by
  unfold Hart.widenVVOk at hok
  rw [Bool.and_eq_true] at hok
  obtain ⟨t, e, h⟩ := widen_ends (gw := gw) (out := out) (f := f) (mk := mk) (y := readCode (s.hart.vop b) (s.hart.opTag (s.hart.vop a))) hl hq hs hd hok.2 (fun _ => readCode_keeps _ _ _ _)
  refine ⟨t, ?_, h⟩
  rw [← e]
  show (check (s.hart.opTag (s.hart.vop b) == s.hart.opTag (s.hart.vop a)) (operandTrap qVq) >>= fun _ => _) s = _
  rw [hok.1]
  rfl

theorem widenVX_ends {f : Int → Int → Int} {mk : Bool} {d a : Fld6} {g : GReg} (hl : Loose s) (hq : Q s.mxs s.hart.wins s.hart.strs) (hs : SatOk ws s)
    (hd : VecDst ws s (s.hart.vop d 2) (s.hart.opTag (s.hart.vop d 2))) (hok : s.hart.widenVXOk d a = true) : Runs ws gw out Q s (widenVX f mk d a g) :=
  Runs.getH (widen_ends hl hq hs hd hok (fun _ => Keeps.pure _))

theorem narrowV_ends {mk : Bool} {d a : Fld6} {g : GReg} (hl : Loose s) (hq : Q s.mxs s.hart.wins s.hart.strs) (hs : SatOk ws s)
    (hd : VecDst ws s (s.hart.vop d) (s.hart.opTag (s.hart.vop d))) (hok : s.hart.narrowOk d a g = true) : Runs ws gw out Q s (narrowV mk d a g) :=
  Runs.getH (Runs.of hl hq (Ends.check hok (Ends.last (elementwise_keeps hl hd hs (fun _ _ => readsThen fun _ => hartThen fun _ => Keeps.pure _)))))

theorem clipV_ends {mk : Bool} {d a : Fld6} {g : GReg} (hl : Loose s) (hq : Q s.mxs s.hart.wins s.hart.strs) (hs : SatOk ws s)
    (hd : VecDst ws s (s.hart.vop d) (s.hart.opTag (s.hart.vop d))) (hok : s.hart.clipOk d a g = true) : Runs ws gw out Q s (clipV mk d a g) :=
  Runs.getH (Runs.of hl hq (Ends.check hok (Ends.last (elementwise_keeps hl hd hs (fun _ _ => readsThen fun _ => Keeps.pure _)))))

/-! Reductions and scans. -/

theorem readActive_keeps {A : VOp} {st : Tag} {mk : Bool} {n : Nat} : Keeps (Calm ws gw out Q s) (readActive A st mk n) :=
  Keeps.collect _ _ (fun _ _ _ => Keeps.atElem ((activeM_keeps _ _ _).bind fun _ => Keeps.ite (fun _ => readsThen fun _ => Keeps.pure _) (fun _ => Keeps.pure _)))

/-- A group of registers holds at least one element, and a mask register too. -/
theorem first_elem {o : VOp} {t : Tag} (d : DstOk ws s o) (hc : ∀ n c, o = .reg n c → 0 < c) : 0 < s.hart.opCount o t ∧ 0 < s.hart.em := by
  obtain ⟨n, c, rfl, _, _⟩ := d.reg
  obtain ⟨q, hq, hp⟩ := vcfgW_eq s.hart.csr.vcfg
  obtain ⟨r, hr, hrp⟩ := vcfgEm_eq s.hart.csr.vcfg
  have e : s.hart.vw = 1024 * q := hq
  have e2 : s.hart.em = 32 * r := hr
  refine ⟨?_, by omega⟩
  have h0 : 0 < c * q := Nat.mul_pos (hc n c rfl) hp
  show 0 < c * s.hart.vw * 8 / t.bits
  rw [e, Nat.mul_left_comm c]
  rcases t.bits_cases with h | h | h | h | h <;> rw [h.1] <;> omega

theorem vop_count {h : Hart} {f : Fld6} {m : Nat} (hm : 0 < m) : ∀ n c, h.vop f m = .reg n c → 0 < c := by
  intro n c e
  have := h.csr.lmul_le
  unfold Hart.vop at e
  split at e <;> cases e
  exact Nat.mul_pos hm (by omega)

theorem writeElem0_keeps {d : Fld6} {st : Tag} {r : EOut} (hl : Loose s) (hs : SatOk ws s) (hd : VecDst ws s (s.hart.vop d) (s.hart.opTag (s.hart.vop d))) :
    Keeps (Calm ws gw out Q s) (writeElem0 (s.hart.vop d) (s.hart.opTag (s.hart.vop d)) st r) := by
  have h0 := first_elem (t := s.hart.opTag (s.hart.vop d)) hd.dst (vop_count (by decide))
  refine Keeps.ite (fun hx => ?_) (fun _ => ?_)
  · have x := hd.bx hx
    exact (bxWrite_keeps hl hd.dst x hs (.inr rfl) (fun _ => Keeps.pure _) (fun _ _ => hartThen fun _ => Keeps.pure _)).seq ((tailFrom_keeps _ _ hd.dst).seq (tailFrom_keeps _ _ x.scale))
  · exact (Keeps.atElem (writeOut_keeps _ hd.dst h0.1 hs h0.2)).seq (tailFrom_keeps _ _ hd.dst)

theorem reduceV_ends {floats mk : Bool} {f : Csr → Tag → List (Option Nat) → EOut} {d a : Fld6} (hl : Loose s) (hq : Q s.mxs s.hart.wins s.hart.strs) (hs : SatOk ws s)
    (hd : VecDst ws s (s.hart.vop d) (s.hart.opTag (s.hart.vop d))) (hok : s.hart.unaryOk true floats true d a = true) : Runs ws gw out Q s (reduceV floats f mk d a) :=
  Runs.getH (Runs.of hl hq (Ends.check hok (Ends.last (withSources_keeps (readActive_keeps.bind fun _ => whenFull_keeps (hartThen fun _ => writeElem0_keeps hl hs hd))))))

theorem reduceOrdered_ends {mk : Bool} {d a b : Fld6} (hl : Loose s) (hq : Q s.mxs s.hart.wins s.hart.strs) (hs : SatOk ws s)
    (hd : VecDst ws s (s.hart.vop d) (s.hart.opTag (s.hart.vop d))) (hok : s.hart.binaryOk true true true d a b = true) : Runs ws gw out Q s (reduceOrdered mk d a b) :=
  Runs.getH (Runs.of hl hq (Ends.check hok (Ends.last (withSources_keeps (readActive_keeps.bind fun _ => (Keeps.atElem (readCode_keeps _ _ _ _)).bind fun _ =>
    whenFull_keeps (hartThen fun _ => writeElem0_keeps hl hs hd))))))

theorem scanV_ends {start : Tag → Val} {op : ScanOp} {mk : Bool} {d a : Fld6} (hl : Loose s)
    (hq : Q s.mxs s.hart.wins s.hart.strs) (hs : SatOk ws s) (hd : VecDst ws s (s.hart.vop d) (s.hart.opTag (s.hart.vop d))) (hok : s.hart.unaryOk true true true d a = true) :
    Runs ws gw out Q s (scanV start op mk d a) :=
  Runs.getH (Runs.of hl hq (Ends.check hok (Ends.bind readActive_keeps fun _ => Ends.last (elementwiseOn_keeps hl hd hs (fun _ _ =>
    Keeps.ite (fun _ => Keeps.pure _) (fun _ => readActive_keeps.bind fun _ => Keeps.pure _))))))

/-! Permutes. -/

theorem permOk_group {h : Hart} {D A : VOp} {t : Tag} {l : List (VOp × Tag)} (e : permOk h D A t l = true) : h.groupOk D t = true := by
  unfold permOk at e
  simp only [Bool.and_eq_true] at e
  exact e.1.1.2

theorem permTail_keeps {D : VOp} {t : Tag} (hd : DstOk ws s D) : Keeps (Calm ws gw out Q s) (permTail D t) := whenFull_keeps (hartThen fun _ => tailFrom_keeps _ _ hd)

theorem gatherV_ends {mk : Bool} {d a b : Fld6} (hl : Loose s) (hq : Q s.mxs s.hart.wins s.hart.strs) (hd : DstOk ws s (s.hart.vop d))
    (hv : s.hart.csr.vlN ≤ s.hart.opCount (s.hart.vop d) (s.hart.opTag (s.hart.vop d))) (hok : s.hart.gatherOk d a b = true) : Runs ws gw out Q s (gatherV mk d a b) :=
  Runs.getH (Runs.of hl hq (Ends.check hok (Ends.getS fun _ _ => Ends.last (withSources_keeps ((elementLoop_keeps (fun _ hi => (activeM_keeps _ _ _).bind fun _ => Keeps.ite
    (fun _ => readsThen fun _ => Keeps.ite (fun _ => readsThen fun _ => writeCode_keeps _ hd (by omega)) (fun _ => writeCode_keeps _ hd (by omega)))
    (fun _ => inactiveElem_keeps hd (by omega)))).seq (permTail_keeps hd))))))

theorem slideV_ends {up mk : Bool} {d a : Fld6} {g : GReg} (hl : Loose s) (hq : Q s.mxs s.hart.wins s.hart.strs) (hd : DstOk ws s (s.hart.vop d))
    (hv : s.hart.csr.vlN ≤ s.hart.opCount (s.hart.vop d) (s.hart.opTag (s.hart.vop d))) (hok : s.hart.copyOk d a = true) : Runs ws gw out Q s (slideV up mk d a g) := by
  refine Runs.getH (Runs.of hl hq (Ends.check hok (Ends.last (withSources_keeps ((elementLoop_keeps (fun _ hi => Keeps.ite (fun _ => Keeps.pure _)
    (fun _ => (activeM_keeps _ _ _).bind fun _ => Keeps.ite (fun _ => ?_) (fun _ => inactiveElem_keeps hd (by omega))))).seq (permTail_keeps hd))))))
  split
  · exact readsThen fun _ => writeCode_keeps _ hd (by omega)
  · exact writeCode_keeps _ hd (by omega)

theorem countBelow_le (ms : List Nat) (n : Nat) : countBelow ms n ≤ n := by
  unfold countBelow
  exact Nat.le_trans (List.length_filter_le _ _) (by rw [List.length_take]; exact Nat.min_le_left _ _)

theorem cleanMask_keeps (j i : Nat) : Keeps (Calm ws gw out Q s) (cleanMask j i) := Keeps.getH fun _ _ => needOwnClean_keeps _ _

theorem masks_keeps (j n i : Nat) : Keeps (Calm ws gw out Q s) (collect (peekMask j) n i) := Keeps.collect _ _ fun _ _ _ => peekMask_keeps _ _

theorem copyOk_mask {h : Hart} {d a : Fld6} {s : State} (hl : Loose s) (e : h = s.hart) (hok : h.copyOk d a = true) :
    (permOk h (h.vop d) (h.vop a) (h.opTag (h.vop d)) [(h.vop a, h.opTag (h.vop d))] && h.maskOk) = true := by
  subst e
  rw [Bool.and_eq_true]
  exact ⟨hok, decide_eq_true hl.vl⟩

theorem compressV_ends {d a b : Fld6} (hl : Loose s) (hq : Q s.mxs s.hart.wins s.hart.strs) (hd : DstOk ws s (s.hart.vop d))
    (hv : s.hart.csr.vlN ≤ s.hart.opCount (s.hart.vop d) (s.hart.opTag (s.hart.vop d))) (hok : s.hart.copyOk d a = true) : Runs ws gw out Q s (compressV d a b) :=
  Runs.getH (Runs.of hl hq (Ends.check (copyOk_mask hl rfl hok) (Ends.bind (masks_keeps _ _ _) fun ms => Ends.last (withSources_keeps ((elementLoop_keeps fun j hj =>
    (cleanMask_keeps _ _).seq (Keeps.ite (fun _ => readsThen fun _ => writeCode_keeps _ hd (by have := countBelow_le ms j; omega)) (fun _ => Keeps.pure _))).seq
      (whenFull_keeps (tailFrom_keeps _ _ hd)))))))

theorem expandV_ends {d a b : Fld6} (hl : Loose s) (hq : Q s.mxs s.hart.wins s.hart.strs) (hd : DstOk ws s (s.hart.vop d))
    (hv : s.hart.csr.vlN ≤ s.hart.opCount (s.hart.vop d) (s.hart.opTag (s.hart.vop d))) (hok : s.hart.copyOk d a = true) : Runs ws gw out Q s (expandV d a b) :=
  Runs.getH (Runs.of hl hq (Ends.check (copyOk_mask hl rfl hok) (Ends.bind (masks_keeps _ _ _) fun _ => Ends.last (withSources_keeps ((elementLoop_keeps fun _ hi =>
    (cleanMask_keeps _ _).seq (Keeps.ite (fun _ => readsThen fun _ => writeCode_keeps _ hd (by omega)) (fun _ => inactiveElem_keeps hd (by omega)))).seq (permTail_keeps hd))))))

theorem moveOut_keeps (o : VOp) (t : Tag) (i q : Nat) : Keeps (Calm ws gw out Q s) (moveOut o t i q) :=
  Keeps.ite (fun _ => (readVal_keeps _ _ _ _).bind fun _ => Keeps.pure _) (fun _ => readsThen fun _ => Keeps.pure _)

theorem mergeV_ends {d a b : Fld6} (hl : Loose s) (hq : Q s.mxs s.hart.wins s.hart.strs) (hs : SatOk ws s)
    (hd : VecDst ws s (s.hart.vop d) (s.hart.opTag (s.hart.vop d))) (hok : s.hart.mergeOk d a b = true) : Runs ws gw out Q s (mergeV d a b) := by
  have hv := hd.vl
  have hm := hl.vl
  have hp : ∀ (A B : VOp) (i : Nat), Keeps (Calm ws gw out Q s) (do return if activeCode (← readMask 0 i) then A else B) := fun _ _ _ => (readMask_keeps _ _ _).bind fun _ => Keeps.pure _
  refine Runs.getH (Runs.of hl hq (Ends.check hok (Ends.getS fun _ _ => Ends.last (withSources_keeps (Keeps.ite (fun hx => ?_) (fun _ => ?_))))))
  · exact bxLoop_keeps hl hd.dst (hd.bx hx) hs (fun _ => Keeps.pure _) (fun _ _ => (hp _ _ _).bind fun _ => (moveOut_keeps _ _ _ _).bind fun _ => hartThen fun _ => Keeps.pure _)
  · exact (elementLoop_keeps (fun _ hi => (hp _ _ _).bind fun _ => Keeps.ite
      (fun _ => readsThen fun _ => (drawIf_keeps _ _).bind fun _ => writeCode_keeps _ hd.dst (by omega))
      (fun _ => (moveOut_keeps _ _ _ _).bind fun _ => (drawIf_keeps _ _).bind fun _ => hartThen fun _ => writeRounded_keeps _ hd.dst (by omega) (fun _ => ⟨hs, by omega⟩)))).seq
      (permTail_keeps hd.dst)

theorem idV_ends {mk : Bool} {d : Fld6} (hl : Loose s) (hq : Q s.mxs s.hart.wins s.hart.strs) (hs : SatOk ws s)
    (hd : VecDst ws s (s.hart.vop d) (s.hart.opTag (s.hart.vop d))) (hok : s.hart.numberOk d = true) : Runs ws gw out Q s (idV mk d) :=
  Runs.getH (Runs.of hl hq (Ends.check hok (Ends.last (elementwise_keeps hl hd hs (fun _ _ => Keeps.pure _)))))

theorem needMask_keeps {j n : Nat} {mk : Bool} : Keeps (Calm ws gw out Q s) (needMask j mk n) :=
  (Keeps.collect _ _ (fun _ _ _ => (activeM_keeps _ _ _).bind fun _ => Keeps.ite (fun _ => (readMask_keeps _ _ _).bind fun _ => Keeps.pure _) (fun _ => Keeps.pure _))).bind
    fun _ => Keeps.pure _

theorem iotaV_ends {mk : Bool} {d a : Fld6} (hl : Loose s) (hq : Q s.mxs s.hart.wins s.hart.strs) (hs : SatOk ws s)
    (hd : VecDst ws s (s.hart.vop d) (s.hart.opTag (s.hart.vop d))) (hok : s.hart.iotaOk d a = true) : Runs ws gw out Q s (iotaV mk d a) := by
  unfold Hart.iotaOk at hok
  rw [Bool.and_eq_true] at hok
  have h : (srcOk true true (s.hart.opTag (s.hart.vop d)) && s.hart.groupOk (s.hart.vop d) (s.hart.opTag (s.hart.vop d)) && s.hart.maskOk && s.hart.csr.ovfMask != some a.toNat) = true := by
    rw [Bool.and_eq_true, Bool.and_eq_true]; exact ⟨⟨hok.1, decide_eq_true hl.vl⟩, hok.2⟩
  exact Runs.getH (Runs.of hl hq (Ends.check h (Ends.bind needMask_keeps fun _ => Ends.last (elementwiseOn_keeps hl hd hs (fun _ _ =>
    Keeps.ite (fun _ => (Keeps.pure _).bind fun _ => Keeps.pure _) (fun _ => needMask_keeps.bind fun _ => Keeps.pure _))))))

theorem insV_ends {d : Fld6} {a g : GReg} (hl : Loose s) (hq : Q s.mxs s.hart.wins s.hart.strs) (hd : DstOk ws s (s.hart.vop d)) (hok : s.hart.pickOk d = true) :
    Runs ws gw out Q s (insV d a g) :=
  Runs.getH (Runs.of hl hq (Ends.check hok (Ends.ite (fun h => Ends.last (whenFull_keeps (writeCode_keeps _ hd h))) (fun _ => Ends.pure))))

/-- What vtrans8 asks of its eight registers. -/
theorem trans8_regs {d : Fld6} (hok : s.hart.trans8Ok d = true) : ∀ j, j < 8 → s.hart.groupOk (trans8Reg d.toNat j) (s.hart.vreg d.toNat).tag = true := by
  intro j hj
  unfold Hart.trans8Ok at hok
  simp only [Bool.and_eq_true] at hok
  have := List.all_eq_true.1 hok.2 j (List.mem_range.2 hj)
  simp only [Bool.and_eq_true] at this
  exact this.2

theorem trans8_dst {d : Fld6} (hw : ∀ j, j < 8 → d.toNat + j ∈ ws) (hok : s.hart.trans8Ok d = true) {j : Nat} (hj : j < 8) : DstOk ws s (trans8Reg d.toNat j) := by
  have h := trans8_regs hok j hj
  have hnv : s.hart.nv ≤ 64 := vcfgNv_le _
  unfold trans8Reg Hart.groupOk Hart.groupRegs at h
  simp only [Bool.and_eq_true, decide_eq_true_eq] at h
  refine ⟨⟨_, _, rfl, by omega, fun i hi => ?_⟩⟩
  have : i = 0 := by omega
  subst this
  exact hw j hj

theorem putSquare_keeps {d : Fld6} {b r : Nat} (hw : ∀ j, j < 8 → d.toNat + j ∈ ws) (hok : s.hart.trans8Ok d = true) (hr : 8 * b + r ≤ s.hart.csr.vlN) :
    ∀ (rows : List (List Nat)) (j : Nat), (∀ l, l ∈ rows → l.length ≤ r) → j + rows.length ≤ 8 →
      Keeps (Calm ws gw out Q s) (putSquare d.toNat (s.hart.vreg d.toNat).tag b rows j)
  | [], _, _, _ => Keeps.pure _
  | row :: rest, j, hl, hj => by
    simp only [List.length_cons] at hj
    have h0 := hl row List.mem_cons_self
    have hg := trans8_regs hok j (by omega)
    unfold Hart.groupOk at hg
    simp only [Bool.and_eq_true, decide_eq_true_eq] at hg
    exact (Keeps.overRange _ _ (fun k _ hk => writeCode_keeps _ (trans8_dst hw hok (by omega)) (by have := hg.2; omega))).seq
      (putSquare_keeps hw hok hr rest (j + 1) (fun l h => hl l (List.mem_cons_of_mem _ h)) (by omega))

theorem collect_all {α : Type} {f : Nat → M α} {p : α → Prop} (hf : ∀ i s t a, f i s = .ok a t → p a) : ∀ (n i : Nat) {s t : State} {l : List α}, collect f n i s = .ok l t → ∀ x, x ∈ l → p x
  | 0, _, _, _, _, h => by cases h; exact fun _ hx => absurd hx List.not_mem_nil
  | n + 1, i, _, _, _, h => by
    obtain ⟨a, u, h0, h⟩ := bind_ok h
    obtain ⟨r, v, h1, h⟩ := bind_ok h
    cases h
    intro x hx
    rcases List.mem_cons.1 hx with rfl | hx
    · exact hf _ _ _ _ h0
    · exact collect_all hf n (i + 1) h1 x hx

theorem atElem_ok {α : Type} {i : Nat} {m : M α} {s t : State} {a : α} (h : atElem i m s = .ok a t) : m s = .ok a t := by
  unfold atElem at h
  split at h
  · cases h; assumption
  · cases h

theorem trans8Block_keeps {d : Fld6} {b : Nat} (hw : ∀ j, j < 8 → d.toNat + j ∈ ws) (hok : s.hart.trans8Ok d = true) (hb : 8 * b < s.hart.csr.vlN) :
    Keeps (Calm ws gw out Q s) (trans8Block d.toNat (s.hart.vreg d.toNat).tag s.hart.csr.vlN b) := by
  have hmin : Nat.min 8 (s.hart.csr.vlN - 8 * b) ≤ 8 ∧ Nat.min 8 (s.hart.csr.vlN - 8 * b) ≤ s.hart.csr.vlN - 8 * b := ⟨Nat.min_le_left _ _, Nat.min_le_right _ _⟩
  refine Keeps.bind' (Keeps.atElem (Keeps.collect _ _ fun _ _ _ => Keeps.collect _ _ fun _ _ _ => readCode_keeps _ _ _ _)) (fun new hn => ?_)
  obtain ⟨u, v, hn⟩ := hn
  have hn := atElem_ok hn
  refine putSquare_keeps (r := Nat.min 8 (s.hart.csr.vlN - 8 * b)) hw hok (by omega) new 0 (fun l hl => ?_) ?_
  · exact collect_all (p := fun l => l.length ≤ Nat.min 8 (s.hart.csr.vlN - 8 * b)) (fun _ _ _ _ h => Nat.le_of_eq (collect_length _ _ h)) _ _ hn l hl
  · rw [collect_length _ _ hn]; omega

theorem trans8V_ends {d : Fld6} (hl : Loose s) (hq : Q s.mxs s.hart.wins s.hart.strs) (hw : ∀ j, j < 8 → d.toNat + j ∈ ws) (hok : s.hart.trans8Ok d = true) :
    Runs ws gw out Q s (trans8V d) := by
  have h1 := hok
  unfold Hart.trans8Ok at h1
  simp only [Bool.and_eq_true] at h1
  obtain ⟨⟨⟨⟨e1, e2⟩, e3⟩, e4⟩, e5⟩ := h1
  refine Runs.getH (Runs.of hl hq (Ends.check (by simp only [Bool.and_eq_true]; exact ⟨⟨e1, e2⟩, e3⟩) (Ends.check (by simp only [Bool.and_eq_true]; exact ⟨e4, e5⟩) (Ends.last (withSources_keeps ?_)))))
  have hbd : s.hart.bounds = { lo := s.hart.csr.estart.toNat, hi := s.hart.csr.vlN, full := true } := (Calm.start (ws := ws) (gw := gw) (out := out) hl hq).bounds
  have hw2 : Keeps (Calm ws gw out Q s) (whenFull (overRange (fun j => tailFrom (trans8Reg d.toNat j) (s.hart.vreg d.toNat).tag s.hart.csr.vlN) 8 0)) :=
    whenFull_keeps (Keeps.overRange _ _ (fun _ _ hj => tailFrom_keeps _ _ (trans8_dst hw hok (by omega))))
  rw [hbd]
  refine Keeps.ite (fun hlt => Keeps.seq (Keeps.overRange _ _ (fun b h1 h2 => trans8Block_keeps hw hok ?_)) hw2) (fun _ => hw2)
  simp only [if_true] at h1 h2 hlt
  omega

/-! Scalar results. -/

theorem writeG_keeps {d : GReg} {v : W64} : Keeps (Calm ws (some d) out Q s) (writeG d v) := by
  refine Keeps.modify (fun u h => ?_)
  by_cases e : d = 0
  · have : u.setG d v = u := by unfold State.setG Hart.setG; rw [if_pos e]; rfl
    rw [this]; exact h
  · have e2 : u.setG d v = u.setHart { u.hart with g := u.hart.g.set d.toNat v d.isLt } := by unfold State.setG Hart.setG; rw [if_neg e]
    rw [e2]
    refine h.next ⟨rfl, rfl, rfl, rfl, BitVec.and_self, fun r hr => ?_, fun _ => ⟨rfl, rfl, Nat.le_refl _, fun _ => rfl⟩,
      fun _ => ⟨rfl, Nat.le_refl _, fun _ => rfl⟩, fun _ h => h, fun _ h => h, fun _ h => h, fun _ _ _ => rfl, fun h => h⟩ h.loose.seen rfl rfl rfl rfl rfl rfl
    have hne : d.toNat ≠ r.toNat := fun x => hr (by rw [BitVec.eq_of_toNat_eq x])
    show Hart.gr _ r = Hart.gr _ r
    unfold Hart.gr
    split
    · rfl
    · exact Vector.getElem_set_ne d.isLt r.isLt hne

theorem extV_ends {d : GReg} {a : Fld6} {g : GReg} (hl : Loose s) (hq : Q s.mxs s.hart.wins s.hart.strs) (hok : s.hart.pickOk a = true) : Runs ws (some d) out Q s (extV d a g) :=
  Runs.getH (Runs.of hl hq (Ends.check hok (Ends.ite (fun _ => Ends.bind (readCode_keeps _ _ _ _) fun _ => Ends.last (whenFull_keeps writeG_keeps))
    (fun _ => Ends.last (whenFull_keeps writeG_keeps)))))

theorem popcM_ends {mk : Bool} {d : GReg} {a : Fld6} (hl : Loose s) (hq : Q s.mxs s.hart.wins s.hart.strs) : Runs ws (some d) out Q s (popcM mk d a) :=
  Runs.getH (Runs.of hl hq (Ends.check (decide_eq_true hl.vl) (Ends.bind needMask_keeps fun _ => Ends.last (withSources_keeps (whenFull_keeps writeG_keeps)))))

theorem firstM_ends {mk : Bool} {d : GReg} {a : Fld6} (hl : Loose s) (hq : Q s.mxs s.hart.wins s.hart.strs) : Runs ws (some d) out Q s (firstM mk d a) :=
  Runs.getH (Runs.of hl hq (Ends.check (decide_eq_true hl.vl) (Ends.bind needMask_keeps fun _ => Ends.last (withSources_keeps (whenFull_keeps writeG_keeps)))))

/-! Probability predicates. -/

theorem readFrac_keeps (j i : Nat) : Keeps (Calm ws gw out Q s) (readFrac j i) := (readMask_keeps _ _ _).bind fun _ => Keeps.pure _

theorem maskOk_now {u : State} (h : Calm ws gw out Q s u) : u.hart.maskOk = true := decide_eq_true h.loose.vl

theorem fromMasks_keeps {m : Nat} {mk : Bool} {js : List Nat} {f : Nat → M Nat} (hl : Loose s) (hd : 128 + m ∈ ws) (hf : ∀ i, i < s.hart.csr.vlN → Keeps (Calm ws gw out Q s) (f i)) :
    Keeps (Calm ws gw out Q s) (fromMasks m mk js f) := by
  exact Keeps.getH fun u hu => (Keeps.check (maskOk_now hu)).seq (maskwise_keeps hl hd hf)

theorem combineM_ends {f : Nat → Nat → Nat} {ind mk : Bool} {d a b : Fld6} (hl : Loose s) (hq : Q s.mxs s.hart.wins s.hart.strs) (hd : 128 + d.toNat ∈ ws) :
    Runs ws gw out Q s (combineM f ind mk d a b) :=
  Runs.getH (Runs.of hl hq (Ends.bind (Keeps.collect _ _ fun _ _ _ => Keeps.ite (fun _ => (peekMask_keeps _ _).bind fun _ => Keeps.pure _) (fun _ => Keeps.pure _)) fun _ =>
    Ends.seq (fromMasks_keeps hl hd fun _ _ => (readFrac_keeps _ _).bind fun _ => (readFrac_keeps _ _).bind fun _ =>
      Keeps.ite (fun _ => (orFlags_keeps _).bind fun _ => Keeps.pure _) (fun _ => (Keeps.pure ()).bind fun _ => Keeps.pure _))
    (Ends.last (whenFull_keeps (Keeps.ite (fun _ => orFlags_keeps _) (fun _ => Keeps.pure _))))))

theorem pnotM_ends {mk : Bool} {d b : Fld6} (hl : Loose s) (hq : Q s.mxs s.hart.wins s.hart.strs) (hd : 128 + d.toNat ∈ ws) : Runs ws gw out Q s (pnotM mk d b) :=
  Runs.of hl hq (Ends.last (fromMasks_keeps hl hd fun _ _ => (readFrac_keeps _ _).bind fun _ => Keeps.pure _))

theorem thresholdM_ends {mk : Bool} {d a : Fld6} (hl : Loose s) (hq : Q s.mxs s.hart.wins s.hart.strs) (hd : 128 + d.toNat ∈ ws) : Runs ws gw out Q s (thresholdM mk d a) :=
  Runs.of hl hq (Ends.last (fromMasks_keeps hl hd fun _ _ => (readFrac_keeps _ _).bind fun _ => Keeps.pure _))

theorem collapseM_ends {mk : Bool} {d a : Fld6} (hl : Loose s) (hq : Q s.mxs s.hart.wins s.hart.strs) (hd : 128 + d.toNat ∈ ws) : Runs ws gw out Q s (collapseM mk d a) := by
  have hv := hl.vl
  exact Runs.of hl hq (Ends.getH fun u hu => Ends.check (maskOk_now hu) (Ends.last (withSources_keeps ((elementLoop_keeps fun i hi => (activeM_keeps _ _ _).bind fun _ => Keeps.ite
    (fun _ => (readFrac_keeps _ _).bind fun _ => (draw16_keeps _).bind fun _ => writeMask_keeps _ hd (by omega))
    (fun _ => (draw16_keeps _).bind fun _ => inactiveMask_keeps hd (by omega))).seq (whenFull_keeps (hartThen fun _ => maskTailFrom_keeps _ hd))))))

theorem blendV_ends {d a b : Fld6} (hl : Loose s) (hq : Q s.mxs s.hart.wins s.hart.strs) (hs : SatOk ws s)
    (hd : VecDst ws s (s.hart.vop d) (s.hart.opTag (s.hart.vop d))) (hok : s.hart.blendOk d a b = true) : Runs ws gw out Q s (blendV d a b) := by
  have hv := hd.vl
  have hm := hl.vl
  exact Runs.getH (Runs.of hl hq (Ends.check (by rw [Bool.and_eq_true]; exact ⟨hok, decide_eq_true hl.vl⟩) (Ends.last (maskedLoop_keeps
    (fun i hi => (readFrac_keeps _ _).bind fun _ => readsThen fun _ => readsThen fun _ => (drawIf_keeps _ _).bind fun _ => Keeps.ite
      (fun _ => hartThen fun _ => writeRounded_keeps _ hd.dst (by omega) (fun _ => ⟨hs, by omega⟩))
      (fun _ => hartThen fun _ => writeRounded_keeps _ hd.dst (by omega) (fun _ => ⟨hs, by omega⟩)))
    (fun i hi => inactiveElem_keeps hd.dst (by omega)) (tailFrom_keeps _ _ hd.dst)))))

theorem bgradV_ends {mk : Bool} {d a b : Fld6} (hl : Loose s) (hq : Q s.mxs s.hart.wins s.hart.strs) (hs : SatOk ws s)
    (hd : VecDst ws s (s.hart.vop d) (s.hart.opTag (s.hart.vop d))) (hok : s.hart.blendOk d a b = true) : Runs ws gw out Q s (bgradV mk d a b) := by
  have hv := hd.vl
  have hm := hl.vl
  exact Runs.getH (Runs.of hl hq (Ends.check hok (Ends.last (maskedLoop_keeps
    (fun i hi => readsThen fun _ => readsThen fun _ => (drawIf_keeps _ _).bind fun _ => hartThen fun _ => writeRounded_keeps _ hd.dst (by omega) (fun _ => ⟨hs, by omega⟩))
    (fun i hi => inactiveElem_keeps hd.dst (by omega)) (tailFrom_keeps _ _ hd.dst)))))

theorem Runs.check {c : Bool} {e : Trap} {f : M Ctl} (h : c = true) (hf : Runs ws gw out Q s f) : Runs ws gw out Q s (Machine.check c e >>= fun _ => f) := by
  subst h; exact hf

theorem fromMask_runs {D : VOp} {dt : Tag} {mk : Bool} {j : Nat} {f : Nat → Nat → M Unit} {sat : Bool} (hl : Loose s) (hq : Q s.mxs s.hart.wins s.hart.strs) (hd : DstOk ws s D)
    (hg : s.hart.groupOk D dt = true) (hv : s.hart.csr.vlN ≤ s.hart.opCount D dt) (hf : ∀ i p, i < s.hart.csr.vlN → Keeps (Calm ws gw out Q s) (f i p)) :
    Runs ws gw out Q s (do fromMask D dt mk j f sat; return .seq) := by
  have h := Ends.last (maskedLoop_keeps (Q := Q) (gw := gw) (out := out) (dst := .vec D dt) (mk := mk) (srcs := [.mask j]) (q := qVq) (sat := sat) (reads := fun i => [i]) (act := fun i => do
      let p ← readFrac j i
      f i p) (inact := inactiveElem D dt) (tail := tailFrom D dt s.hart.csr.vlN) (fun i hi => (readFrac_keeps j i).bind fun p => hf i p hi)
    (fun i hi => inactiveElem_keeps hd (Nat.lt_of_lt_of_le hi hv)) (tailFrom_keeps dt s.hart.csr.vlN hd))
  obtain ⟨t, e, ht⟩ := h s (Calm.start hl hq)
  refine ⟨t, ?_, ht⟩
  rw [← e]
  have hc : (s.hart.groupOk D dt && s.hart.maskOk) = true := by rw [Bool.and_eq_true]; exact ⟨hg, decide_eq_true hl.vl⟩
  show ((Machine.check (s.hart.groupOk D dt && s.hart.maskOk) (operandTrap qVq) >>= fun _ => _) >>= fun _ => _) s = _
  rw [hc]
  rfl

theorem whole_of {h : Hart} {f : Fld6} {c : Bool} (e : (c && h.wholeOk f) = true) : c = true ∧ h.groupOk (h.vop f) (h.opTag (h.vop f)) = true := by
  rw [Bool.and_eq_true] at e; exact e

theorem gradV_ends {mk : Bool} {d a : Fld6} (hl : Loose s) (hq : Q s.mxs s.hart.wins s.hart.strs) (hs : SatOk ws s)
    (hd : VecDst ws s (s.hart.vop d) (s.hart.opTag (s.hart.vop d))) (hok : s.hart.gradOk d = true) : Runs ws gw out Q s (gradV mk d a) := by
  have hv := hd.vl
  have hm := hl.vl
  exact Runs.getH (Runs.check (whole_of hok).1 (fromMask_runs hl hq hd.dst (whole_of hok).2 hd.vl fun _ _ hi => hartThen fun _ => Keeps.ite
    (fun _ => writeCode_keeps _ hd.dst (by omega)) (fun _ => writeOut_keeps _ hd.dst (by omega) hs (by omega))))

theorem gradStV_ends {mk : Bool} {d a : Fld6} (hl : Loose s) (hq : Q s.mxs s.hart.wins s.hart.strs) (hd : DstOk ws s (s.hart.vop d))
    (hv : s.hart.csr.vlN ≤ s.hart.opCount (s.hart.vop d) (s.hart.opTag (s.hart.vop d))) (hok : s.hart.gradOk d = true) : Runs ws gw out Q s (gradStV mk d a) :=
  Runs.getH (Runs.check (whole_of hok).1 (fromMask_runs hl hq hd (whole_of hok).2 hv fun _ _ hi => writeCode_keeps _ hd (by omega)))

theorem convertCode_keeps (st dt : Tag) (c : Nat) : Keeps (Calm ws gw out Q s) (convertCode st dt c) := by
  unfold convertCode
  exact (drawIf_keeps _ _).bind fun _ => hartThen fun _ => Keeps.pure _

theorem pmovToV_ends {mk : Bool} {d a : Fld6} (hl : Loose s) (hq : Q s.mxs s.hart.wins s.hart.strs) (hs : SatOk ws s)
    (hd : VecDst ws s (s.hart.vop d) (s.hart.opTag (s.hart.vop d))) (hok : s.hart.pmovOk d = true) : Runs ws gw out Q s (pmovToV mk d a) := by
  have hv := hd.vl
  have hm := hl.vl
  exact Runs.getH (Runs.check (whole_of hok).1 (fromMask_runs hl hq hd.dst (whole_of hok).2 hd.vl fun _ _ hi => (convertCode_keeps _ _ _).bind fun _ =>
    writeRounded_keeps _ hd.dst (by omega) (fun _ => ⟨hs, by omega⟩)))

theorem pmovToM_ends {mk : Bool} {d a : Fld6} (hl : Loose s) (hq : Q s.mxs s.hart.wins s.hart.strs) (hs : SatOk ws s) (hd : 128 + d.toNat ∈ ws) (hok : s.hart.pmovOk a = true) :
    Runs ws gw out Q s (pmovToM mk d a) := by
  have hm := hl.vl
  refine Runs.getH (Runs.of hl hq (Ends.check (by rw [Bool.and_eq_true, Bool.and_eq_true]; exact ⟨whole_of hok, decide_eq_true hl.vl⟩) (Ends.last (maskedLoop_keeps
    (fun i hi => readsThen fun x => ?_) (fun i hi => inactiveMask_keeps hd (by omega)) (maskTailFrom_keeps _ hd)))))
  have hw : ∀ r : Rounded, Keeps (Calm ws gw out Q s) (do
      writeMask d.toNat i r.code
      orFlags r.flags
      if r.sat then saturate i else pure ()) := fun r => (writeMask_keeps _ hd (by omega)).seq ((orFlags_keeps _).seq (Keeps.ite (fun _ => saturate_keeps hs (by omega)) (fun _ => Keeps.pure _)))
  exact Keeps.ite (fun _ => (Keeps.pure _).bind hw) (fun _ => (convertCode_keeps _ _ _).bind hw)

end Sys2Proof.Machine
end

