-- ==== Sys2Proof/Tests/Slice0.lean ====
section
/-! SUPPORT. Tests: every instruction's word, terms that are not well-formed, one step of some instructions, and for each statement with hypotheses a state that meets them. -/
namespace Sys2Proof.Tests
open Sys2Proof hiding leBytes bit
open Sys2Proof.Machine
set_option maxRecDepth 100000

/-! Words: for every instruction that has one, a word with its operands in the places the encoding table gives them: (bits, word, instruction). -/

/-- A table word of so many bits decodes to the instruction. -/
noncomputable def readsAs (p : Nat × Nat × Instr) : Bool := decodeTableWord p.1 p.2.1 == some p.2.2

/-- Words add to popc. -/
theorem test_words_00 : ([
   (32, 0x002FE501, .add 11 31 5),
   (32, 0x00B6A201, .sub 13 21 2),
   (32, 0x010F7201, .and 3 27 18),
   (32, 0x01919301, .or 4 12 19),
   (32, 0x020BD101, .xor 2 30 17),
   (32, 0x029C4301, .sll 7 2 3),
   (32, 0x0339C301, .srl 14 14 3),
   (32, 0x03A07201, .sra 8 3 18),
   (32, 0x04385B01, .slt 14 2 27),
   (32, 0x04CC9F01, .sltu 19 4 31),
   (32, 0x0522B501, .min 8 21 21),
   (32, 0x05CFE201, .max 19 31 2),
   (32, 0x064E6D01, .minu 19 19 13),
   (32, 0x06890201, .maxu 2 8 2),
   (32, 0x084B8501, .mul 18 28 5),
   (32, 0x08A9C501, .mulh 10 14 5),
   (32, 0x09489301, .mulhu 18 4 19),
   (32, 0x0A2A5B01, .div 10 18 27),
   (32, 0x0AD8C401, .divu 22 6 4),
   (32, 0x0B4E7501, .rem 19 19 21),
   (32, 0x0B9D8401, .remu 7 12 4),
   (32, 0x10025701, .clz 18 23),
   (32, 0x10807301, .ctz 3 19),
   (32, 0x11005401, .popc 2 20)] : List (Nat × Nat × Instr)).all readsAs = true := by decide

/-- Words addi to ldHu. -/
theorem test_words_01 : ([
   (32, 0x34BE1605, .addi 3375 16 22),
   (64, 0x89ABCDEF00024E07, .addiLong 18 14 2309737967),
   (32, 0xC6FD6F09, .andi 12735 11 15),
   (64, 0x89ABCDEF00027E0B, .andiLong 19 30 2309737967),
   (32, 0x74058A0D, .ori 7425 12 10),
   (64, 0x89ABCDEF00011A0F, .oriLong 8 26 2309737967),
   (32, 0x2E0AF911, .xori 2946 23 25),
   (64, 0x89ABCDEF00010313, .xoriLong 8 3 2309737967),
   (32, 0x93115115, .slti 9412 10 17),
   (64, 0x89ABCDEF00021D17, .sltiLong 16 29 2309737967),
   (32, 0x005B0F19, .slli 22 24 15),
   (32, 0x404E8319, .srli 19 20 3),
   (32, 0x80222E19, .srai 8 17 14),
   (32, 0x2A3C191D, .lih 2703 25),
   (64, 0x89ABCDEF00000B1F, .lihLong 11 2309737967),
   (32, 0x26EFD021, .liw 2491 30 16),
   (64, 0x89ABCDEF0001C223, .liwLong 14 2 2309737967),
   (32, 0xF682C331, .ldB 986 22 3),
   (64, 0x89ABCDEF00033233, .ldBLong 25 18 2309737967),
   (32, 0x92C75D31, .ldBu 587 26 29),
   (64, 0x89ABCDEF00076B33, .ldBuLong 27 11 2309737967),
   (32, 0x574AEC31, .ldH 349 23 12),
   (64, 0x89ABCDEF000A9033, .ldHLong 20 16 2309737967),
   (32, 0x948F4F31, .ldHu 594 26 15)] : List (Nat × Nat × Instr)).all readsAs = true := by decide

/-- Words ldHuLong to ldA. -/
theorem test_words_02 : ([
   (64, 0x89ABCDEF000C7B33, .ldHuLong 3 27 2309737967),
   (32, 0x1813E931, .ldW 96 31 9),
   (64, 0x89ABCDEF00121733, .ldWLong 16 23 2309737967),
   (32, 0xAA546231, .ldWu 681 3 2),
   (64, 0x89ABCDEF00171733, .ldWuLong 24 23 2309737967),
   (32, 0x4F9AB331, .ldD 318 21 19),
   (64, 0x89ABCDEF001ADB33, .ldDLong 22 27 2309737967),
   (32, 0x725D5731, .ldDA8 457 10 23),
   (64, 0x89ABCDEF001DBD33, .ldDA8Long 13 29 2309737967),
   (32, 0xAB618131, .stB 685 12 1),
   (64, 0x89ABCDEF0023EF33, .stBLong 31 15 2309737967),
   (32, 0x5B24D431, .stH 364 6 20),
   (64, 0x89ABCDEF00249033, .stHLong 4 16 2309737967),
   (32, 0x0F68F931, .stW 61 7 25),
   (64, 0x89ABCDEF00294533, .stWLong 10 5 2309737967),
   (32, 0xBD6D0D31, .stD 757 8 13),
   (64, 0x89ABCDEF002DBE33, .stDLong 13 30 2309737967),
   (32, 0xDF720331, .stDA8 893 16 3),
   (64, 0x89ABCDEF0030CF33, .stDA8Long 6 15 2309737967),
   (32, 0x67364831, .ldQA16 412 18 8),
   (64, 0x89ABCDEF0037A433, .ldQA16Long 29 4 2309737967),
   (32, 0xD1F9DC31, .stQA16 839 14 28),
   (64, 0x89ABCDEF003A4833, .stQA16Long 18 8 2309737967),
   (32, 0x31819635, .ldA 3 3 12 22)] : List (Nat × Nat × Instr)).all readsAs = true := by decide

/-- Words ldALong to amoSwapA16. -/
theorem test_words_03 : ([
   (64, 0x89ABCDEF3183E837, .ldALong 3 3 31 8 2309737967),
   (32, 0x91806635, .stR 1 3 3 6),
   (64, 0x89ABCDEF91811637, .stRLong 1 3 8 22 2309737967),
   (32, 0x05861B3D, .amoAdd 1 3 1 16 27 true),
   (64, 0x89ABCDEF09A8253F, .amoAddLong 2 3 10 1 5 true 2309737967),
   (32, 0x1DB2933D, .amoAnd 3 3 12 20 19 true),
   (64, 0x89ABCDEF15DF913F, .amoAndLong 1 3 23 28 17 true 2309737967),
   (32, 0x29F7993D, .amoOr 2 3 29 28 25 true),
   (64, 0x89ABCDEF29B5A43F, .amoOrLong 2 3 13 13 4 true 2309737967),
   (32, 0x3DB4473D, .amoXor 3 3 13 2 7 true),
   (64, 0x89ABCDEF35BCC43F, .amoXorLong 1 3 15 6 4 true 2309737967),
   (32, 0x4D88813D, .amoMin 3 3 2 4 1 true),
   (64, 0x89ABCDEF4D93EC3F, .amoMinLong 3 3 4 31 12 true 2309737967),
   (32, 0x55F0F43D, .amoMax 1 3 28 7 20 true),
   (64, 0x89ABCDEF55D53F3F, .amoMaxLong 1 3 21 9 31 true 2309737967),
   (32, 0x6DB2043D, .amoMinu 3 3 12 16 4 true),
   (64, 0x89ABCDEF69BE103F, .amoMinuLong 2 3 15 16 16 true 2309737967),
   (32, 0x7594983D, .amoMaxu 1 3 5 4 24 true),
   (64, 0x89ABCDEF7DA61B3F, .amoMaxuLong 3 3 9 16 27 true 2309737967),
   (32, 0x8D84FF3D, .amoSwap 3 3 1 7 31 true),
   (64, 0x89ABCDEF85DE5E3F, .amoSwapLong 1 3 23 18 30 true 2309737967),
   (32, 0x9DAABC3D, .amoCas 3 3 10 21 28 true),
   (64, 0x89ABCDEF9DF1313F, .amoCasLong 3 3 28 9 17 true 2309737967),
   (32, 0xA5B3283D, .amoSwapA16 1 3 12 25 8)] : List (Nat × Nat × Instr)).all readsAs = true := by decide

/-- Words amoSwapA16Long to csrs. -/
theorem test_words_04 : ([
   (64, 0x89ABCDEFADCB303F, .amoSwapA16Long 3 3 18 25 16 2309737967),
   (32, 0xB9D1143D, .amoCasA16 2 3 20 8 20),
   (64, 0x89ABCDEFB5E91A3F, .amoCasA16Long 1 3 26 8 26 2309737967),
   (32, 0x0C00004D, .fence 3),
   (32, 0x2C34BE4D, .fenceX 3 52 95),
   (32, 0x4C69074D, .wfm 3 26 8 7),
   (32, 0x6000094D, .waitq 9),
   (32, 0x7E280C41, .beq 8074 12),
   (64, 0x00000015BB240143, .beqLong 11977 1 21),
   (32, 0xFD582141, .bne 16214 1),
   (64, 0x00000015CA482943, .bneLong 12946 9 21),
   (32, 0x78E84941, .blt 7738 9),
   (64, 0x0000001531945743, .bltLong 3173 23 21),
   (32, 0x9AEC7F41, .bge 9915 31),
   (64, 0x0000001558246F43, .bgeLong 5641 15 21),
   (32, 0xCF009E41, .bltu 13248 30),
   (64, 0x00000015B9208C43, .bltuLong 11848 12 21),
   (32, 0xF47CAC41, .bgeu 15647 12),
   (64, 0x0000001514A0A843, .bgeuLong 1320 8 21),
   (32, 0x1A28C841, .jalr 1674 8),
   (64, 0x000000157858C743, .jalrLong 7702 7 21),
   (32, 0x56760745, .jal 177072 7),
   (32, 0x5EE69D49, .csrw 1977 20 29),
   (32, 0xA7136149, .csrs 2500 27 1)] : List (Nat × Nat × Instr)).all readsAs = true := by decide

/-- Words csrc to vandVx. -/
theorem test_words_05 : ([
   (32, 0xDEB3D549, .csrc 1964 30 21),
   (32, 0x00000049, .ecall),
   (32, 0x00800049, .tret),
   (32, 0x01300049, .brk 12),
   (32, 0x01800049, .halt),
   (32, 0x02000049, .yield),
   (32, 0x04035549, .glaunch 26 21),
   (32, 0x04800049, .gexit),
   (32, 0x05000049, .gbar),
   (32, 0x080F6049, .tlbiVa 3 27),
   (32, 0x08580149, .tlbiAs 22),
   (32, 0x08000249, .tlbiAll),
   (32, 0xC33BB151, .vaddVv true true 51 46 49),
   (32, 0xC1D31C55, .vaddVx true true 29 12 28),
   (32, 0xC74F7F51, .vsubVv true true 52 61 63),
   (32, 0xC2DC3D55, .vsubVx true true 13 48 61),
   (32, 0xC8B24251, .vmulVv true true 11 9 2),
   (32, 0xC5AA8A55, .vmulVx true true 26 42 10),
   (32, 0xCCA92451, .vminVv true true 10 36 36),
   (32, 0xC61D3F55, .vminVx true true 1 52 63),
   (32, 0xD1CE0D51, .vmaxVv true true 28 56 13),
   (32, 0xC8939355, .vmaxVx true true 9 14 19),
   (32, 0xD518DB51, .vandVv true true 17 35 27),
   (32, 0xCBEC1755, .vandVx true true 30 48 23)] : List (Nat × Nat × Instr)).all readsAs = true := by decide

/-- Words vorVv to vfnma. -/
theorem test_words_06 : ([
   (32, 0xDB5EF951, .vorVv true true 53 59 57),
   (32, 0xCD184255, .vorVx true true 17 33 2),
   (32, 0xDE707251, .vxorVv true true 39 1 50),
   (32, 0xCE57E855, .vxorVx true true 5 31 40),
   (32, 0xE15B2251, .vsllVv true true 21 44 34),
   (32, 0xD1D90455, .vsllVx true true 29 36 4),
   (32, 0xE520F251, .vsrlVv true true 18 3 50),
   (32, 0xD320B155, .vsrlVx true true 18 2 49),
   (32, 0xE95A3F51, .vsraVv true true 21 40 63),
   (32, 0xD4F86355, .vsraVx true true 15 33 35),
   (32, 0xEED8B951, .vmulhVv true true 45 34 57),
   (32, 0xD7B74955, .vmulhVx true true 27 29 9),
   (32, 0xF1A75551, .vsaddVv true true 26 29 21),
   (32, 0xD8E14E55, .vsaddVx true true 14 5 14),
   (32, 0xF7AC8A51, .vssubVv true true 58 50 10),
   (32, 0xDA9E4955, .vssubVx true true 9 57 9),
   (32, 0xFB0F4751, .vavgVv true true 48 61 7),
   (32, 0xDC6AF655, .vavgVx true true 6 43 54),
   (32, 0xFEE72151, .vdivVv true true 46 28 33),
   (32, 0xDEE35755, .vdivVx true true 14 13 23),
   (32, 0xE1801855, .vsplat true true 24 24),
   (32, 0xC2479D59, .vfma true true 36 30 29),
   (32, 0xC568A859, .vfms true true 22 34 40),
   (32, 0xC88EF359, .vfnma true true 8 59 51)] : List (Nat × Nat × Instr)).all readsAs = true := by decide

/-- Words vsqrt to vwmacVx. -/
theorem test_words_07 : ([
   (32, 0xCC645259, .vsqrt true true 6 17 18),
   (32, 0xD12C4959, .vrcp true true 18 49 9),
   (32, 0xD5A2A359, .vrsq true true 26 10 35),
   (32, 0xD8648459, .vexp true true 6 18 4),
   (32, 0xDFA15259, .vlog2 true true 58 5 18),
   (32, 0xE3444659, .vabs true true 52 17 6),
   (32, 0xE51E0859, .vneg true true 17 56 8),
   (32, 0xE9691B59, .vnot true true 22 36 27),
   (32, 0xEC38AE59, .vmov true true 3 34 46),
   (32, 0xC3F2D15D, .vcmpEqVv true true 63 11 17),
   (32, 0xC4DF145D, .vcmpNeVv true true 13 60 20),
   (32, 0xC937615D, .vcmpLtVv true true 19 29 33),
   (32, 0xCD7D025D, .vcmpLeVv true true 23 52 2),
   (32, 0xD010AF5D, .vcmpGtVv true true 1 2 47),
   (32, 0xD50F1D5D, .vcmpGeVv true true 16 60 29),
   (32, 0xC1682361, .vcmpEqVx true true 22 32 35),
   (32, 0xC373BF61, .vcmpNeVx true true 23 14 63),
   (32, 0xC47DB961, .vcmpLtVx true true 7 54 57),
   (32, 0xC6CFC461, .vcmpLeVx true true 12 63 4),
   (32, 0xC83A7061, .vcmpGtVx true true 3 41 48),
   (32, 0xCA610661, .vcmpGeVx true true 6 4 6),
   (32, 0xC2742D71, .vwmacVv true true 39 16 45),
   (32, 0xC5E30B71, .vsad true true 30 12 11),
   (32, 0xC0145875, .vwmacVx true true 1 17 24)] : List (Nat × Nat × Instr)).all readsAs = true := by decide

/-- Words vnshr to mfirst. -/
theorem test_words_08 : ([
   (32, 0xC280FE75, .vnshr true true 8 3 62),
   (32, 0xC4C30175, .vclip true true 12 12 1),
   (32, 0xC0019F79, .vredSum true true 6 31),
   (32, 0xC4042179, .vredMax true true 16 33),
   (32, 0xC8047579, .vredMin true true 17 53),
   (32, 0xCC06A679, .vredAnd true true 26 38),
   (32, 0xD0009479, .vredOr true true 2 20),
   (32, 0xD469BE79, .vredoSum true true 6 38 62),
   (32, 0xD80C5579, .vscanAdd true true 49 21),
   (32, 0xDC04EF79, .vscanMax true true 19 47),
   (32, 0xE00D7679, .vscanMin true true 53 54),
   (32, 0xE7B8B179, .vrgather true true 59 34 49),
   (32, 0xAB5B2679, .vcompress true 53 44 38),
   (32, 0xAC608379, .vexpand true 6 2 3),
   (32, 0xF2963E79, .vmergeM true 41 24 62),
   (32, 0xB4001979, .vtrans8 true 25),
   (32, 0xC000297D, .vid true true 41),
   (32, 0xC208117D, .viota true true 32 17),
   (32, 0xC5A1707D, .vslideup true true 26 5 48),
   (32, 0xC78C1F7D, .vslidedn true true 24 48 31),
   (32, 0x89A15C7D, .vext true 26 5 28),
   (32, 0x8A86317D, .vins true 8 24 49),
   (32, 0xCC0C157D, .mpopc true true 48 21),
   (32, 0xCE0DCD7D, .mfirst true true 55 13)] : List (Nat × Nat × Instr)).all readsAs = true := by decide

/-- Words vld to vamoSwap. -/
theorem test_words_09 : ([
   (32, 0xCE302781, .vld true true true true true 3 39),
   (64, 0x89ABCDEFCE101F83, .vldLong true true true true true 1 31 2309737967),
   (32, 0xDF641381, .vlds true true true true true 22 16 19),
   (64, 0x89ABCDEFDFD48D83, .vldsLong true true true true true 29 18 13 2309737967),
   (32, 0xEEF17581, .vldx true true true true true 15 5 53),
   (64, 0x89ABCDEFEE398683, .vldxLong true true true true true 3 38 6 2309737967),
   (32, 0xFFD06E81, .vldseg true true true true true 29 1 46),
   (64, 0x89ABCDEFFE108183, .vldsegLong true true true true true 1 2 1 2309737967),
   (32, 0xCEE01785, .vst true true true true true 14 23),
   (64, 0x89ABCDEFCEB03187, .vstLong true true true true true 11 49 2309737967),
   (32, 0xDFD61385, .vsts true true true true true 29 24 19),
   (64, 0x89ABCDEFDFC4C587, .vstsLong true true true true true 28 19 5 2309737967),
   (32, 0xEE413685, .vstx true true true true true 4 4 54),
   (64, 0x89ABCDEFEF154D87, .vstxLong true true true true true 17 21 13 2309737967),
   (32, 0xFF804485, .vstseg true true true true true 24 1 4),
   (64, 0x89ABCDEFFE214987, .vstsegLong true true true true true 2 5 9 2309737967),
   (32, 0x00641B89, .vldc 6 16 27),
   (32, 0xE29C3089, .vamoAdd true true true 9 48 48),
   (64, 0x89ABCDEFE2A7E48B, .vamoAddLong true true true 10 31 36 2309737967),
   (32, 0xE552C589, .vamoMax true true true 21 11 5),
   (64, 0x89ABCDEFE4FED68B, .vamoMaxLong true true true 15 59 22 2309737967),
   (32, 0xE7235089, .vamoMin true true true 18 13 16),
   (64, 0x89ABCDEFE721958B, .vamoMinLong true true true 18 6 21 2309737967),
   (32, 0xE9A94D89, .vamoSwap true true true 26 37 13)] : List (Nat × Nat × Instr)).all readsAs = true := by decide

/-- Words vamoSwapLong to lcsetLong. -/
theorem test_words_10 : ([
   (64, 0x89ABCDEFE8EC228B, .vamoSwapLong true true true 14 48 34 2309737967),
   (32, 0xD095B189, .vmcast true true 9 22 49),
   (32, 0x12200089, .vsave 2),
   (32, 0x15000089, .vrest 16),
   (32, 0xC0026C8D, .vpop true true 9 44),
   (32, 0xC204BA8D, .vpush true true 18 58),
   (32, 0x0080199D, .sbind 8 25),
   (32, 0x02001A9D, .sfree 26),
   (32, 0x01500091, .vcfg 21),
   (32, 0x0203DC91, .vtag 15 28),
   (32, 0x05F01491, .vwinV 31 20),
   (32, 0x07C03591, .vwinM 28 53),
   (32, 0x09C01F91, .vsetl 28 31),
   (32, 0x0A100091, .vloop 1),
   (32, 0x0C412791, .vnext 16679),
   (32, 0x0E200E91, .vflat 2 14),
   (32, 0x100B9991, .vrgn 46 25),
   (32, 0x01D03495, .winset 29 52),
   (32, 0x02001F95, .winclr 31),
   (32, 0x04003E95, .winclrD 62),
   (32, 0x06002695, .winwait 38),
   (32, 0x08002095, .winflush 32),
   (32, 0x0A115A95, .lcset 1 5 26),
   (64, 0x89ABCDEF0BEF3C97, .lcsetLong 30 60 60 2309737967)] : List (Nat × Nat × Instr)).all readsAs = true := by decide

/-- Words lcadv to pmovV. -/
theorem test_words_11 : ([
   (32, 0x0DB8B795, .lcadv 27 34 55),
   (64, 0x89ABCDEF0CFFDD97, .lcadvLong 15 63 29 2309737967),
   (32, 0x0E041A95, .lcrd 16 26),
   (32, 0x1001C895, .winq 7 8),
   (32, 0xC761FD99, .vldw true true 3 22 7 61),
   (32, 0xE790C199, .vstw true true 3 25 3 1),
   (32, 0xC25EC3A1, .vscmpLt true true 37 59 3),
   (32, 0xC69462A1, .vscmpLe true true 41 17 34),
   (32, 0xC87154A1, .vscmpGt true true 7 5 20),
   (32, 0xCD13F3A1, .vscmpGe true true 17 15 51),
   (32, 0xD2351EA1, .pandInd true true 35 20 30),
   (32, 0xD6ADB9A1, .pandPos true true 42 54 57),
   (32, 0xDA2424A1, .pandNeg true true 34 16 36),
   (32, 0xE3E6EEA1, .porInd true true 62 27 46),
   (32, 0xE42360A1, .porPos true true 2 13 32),
   (32, 0xE913EBA1, .porNeg true true 17 15 43),
   (32, 0xF0F803A1, .pnot true true 15 32 3),
   (32, 0xF6E6D8A1, .pblendM true 46 27 24),
   (32, 0xC00074A5, .pcoll true true 1 52),
   (32, 0xC403A0A5, .pthr true true 14 32),
   (32, 0xC80CB5A5, .pgrad true true 50 53),
   (32, 0xCC078FA5, .pgradSt true true 30 15),
   (32, 0xD07F68A5, .pbgrad true true 7 61 40),
   (32, 0xD40E8FA5, .pmovV true true 58 15)] : List (Nat × Nat × Instr)).all readsAs = true := by decide

/-- Words pmovM to cVmov. -/
theorem test_words_12 : ([
   (32, 0xD80EEBA5, .pmovM true true 59 43),
   (32, 0xD3C344A9, .xpa true true false true 60 13 4),
   (32, 0xD7F50AA9, .xps true true false true 63 20 10),
   (32, 0xDAE08CA9, .xpaI true true false true 46 2 12),
   (32, 0xCFABB9A9, .xpaS true true 58 46 57),
   (32, 0x00B000AD, .mxon 11),
   (32, 0x020000AD, .mxoff),
   (32, 0x04002FAD, .mzero 47),
   (32, 0x463F0BAD, .mrdV true 3 60 11),
   (32, 0x08B346AD, .mrdG 11 13 6),
   (32, 0x4A252BAD, .mwr true 2 20 43),
   (32, 0x0D8376AD, .mld 24 13 54),
   (32, 0x0EC2DDAD, .mst 12 11 29),
   (32, 0x4001C1B1, .enq true 7 1),
   (16, 0x1A40, .cVadd 3 18),
   (16, 0x1AE2, .cVsub 3 23),
   (16, 0x77C4, .cVmul 14 62),
   (16, 0xE906, .cVfma 29 8),
   (16, 0x97C8, .cVmin 18 62),
   (16, 0xC9CA, .cVmax 25 14),
   (16, 0x6AEC, .cVand 13 23),
   (16, 0xCEAE, .cVor 25 53),
   (16, 0x56B0, .cVxor 10 53),
   (16, 0xD392, .cVmov 26 28)] : List (Nat × Nat × Instr)).all readsAs = true := by decide

/-- Words cVabs to cVavg. -/
theorem test_words_13 : ([
   (16, 0x1894, .cVabs 3 4),
   (16, 0xBBF6, .cVneg 23 31),
   (16, 0x3B18, .cVsadd 7 24),
   (16, 0x977A, .cVssub 18 59),
   (16, 0x79BC, .cVavg 15 13)] : List (Nat × Nat × Instr)).all readsAs = true := by decide

/-! The small states of the tests: a supervisor hart at 0x10000 with the first GiB of DRAM mapped onto itself. -/

/-- The partition block of the tests: die 0. -/
def testBlock : PBlock := { dies := 1, astb := 0x1000, ctxp := 0, srec := 0, ns := 0, share := 0, pstat := 0 }
def flat : State := { State.reset with hart := loadHart, gangs := [loadGang], nextGang := 2, parts := [(0, testBlock)], tlb := [flatEntry 0, flatEntry 1, flatEntry 7] }
/-- The focus hart changed. -/
def onHart (f : Hart → Hart) : State := { flat with hart := f flat.hart }
/-- The control registers changed. -/
def onCsr (f : Csr → Csr) : State := onHart (fun h => { h with csr := f h.csr })
/-- With g1 and g2 set. -/
def withG (a b : W64) : State := onHart (fun h => (h.setG 1 a).setG 2 b)
/-- A trap handler stands at 0x20000. -/
def handled : State := onCsr (fun c => { c with tvec := 0x20000 })
/-- In user mode. -/
def asUser : State := onHart (fun h => { h with sup := false })
/-- The last bytes of a page, and the addresses of an access there. -/
def edge : W64 := 0x2FFF0

theorem flat_flat : Flat flat := ⟨rfl, rfl, rfl, rfl⟩
theorem flat_onHart (f : Hart → Hart) : Flat (onHart f) := ⟨rfl, rfl, rfl, flat_flat.owns⟩
theorem flat_acc (k : AKind) (d : Bool) (c : Option Nat) : Acc.flat { kind := k, dev := d, peer := true, part := 0, asid := 0, user := false, die := 0, core := c } := ⟨rfl, rfl, rfl, by simp⟩
theorem flat_of (h : Hart) (k : AKind) (d : Bool) (h1 : h.part = 0) (h2 : h.asid = 0) (h3 : h.sup = true) (h4 : h.id = 0) : (h.acc k d).flat :=
  ⟨h1, h2, by simp [Hart.acc, h3], by simp [Hart.acc, Hart.die, h4]⟩
/-- Bytes in DRAM: (address, size, value), at rising addresses. -/
def holding (s : State) (l : List (Nat × Nat × Nat)) : State :=
  { s with mem := { cells := (l.flatMap (fun e => (leBytes e.2.1 e.2.2).mapIdx (fun j b => (e.1 + j, b)))).filter (fun c => c.2 != 0) } }
theorem flat_holding {s : State} (h : Flat s) (l : List (Nat × Nat × Nat)) : Flat (holding s l) := ⟨h.tlb, h.utlb, h.dies, h.owns⟩
/-- A value of the next state of an instruction. -/
def after {α : Type} (i : Instr) (s : State) (f : State → α) : Option α := match exec i s with | .next t => some (f t) | _ => none

/-! Hypotheses that are met, statement by statement. -/

/-- Instructions that can run alone, each at its state, with what it asks of its operands. -/
theorem all_ready {l : List (State × Instr × Bool)} (h : l.all (fun p => readyB p.2.1 p.1 && p.2.2) = true) : ∀ p, p ∈ l → Ready p.2.1 p.1 ∧ p.2.2 = true := fun p hp =>
  let g := Bool.and_eq_true_iff.1 (List.all_eq_true.1 h p hp)
  ⟨ready_of g.1, g.2⟩
/-- Of an access that needs no walk no walk meets an error. -/
theorem soundWalk_of {s : State} {a : Acc} {va : W64} {n : Nat} (h1 : s.needsWalk a va.toNat = false)
    (h2 : s.needsWalk a (va + BitVec.ofNat 64 (4096 - va.toNat % 4096)).toNat = false ∨ n ≤ 4096 - va.toNat % 4096) : SoundWalk s a va n :=
  ⟨fun h => absurd (h1.symm.trans h) (by decide), fun hn h => h2.elim (fun e => absurd (e.symm.trans h) (by decide)) (fun e => absurd hn (by omega))⟩

theorem quiet_onHart (f : Hart → Hart) : Quiet (onHart f) := ⟨rfl, rfl, rfl, rfl, rfl, rfl⟩
/-- The hart of the small states reads, writes and fetches DRAM as it stands. -/
theorem reads_edge (a b : W64) (k : AKind) (d : Bool) {n : Nat} (hn : edge.toNat % 4096 + n ≤ 4096) : Reads (withG a b) k d edge n (spanKeys edge n) (withG a b) :=
  (flat_onHart _).reads (quiet_onHart _) (flat_of _ _ _ rfl rfl rfl rfl) (by decide) hn
theorem writes_edge (a b : W64) {n : Nat} (h0 : 0 < n) (hn : edge.toNat % 4096 + n ≤ 4096) : Writes (withG a b) edge n (spanKeys edge n) (withG a b) :=
  (flat_onHart _).writes (quiet_onHart _) (flat_of _ _ _ rfl rfl rfl rfl) (by have : edge.toNat = 0x2FFF0 := rfl; omega) h0 hn
theorem meets_ScalarLoads : (withG edge 0).gr 1 + (0 : BitVec 10).signExtend 64 * BitVec.ofNat 64 16 = edge ∧ Reads (withG edge 0) .read true edge 16 (spanKeys edge 16) (withG edge 0)
    ∧ edge.toNat % 16 = 0 := ⟨by decide, reads_edge _ _ _ _ (by decide), by decide⟩
theorem meets_ScalarStores : Writes (withG edge 0) edge 16 (spanKeys edge 16) (withG edge 0) ∧ edge.toNat % 16 = 0 := ⟨writes_edge _ _ (by decide) (by decide), by decide⟩
theorem meets_AcquireRelease : ((3 : BitVec 3).toNat ≤ 3 ∧ Writes (withG edge 0) edge 8 (spanKeys edge 8) (withG edge 0) ∧ edge.toNat % 8 = 0) ∧ Reads (withG edge 0) .read true edge 16 (spanKeys edge 16) (withG edge 0) :=
  ⟨⟨by decide, writes_edge _ _ (by decide) (by decide), by decide⟩, reads_edge _ _ _ _ (by decide)⟩
theorem meets_AtomicOperations : Reaches (withG edge 0) .amo true edge 16 (spanKeys edge 16) (withG edge 0) ∧ Plain (spanKeys edge 16) ∧ Clean (withG edge 0) (spanKeys edge 16) ∧ edge.toNat % 16 = 0 :=
  ⟨(flat_onHart _).reaches (flat_acc ..) (by decide) (by decide), plain_range (a := edge.toNat) (by decide), (quiet_onHart _).clean _, by decide⟩

/-- Poison in the unit at `edge`, and a bit error there that can be corrected. -/
def poisoned : State := { withG edge 0 with poison := [0x2FFE0] }
def erring : State := { withG edge 0 with flaws := [{ point := 1, first := 0x2FFE0, fatal := false }] }
theorem meets_ScalarAccessTraps : (0x2FFF7 : W64).toNat % 8 ≠ 0 ∧ (2 : BitVec 3).toNat ≤ 4
    ∧ (SoundWalk flat (flat.hart.acc .read true) 0x100000000000000 8 ∧ ∃ f, flat.resolveSpan (flat.hart.acc .read true) 0x100000000000000 8 = .error f)
    ∧ (poisoned.withErrors poisoned = poisoned ∧ Reaches poisoned .read true edge 8 (spanKeys edge 8) poisoned ∧ Plain (spanKeys edge 8) ∧ Sound poisoned (spanKeys edge 8) ∧ (spanKeys edge 8)[0]? = some 0x2FFF0 ∧ isRegSpace 0x2FFF0 = false
      ∧ poisoned.poisoned 0x2FFF0 = true)
    ∧ (Reaches erring .read true edge 8 (spanKeys edge 8) erring ∧ Plain (spanKeys edge 8) ∧ Seen erring erring.hart.id pathLS (spanKeys edge 8) ∧ erring.checks = [] ∧ erring.poison = []
      ∧ (∃ k ∈ spanKeys edge 8, (Flaw.mk 1 0x2FFE0 false).covers k = true) ∧ ∀ k ∈ spanKeys edge 8, erring.inBoundWindow k = false) :=
  ⟨by decide, by decide, ⟨soundWalk_of (by decide) (.inr (by decide)), _, rfl⟩,
    ⟨rfl, Flat.reaches ⟨rfl, rfl, rfl, rfl⟩ (flat_acc ..) (va := edge) (n := 8) (by decide) (by decide), plain_range (a := edge.toNat) (by decide), sound_none rfl rfl _, by decide, by decide, by decide⟩,
    Flat.reaches ⟨rfl, rfl, rfl, rfl⟩ (flat_acc ..) (va := edge) (n := 8) (by decide) (by decide), plain_range (a := edge.toNat) (by decide), seen_none rfl _ _ _, rfl, rfl, by decide,
    fun _ hk => below_bound _ (span_below (by decide) hk)⟩
/-- The hart with an accepted COPY, which has not been performed. -/
def owing : State := { flat with engines := [{ bytes := 1, part := 0, asid := 0, die := 0, hart := 0, gang := 1, user := false }] }
/-- The word at `edge` holds 0; a hart waits for it to differ from 0, or goes on as it differs from 1. -/
theorem meets_FencesAndWaits : Reads (withG edge 1) .read false edge 4 (spanKeys edge 4) (withG edge 1) ∧ edge.toNat % 4 = 0
    ∧ leNat ((withG edge 1).pathBytes pathLS (spanKeys edge 4)) ≠ 1 ∧ leNat ((withG edge 0).pathBytes pathLS (spanKeys edge 4)) = 0
    ∧ (onHart (fun h => { h with wait := .wfm 2 1 3 })).hart.wait = .wfm 2 1 3
    ∧ flat.owes allPaths = false ∧ owing.owes allPaths = true ∧ (3 : BitVec 7) ≠ 0 ∧ owing.owes (pathsOf 0x7F) = true ∧ owing.owes (pathsOf 1) = false :=
  ⟨reads_edge _ _ _ _ (by decide), by decide, by decide, by decide, rfl, by decide, by decide, by decide, by decide, by decide⟩

/-- Words at the PC. -/
def coded (w : Nat) : State := { flat with mem := { cells := (leBytes 8 w).mapIdx (fun j b => (0x10000 + j, b)) |>.filter (fun c => c.2 != 0) } }
theorem flat_coded (w : Nat) : Flat (coded w) := ⟨rfl, rfl, rfl, flat_flat.owns⟩
theorem quiet_coded (w : Nat) : Quiet (coded w) := ⟨rfl, rfl, rfl, rfl, rfl, rfl⟩
theorem coded_part (w : Nat) {n : Nat} (h : 0 < n) (hn : n ≤ 8) : FetchesPart (coded w) n (coded w) ((coded w).keyBytes (spanKeys 0x10000 n)) :=
  (flat_coded w).fetches (quiet_coded w) (flat_of _ _ _ rfl rfl rfl rfl) (n := n) (show 0x10000 + n ≤ 0x40000000 by omega) h (show 0x10000 % 4096 + n ≤ 4096 by omega)
theorem coded_fetched (w : Nat) (h : lengthOf (leNat ((coded w).keyBytes (spanKeys 0x10000 2))) = 4) : Fetched (coded w) (coded w) ((coded w).keyBytes (spanKeys 0x10000 4)) :=
  ⟨(by show (0x10000 : W64).getLsbD 0 = false; decide), _, _, coded_part w (n := 2) (by decide) (by decide), .inr ⟨by rw [h]; decide, by rw [h]; exact coded_part w (by decide) (by decide)⟩⟩
/-- Poison under the second halfword of the instruction at the PC, which is the first of a unit. -/
def split : State := { holding (onHart (fun h => { h with pc := 0x1001E })) [(0x1001E, 2, 5)] with poison := [0x10020] }
theorem split_clean : Clean split (spanKeys 0x1001E 2) := ⟨sound_none rfl rfl _, by decide⟩
theorem meets_StepRunsDecoded :
    (MyTurn (coded 0x01500405) ∧ Fetched (coded 0x01500405) (coded 0x01500405) ((coded 0x01500405).keyBytes (spanKeys 0x10000 4))
      ∧ decode ((coded 0x01500405).keyBytes (spanKeys 0x10000 4)) = .ok (.addi 84 0 4, []) ∧ infoOf (.addi 84 0 4) (coded 0x01500405).hart = none)
    ∧ (MyTurn (coded 0xFFFFFFFD) ∧ Fetched (coded 0xFFFFFFFD) (coded 0xFFFFFFFD) ((coded 0xFFFFFFFD).keyBytes (spanKeys 0x10000 4))
      ∧ ∃ r, decode ((coded 0xFFFFFFFD).keyBytes (spanKeys 0x10000 4)) = .error r)
    ∧ (MyTurn (onHart (fun h => { h with pc := 1 })) ∧ (1 : W64).getLsbD 0 = true)
    ∧ (MyTurn (onHart (fun h => { h with pc := 0x100000000000000 })) ∧ SoundWalk flat flat.hart.fetchAcc 0x100000000000000 2 ∧ ∃ f, flat.resolveSpan flat.hart.fetchAcc 0x100000000000000 2 = .error f)
    ∧ (MyTurn split ∧ FetchesPart split 2 split (split.keyBytes (spanKeys 0x1001E 2)) ∧ lengthOf (leNat (split.keyBytes (spanKeys 0x1001E 2))) = 4
      ∧ split.withErrors split = split ∧ split.resolveSpan split.hart.fetchAcc split.hart.pc 4 = .ok (spanKeys 0x1001E 4, split) ∧ Sound split (spanKeys 0x1001E 4) ∧ split.firstPoison 0 (spanKeys 0x1001E 4) = some (2, 0x10020)) :=
  ⟨⟨⟨rfl, by decide, rfl⟩, coded_fetched _ (by decide), rfl, rfl⟩, ⟨⟨rfl, by decide, rfl⟩, coded_fetched _ (by decide), ⟨_, rfl⟩⟩,
    ⟨⟨rfl, by decide, rfl⟩, by decide⟩, ⟨⟨rfl, by decide, rfl⟩, soundWalk_of (by decide) (.inr (by decide)), _, rfl⟩, ⟨rfl, by decide, rfl⟩,
    ⟨_, split, Flat.reaches (va := 0x1001E) ⟨rfl, rfl, rfl, rfl⟩ (flat_acc ..) (by decide) (by decide), split_clean, split_clean, rfl, (afterRead_below split (va := 0x1001E) (n := 2) (by decide)).symm⟩, by decide, rfl,
    Flat.reaches (va := 0x1001E) ⟨rfl, rfl, rfl, rfl⟩ (flat_acc ..) (by decide) (by decide), sound_none rfl rfl _, by decide⟩
theorem meets_EncodeDecode : (Instr.xpa false true false true 63 31 5).wf = true := by decide
theorem meets_FetchTraps : HasHandler handled := ⟨by decide, by decide⟩
theorem meets_StepKeepsInvariant : MemInv (coded 0x01500405) ∧ ∃ t, step (coded 0x01500405) = .next t := ⟨by show (coded 0x01500405).mem.wf = true; decide, ⟨_, rfl⟩⟩
/-- v60 has not been written: the loose instruction that reads it traps at an element. -/
theorem meets_TrapEntry : Traps .ecall handled 0x0C 0 0 ∧ HasHandler handled
    ∧ exec (.vaddVv false false 60 60 1) handled = .next (handled.endWrites.takeTrap { cause := causeSchedule, tval := 0x3C01, elem := some 0, queue := 1, fatal := false }) := ⟨rfl, ⟨by decide, by decide⟩, rfl⟩
theorem meets_CallsAndBreaks : HasHandler handled := ⟨by decide, by decide⟩
/-- The gang with a done word at `edge`. -/
def doneGang : Gang := { loadGang with record := { loadGang.record with done := edge } }
def doneFlat : State := { flat with gangs := [doneGang] }
theorem meets_GangFaults : flat.gangOf flat.hart.gang = some loadGang ∧ ¬ HasHandler flat ∧ loadGang.record.done = 0 ∧ flat.owesCommands loadGang.id none allPaths = false
    ∧ exec .ecall flat = .next (flat.endWrites.takeTrap { cause := 0x0C, tval := 0, elem := none, queue := 0, fatal := false })
    ∧ owing.gangOf owing.hart.gang = some loadGang ∧ owing.owesCommands loadGang.id none allPaths = true
    ∧ doneFlat.gangOf doneFlat.hart.gang = some doneGang ∧ ¬ HasHandler doneFlat ∧ doneGang.record.done ≠ 0 ∧ doneFlat.owesCommands doneGang.id none allPaths = false
    ∧ Mapped doneFlat (doneGang.acc .write) edge 4 (spanKeys edge 4) ∧ doneFlat.checks = [] ∧ (∀ k ∈ spanKeys edge 4, doneFlat.inBoundWindow k = false)
    ∧ ∀ k, FrameFree flat loadGang.id k :=
  ⟨by decide, fun h => h.1 (by decide), by decide, by decide, rfl, by decide, by decide, by decide, fun h => h.1 (by decide), by decide, by decide,
    Flat.mapped (s := doneFlat) ⟨rfl, rfl, rfl, flat_flat.owns⟩ (flat_acc ..) (by decide) (by decide) (by decide), rfl, fun _ hk => below_bound _ (span_below (by decide) hk),
    fun _ f hf => absurd hf List.not_mem_nil⟩
/-- Within a handler, with an even and with an odd return address. -/
def handling (pc : W64) : State := onCsr (fun c => { c with tvec := 0x20000, tpc := pc, tstat := 3 })
theorem meets_TrapReturn : (handling 0x10002).hart.sup = true ∧ (handling 0x10002).hart.csr.tpc.getLsbD 0 = false ∧ (handling 0x10002).hart.bound = []
    ∧ (handling 0x10003).hart.csr.tpc.getLsbD 0 = true ∧ (handling 0x10003).hart.csr.tvec ≠ 0 := by decide
theorem meets_PrivilegeTraps : asUser.hart.sup = false := by decide
theorem meets_CsrTraps : csrAccess 0xFFF = none ∧ csrAccess 0x200 = some (.none, .rw) ∧ asUser.hart.sup = false ∧ csrAccess 0x003 = some (.ro, .ro) := by decide
theorem meets_CsrResults : flat.gangOf flat.hart.gang = some loadGang ∧ flat.hart.sup = true ∧ (1 : GReg) ≠ 0 ∧ noiseMode flat.hart.csr.noise ≠ 1 ∧ vtypeOk ((withG 0x2802 0).gr 1) = true
    ∧ vtypeOk ((withG 0x1F 0).gr 1) = false := by decide
theorem meets_HaltAndTlbi : flat.hart.sup = true ∧ flat.owes allPaths = false ∧ owing.hart.sup = true ∧ owing.owes allPaths = true := by decide

/-- The machine after the fence that `glaunch` begins with. -/
def launching : State := { withG 0x2FF80 0 with fences := 1 }
theorem meets_Launch : (0x2FF80 : W64).toNat % 128 = 0 ∧ (withG 0x2FF80 0).gr 1 = 0x2FF80 ∧ (withG 0x2FF80 0).orderPaths 0 (withG 0x2FF80 0).outstanding allPaths allPaths = launching
    ∧ Reads launching .read true 0x2FF80 128 (spanKeys 0x2FF80 128) launching ∧ (withG 0x2FF80 0).owes allPaths = false
    ∧ ((withG 0x2FFC0 0).gr 1).toNat % 128 ≠ 0 ∧ (owing.gr 1).toNat % 128 = 0 ∧ owing.owes allPaths = true :=
  ⟨by decide, by decide, by decide, Flat.reads (s := launching) ⟨rfl, rfl, rfl, flat_flat.owns⟩ ⟨rfl, rfl, rfl, rfl, rfl, rfl⟩ (flat_acc ..) (by decide) (by decide), by decide, by decide, by decide, by decide⟩

/-- Integer registers under one tag, VL set. -/
def tagged (tags : List Tag) (vl : W64) : State :=
  onHart (fun h => { h with vregs := h.vregs.mapIdx (fun n r => { r with tag := tags.getD n .f32 }), csr := { h.csr with vl := vl } })
theorem flat_tagged (ts : List Tag) (vl : W64) : Flat (tagged ts vl) := flat_onHart _
def floats : State := tagged [] 4
def words : State := tagged (List.replicate 8 .i32) 4
theorem meets_VectorArithmetic : ∀ p, p ∈ ([(words, .vaddVv false false 1 2 7, words.hart.binaryOk true true false 7 2 1), (words, .vsllVv true true 1 2 3, words.hart.binaryOk true false false 3 2 1),
      (floats, .vdivVx false true 4 2 7, floats.hart.unaryOk true true false 7 2), (floats, .vfma false true 1 2 3, floats.hart.fmaOk 3 2 1),
      (floats, .vsqrt false true 1 0 3, floats.hart.unaryOk false true false 3 1), (floats, .vmov false false 1 0 3, floats.hart.moveOk 3 1), (floats, .vsplat false false 1 3, floats.hart.splatOk 3),
      (words, .cVsadd 1 7, words.hart.binaryOk true false false 7 (BitVec.ofNat 6 words.hart.lastDest) 1)] : List (State × Instr × Bool)) → Ready p.2.1 p.1 ∧ p.2.2 = true := all_ready (by decide)
/-- v0 and v1 of 8 bits, v2 to v5 of 16. -/
def narrow : State := tagged [.i8, .i8, .i16, .i16, .i16, .i16] 4
theorem meets_ComparesAndFixedPoint : ∀ p, p ∈ ([(words, .vcmpEqVv false true 1 2 3, words.hart.compareOk 2 1), (floats, .vscmpLt false false 1 2 3, floats.hart.compareOk 2 1),
      (words, .vcmpLtVx false false 1 2 3, words.hart.compareXOk 2), (narrow, .vwmacVv false false 1 0 2, narrow.hart.widenVVOk 2 0 1), (narrow, .vwmacVx false false 1 0 2, narrow.hart.widenVXOk 2 0),
      (narrow, .vnshr false false 0 2 1, narrow.hart.narrowOk 1 2 0), (narrow, .vclip false false 0 2 1, narrow.hart.clipOk 1 2 0)] : List (State × Instr × Bool)) → Ready p.2.1 p.1 ∧ p.2.2 = true :=
  all_ready (by decide)
theorem meets_ReductionsAndPermutes : ∀ p, p ∈ ([(words, .vredSum false true 1 2, words.hart.unaryOk true true true 2 1), (floats, .vredoSum false false 1 2 3, floats.hart.binaryOk true true true 3 2 1),
      (words, .vrgather false false 1 2 3, words.hart.gatherOk 3 2 1), (words, .vslideup false false 1 2 3, words.hart.copyOk 3 2), (words, .vmergeM false 1 2 3, words.hart.mergeOk 3 2 1),
      (words, .vtrans8 false 0, words.hart.trans8Ok 0), (words, .vid false true 7, words.hart.numberOk 7), (words, .vins false 1 2 7, words.hart.pickOk 7), (words, .mpopc false true 3 4, true),
      (words, .mfirst false false 3 4, true), (words, .vext false 1 2 3, words.hart.pickOk 2), (words, .viota false false 1 7, words.hart.iotaOk 7 1)] : List (State × Instr × Bool)) →
    Ready p.2.1 p.1 ∧ p.2.2 = true := all_ready (by decide)
theorem meets_Probability : ∀ p, p ∈ ([(floats, .pandInd false true 1 2 3, true), (floats, .pblendM false 1 2 3, floats.hart.blendOk 3 2 1), (floats, .pgrad false true 1 3, floats.hart.gradOk 3),
      (floats, .pmovV false false 1 3, floats.hart.pmovOk 3), (floats, .pmovM false false 1 3, floats.hart.pmovOk 1)] : List (State × Instr × Bool)) → Ready p.2.1 p.1 ∧ p.2.2 = true := all_ready (by decide)

theorem meets_GangEndAndBarrier : flat.hart.bound = [] ∧ flat.gangOf flat.hart.gang = some loadGang ∧ loadGang.record.done = 0 ∧ (∀ h ∈ flat.parked, h.gang = loadGang.id → h.live = false)
    ∧ flat.hart.live = true ∧ flat.hart.barrier = loadGang.barriers ∧ flat.owes allPaths = false ∧ flat.hart.arrived ≠ some flat.hart.pc
    ∧ (onHart (fun h => { h with arrived := some h.pc })).hart.arrived = some flat.hart.pc
    ∧ (∀ h ∈ flat.parked, h.live = true → h.gang = loadGang.id → loadGang.barriers < h.barrier)
    ∧ ¬ (∀ h ∈ ({ flat with parked := [{ loadHart with id := 1 }] } : State).parked, h.live = true → h.gang = loadGang.id → loadGang.barriers < h.barrier) := by decide
/-- A tensor of 16 by 4 words at 0x21000, described at 0x20000. -/
def tensorAt : List (Nat × Nat × Nat) := [(0x20000, 8, 0x21000), (0x20008, 8, 0x0205), (0x20010, 8, 0x400000010), (0x20018, 8, 0x100000001), (0x20020, 8, 4), (0x20028, 8, 64)]
def tensor : Tdesc := { base := 0x21000, tag := .i32, rank := 2, dims := [16, 4, 1, 1], strides := [4, 64, 0, 0] }
def withTensor : State := holding (withG 0x20000 0) tensorAt
theorem meets_VectorConfiguration : flat.hart.inSpan = false ∧ flat.hart.vcfgOk (flat.gr 0) = true
    ∧ flat.hart.convoy = none ∧ flat.hart.span = none ∧ tagOf 5 = some .i32 ∧ tagOf 31 = none ∧ flat.hart.nv ≤ 32 ∧ (63 : Fld6).toNat - 60 < flat.hart.byp.length ∧ (7 : Fld6).toNat < flat.hart.nv
    ∧ (7 : Fld6).toNat < flat.hart.vregs.length ∧ flat.hart.vfld 7 = true ∧ flat.hart.vwinOk 0xFE000 flat.hart.vw (flat.hart.vecRanges.eraseIdx 7 ++ flat.hart.maskRanges) = true
    ∧ (3 : Fld6).toNat < flat.hart.nm ∧ (3 : Fld6).toNat < flat.hart.mregs.length
    ∧ flat.hart.vwinOk 0xE0000 (2 * flat.hart.em) (flat.hart.vecRanges ++ flat.hart.maskRanges.eraseIdx 3) = true
    ∧ (0x20000 : W64).toNat % 64 = 0 ∧ Reaches withTensor .read false (withTensor.gr 1) 64 (spanKeys 0x20000 64) withTensor ∧ Clean withTensor (spanKeys 0x20000 64)
    ∧ parseTdesc (withTensor.pathBytes pathLS (spanKeys 0x20000 64)) = some tensor ∧ (flatten tensor).1 < 2 ^ 64 ∧ (flatten tensor).2 < 2 ^ 64 :=
  ⟨by decide, by decide, rfl, rfl, by decide, by decide, by decide, by decide, by decide, by decide, by decide, rfl, by decide, by decide, by decide, by decide,
    (flat_holding (flat_onHart _) _).reaches (flat_acc ..) (va := 0x20000) (by decide) (by decide), clean_none rfl rfl rfl _, by decide, by decide, by decide⟩
theorem meets_SkipSpans : words.hart.convoy = none ∧ words.hart.inSpan = false ∧ (3 : Fld6).toNat < words.hart.nm ∧ words.hart.csr.vlN ≤ words.hart.em ∧ words.poison = [] ∧ words.flaws = [] ∧ words.checks = [] ∧ words.unseen = []
    ∧ (onHart (fun h => { h with span := some { left := 1, skip := true, members := [] } })).hart.inSpan = true := by decide
/-- g1 = 0x20000 and g2 = 8; v1 holds the index 8 twice. -/
def mixed : State := tagged [.u32, .u32, .u32, .i64, .i32, .i32, .i32, .i32] 2
def striding : State := { mixed with hart := (mixed.hart.setG 1 0x20000).setG 2 8 }
theorem flat_striding : Flat striding := ⟨rfl, rfl, rfl, flat_flat.owns⟩
theorem meets_VectorLoads : ([(.vld false false true true true 1 3, vldMem false true true true 1 3), (.vldLong false false false true false 1 4 8, vldLongMem false false true false 1 4 8),
      (.vlds false true true true true 1 2 3, vldsMem true true true true 1 2 3), (.vldsLong false false false false false 1 2 4 16, vldsLongMem false false false false 1 2 4 16),
      (.vldx false false false false false 1 2 4, vldxMem false false false false 1 2 4), (.vldxLong false true false true false 1 2 4 8, vldxLongMem true false true false 1 2 4 8),
      (.vldseg false false false false false 1 3 4, vldsegMem false false false false 1 3 4), (.vldsegLong false true false false false 1 1 4 8, vldsegLongMem true false false false 1 1 4 8)]
      : List (Instr × VMem)).all (fun p => goesB p.1 striding p.2) = true := by decide
theorem meets_VectorStores : ([(.vst false true true false false 1 4, vstMem true true false false 1 4), (.vstLong false false false false false 1 4 8, vstLongMem false false false false 1 4 8),
      (.vsts false true true false true 1 2 3, vstsMem true true false true 1 2 3), (.vstsLong false false false false false 1 2 4 16, vstsLongMem false false false false 1 2 4 16),
      (.vstx false false false false false 1 2 4, vstxMem false false false false 1 2 4), (.vstxLong false true false false false 1 2 4 8, vstxLongMem true false false false 1 2 4 8),
      (.vstseg false false false false false 1 3 4, vstsegMem false false false false 1 3 4), (.vstsegLong false true false false false 1 1 4 8, vstsegLongMem true false false false 1 1 4 8)]
      : List (Instr × VMem)).all (fun p => goesB p.1 striding p.2) = true := by decide

/-- A check of what issue knows of an instruction gives it. -/
theorem info_of {i : Instr} {s : State} (h : (infoOf i s.hart).any (fun v => apartB s.hart (v.reads ++ v.writes)) = true) : ∃ v, infoOf i s.hart = some v ∧ WindowsApart s (v.reads ++ v.writes) := by
  simp only [Option.any_eq_true] at h
  obtain ⟨v, h1, h2⟩ := h
  exact ⟨v, h1, windowsApart_of h2⟩
/-- The indices of v2 are 0: both elements at 0x20000. -/
theorem meets_VectorAtomicsAndCast :
    (∃ v, infoOf (.vamoAdd false false true 1 2 4) striding.hart = some v ∧ WindowsApart striding (v.reads ++ v.writes)) ∧ Ready (.vamoAdd false false true 1 2 4) striding ∧ vamoArithTag .i32 = true
    ∧ vamoSwapTag .i32 = true ∧ (striding.hart.opTag (striding.hart.vop 2)).isIndex = true ∧ striding.hart.opTag (striding.hart.vop 4) = .i32
    ∧ striding.hart.groupOk (striding.hart.vop 4) .i32 = true ∧ striding.hart.groupOk (striding.hart.vop 2) .u32 = true ∧ (striding.hart.vop 4).partly (striding.hart.vop 2) = false
    ∧ (∀ j, Works striding false j → Resident striding (striding.hart.acc .amo true) 0x20000 4 (spanKeys 0x20000 4) ∧ (0x20000 : W64).toNat % 4 = 0
      ∧ ∀ k, k ∈ spanKeys 0x20000 4 → ∀ r, ¬ striding.hart.inWindow r k)
    ∧ (let s := striding.setG 5 0x0003000000000000
      let v := (s.gr 5).toNat
      Ready (.vmcast false false 5 4 3) s ∧ bits v 38 10 = 0 ∧ bits v 23 9 = 0 ∧ s.hart.groupOk (s.hart.vop 4) .i32 = true ∧ bits v 48 16 ≠ 0 ∧ s.hart.csr.vl ≠ 0 ∧ s.ownsDie s.hart.part (bits v 32 6) = true
        ∧ bits v 0 23 % 4 = 0 ∧ bits v 0 23 + 2 * 4 ≤ 0x600000 ∧ Tag.i32.isBx = false ∧ s.castTarget 0 0 8 = true
        ∧ (∀ j i k, j < 16 → (Machine.bit v (48 + j) && s.castTarget j 0 8) = true → k ∈ (List.range 4).map (fun b => chamberKey (chamberAddr j (0 + i * 4 + b))) → i < 2 → ¬ s.hart.inWindow 131 k)
        ∧ ∀ ks, Seen s s.hart.id pathMX ks) := by
  refine ⟨info_of (by decide), ready_of (by decide), by decide, by decide, by decide, by decide, by decide, by decide, by decide,
    fun j _ => ⟨flat_striding.resident (flat_acc ..) (by decide) (by decide) (by decide), by decide, fun k hk => (span_free _ (by decide) hk).2⟩,
    ready_of (by decide), by decide, by decide, by decide, by decide, by decide, by decide, by decide, by decide, by decide, by decide, ?_, seen_none rfl _ _⟩
  intro j i k hj hc hk hi
  have : j = 0 := (show ∀ j, j < 16 → (Machine.bit ((striding.setG 5 0x0003000000000000).gr 5).toNat (48 + j) && (striding.setG 5 0x0003000000000000).castTarget j 0 8) = true → j = 0 by decide) j hj hc
  subst this
  obtain ⟨b, hb, rfl⟩ := List.mem_map.1 hk
  have := List.mem_range.1 hb
  refine outside_seat (h := (striding.setG 5 0x0003000000000000).hart) (.inl ?_)
  have : ((striding.setG 5 0x0003000000000000).hart.seat 131).1 = 458752 := by decide
  omega

/-- A frame of the reset configuration with nothing live, at 0x20000. -/
def frameAt : List (Nat × Nat × Nat) := [(0x20000, 8, 0), (0x20008, 8, 0x2802), (0x20010, 8, 4), (0x20018, 8, 192)]
    ++ (List.range 8).map (fun n => (0x20040 + 8 * n, 8, 8192 * n * 2 ^ 32 + 10 * 2 ^ 23)) ++ (List.range 4).map (fun j => (0x20080 + 8 * j, 8, (65536 + 131072 * j) * 2 ^ 32 + 16 * 2 ^ 23))
def framed : State := holding (withG 0x20000 0) frameAt
theorem flat_framed : Flat framed := flat_holding (flat_onHart _) _
def frame : List Byte := framed.pathBytes pathLS (spanKeys 0x20000 192)
theorem meets_SpillFrames : Ready (.vsave 1) framed ∧ (framed.gr 1).toNat % 64 = 0 ∧ framed.frameBytes.length = 192 ∧ Spans framed (framed.hart.acc .write false) 0x20000 192 (spanKeys 0x20000 192)
    ∧ Seen framed framed.hart.id pathLS (spanKeys 0x20000 192)
    ∧ (framed.hart.vregs.length = 64 ∧ framed.hart.mregs.length = 16 ∧ framed.hart.nv ≤ 64 ∧ framed.hart.nm ≤ 16
      ∧ (∀ j, j < 8 → (framed.hart.vreg j).base < 2 ^ 23 ∧ (framed.hart.vreg j).len < 2 ^ 23) ∧ ∀ j, j < 4 → (framed.hart.mreg j).base < 2 ^ 23 ∧ (framed.hart.mreg j).len < 2 ^ 23)
    ∧ Ready (.vrest 1) framed ∧ Spans framed (framed.hart.acc .read false) 0x20000 192 (spanKeys 0x20000 192) ∧ (frame.drop 32).take 32 = List.replicate 32 0 ∧ fieldAt frame 16 8 < 2 ^ 32
    ∧ vtypeOk (BitVec.ofNat 64 (fieldAt frame 8 8)) = true ∧ framed.hart.vcfgOk (BitVec.ofNat 64 (fieldAt frame 0 8)) = true
    ∧ framed.hart.frameOk 0 ((List.range 8).map (fun j => fieldAt frame (64 + 8 * j) 8)) ((List.range 4).map (fun j => fieldAt frame (64 + 8 * (8 + j)) 8)) = true
    ∧ fieldAt frame 24 8 = frame.length ∧ ((frame.drop 160).take 32).all (fun b => b == 0) = true
    ∧ (List.range 12).all (fun j => bits (fieldAt frame (64 + 8 * j) 8) 0 23 == 0) = true :=
  ⟨ready_of (by decide), by decide, by decide, flat_framed.spans (flat_acc ..) (by decide), seen_none rfl _ _ _, by decide, ready_of (by decide),
    flat_framed.spans (flat_acc ..) (by decide), by decide, by decide, by decide, by decide, by decide, by decide, by decide, by decide⟩

/-- What issue knows of an instruction, whatever it is, keeps the windows apart. -/
theorem info_all {i : Instr} {s : State} (h : (infoOf i s.hart).all (fun v => apartB s.hart (v.reads ++ v.writes)) = true) : ∀ v, infoOf i s.hart = some v → WindowsApart s (v.reads ++ v.writes) := by
  simp only [Option.all_eq_true] at h
  exact fun v hv => windowsApart_of (h v hv)

/-- A decode context at 0x20000 for one chunk at 0x20040: a stored DEFLATE block of one byte. -/
def chunkAt (remain : Nat) : List (Nat × Nat × Nat) := [(0x20000, 8, 0x20040), (0x20008, 8, remain), (0x20040, 8, 0x100000006), (0x20048, 8, 2614415055), (0x20050, 8, 0xAAFFFE000101)]
def coding (remain : Nat) : State := holding (tagged [.u8, .u8, .u8, .u8] 4) (chunkAt remain)
def coding1 (remain : Nat) : State := { coding remain with hart := ((coding remain).hart.setG 1 0x20000).setG 2 32 }
theorem flat_coding1 (r : Nat) : Flat (coding1 r) := ⟨rfl, rfl, rfl, flat_flat.owns⟩
def ctxOf (remain : Nat) : DecodeCtx := { src := 0x20040, remain := remain, fmt := 0, done := 0 }
def chunk : Chunk := { clen := 6, xlen := 1, check := 2614415055 }
theorem meets_InlineDecoding : (∃ v, infoOf (.vldc 1 2 3) (coding1 32).hart = some v ∧ WindowsApart (coding1 32) v.writes
      ∧ ∀ k r, k ∈ spanKeys 0x20000 32 → r ∈ v.writes → ¬ (coding1 32).hart.inWindow r k) ∧ (∀ ks, Seen (coding1 32) (coding1 32).hart.id pathLS ks)
    ∧ Ready (.vldc 1 2 3) (coding1 32) ∧ windowTagsOk .u8 ((coding1 32).hart.opTag ((coding1 32).hart.vop 3)) = true ∧ (coding1 32).hart.groupRegs ((coding1 32).hart.vop 3) = true ∧ (0x20000 : W64).toNat % 32 = 0
    ∧ Spans (coding1 32) ((coding1 32).hart.acc .read false) 0x20000 32 (spanKeys 0x20000 32) ∧ Spans (coding1 32) ((coding1 32).hart.acc .write false) 0x20000 32 (spanKeys 0x20000 32)
    ∧ parseDctx ((coding1 32).pathBytes pathLS (spanKeys 0x20000 32)) = some (ctxOf 32) ∧ parseDctx ((coding1 0).pathBytes pathLS (spanKeys 0x20000 32)) = some (ctxOf 0)
    ∧ Spans (coding1 32) ((coding1 32).hart.acc .read false) 0x20040 16 (spanKeys 0x20040 16) ∧ parseChunk 0 ((coding1 32).pathBytes pathLS (spanKeys 0x20040 16)) = some chunk
    ∧ Spans (coding1 32) ((coding1 32).hart.acc .read false) 0x20050 6 (spanKeys 0x20050 6) ∧ decodeChunk 0 chunk ((coding1 32).pathBytes pathLS (spanKeys 0x20050 6)) 2 = ([0xAA], none)
    ∧ chunk.length = 32 ∧ chunk.length ≤ ((coding1 32).gr 2).toNat ∧ (expandedCodes 0 [0xAA]).length = chunk.count 0 ∧ chunk.count 0 ≤ Nat.min (coding1 32).hart.csr.mvl ((coding1 32).hart.opCount ((coding1 32).hart.vop 3) .u8) :=
  ⟨(let ⟨v, h⟩ := Option.isSome_iff_exists.1 (show (infoOf (.vldc 1 2 3) (coding1 32).hart).isSome = true by decide)
    ⟨v, h, windowsApart_of ((Option.all_eq_true _ _).1 (show (infoOf (.vldc 1 2 3) (coding1 32).hart).all (fun v => apartB (coding1 32).hart v.writes) = true by decide) v h),
      fun k r hk _ => (span_free _ (by decide) hk).2 r⟩), seen_none rfl _ _,
    ready_of (by decide), by decide, by decide, by decide, (flat_coding1 _).spans (flat_acc ..) (by decide), (flat_coding1 _).spans (flat_acc ..) (by decide), by decide, by decide,
    (flat_coding1 _).spans (flat_acc ..) (by decide), by decide, (flat_coding1 _).spans (flat_acc ..) (by decide), by decide +kernel, by decide, by decide, by decide, by decide⟩

/-- A stream of two words at 0x21000, described at 0x20000; described at 0x20040, a stream of bytes decoded through the context at 0x20080. -/
def streamAt : List (Nat × Nat × Nat) := [(0x20000, 8, 0x21000), (0x20008, 8, 0x100000002), (0x20010, 8, 4), (0x20030, 2, 5), (0x20048, 8, 0x100000001), (0x20068, 8, 0x20080), (0x20070, 2, 0), (0x20080, 8, 0x20100), (0x20088, 8, 32)]
def stream (w : Bool) : Stream :=
  { base := 0x21000, ni := 2, no := 1, si := 4, so := 0, scale := 0, ctx := none, mtag := .i32, write := w, pos := 0, ahead := [], bufAt := 0, buf := [], more := [] }
def streaming (w : Bool) : State :=
  let s := holding (tagged [.u8, .i32, .i32] 2) streamAt
  { s with hart := { s.hart.setG 1 0x20000 with strs := (some (stream w)) :: List.replicate 7 none } }
theorem flat_streaming (w : Bool) : Flat (streaming w) := ⟨rfl, rfl, rfl, flat_flat.owns⟩
def streamKeys (j : Nat) : List Nat := spanKeys ((stream true).va j) 4
theorem stream_moves (w : Bool) (kind : AKind) (j : Nat) (hj : Works (streaming w) false j) :
    Resident (streaming w) ((streaming w).hart.acc kind false) ((stream true).va j) 4 (streamKeys j) ∧ ∀ k, k ∈ streamKeys j → (streaming w).inBoundWindow k = false ∧ ∀ r, ¬ (streaming w).hart.inWindow r k :=
  (flat_streaming w).each (flat_of _ _ _ rfl rfl rfl rfl) (l := 2) (by decide) hj.2.1
theorem meets_Streams : Ready (.sbind 1 1) (streaming false) ∧ (0x20000 : W64).toNat % 64 = 0 ∧ Spans (streaming false) ((streaming false).hart.acc .read false) 0x20000 64 (spanKeys 0x20000 64)
    ∧ parseSdesc ((streaming false).pathBytes pathLS (spanKeys 0x20000 64)) = some (stream false) ∧ fieldAt ((streaming false).pathBytes pathLS (spanKeys 0x20000 64)) 0x28 8 = 0
    ∧ (parseSdesc ((streaming false).pathBytes pathLS (spanKeys 0x20040 64))).map (·.mtag) = some (fmtTag 0) ∧ fieldAt ((streaming false).pathBytes pathLS (spanKeys 0x20040 64)) 0x28 8 = 0x20080
    ∧ (parseDctx ((streaming false).pathBytes pathLS (spanKeys 0x20080 32))).map (·.fmt) = some 0 ∧ Ready (.sfree 0) (streaming false)
    ∧ Ready (.vpop false false 0 1) (streaming false) ∧ (streaming false).hart.str 0 = some (stream false) ∧ (streaming false).hart.groupOk ((streaming false).hart.vop 1) .i32 = true
    ∧ (∀ w, (stream w).tagsOk .i32 = true) ∧ (∀ w ks, Seen (streaming w) (streaming w).hart.id pathLS ks ∧ Clean (streaming w) ks)
    ∧ (streaming false).hart.opTag ((streaming false).hart.vop 1) = .i32 ∧ (∀ v, infoOf (.vpop false false 0 1) (streaming false).hart = some v → WindowsApart (streaming false) (v.reads ++ v.writes))
    ∧ Ready (.vpush false false 0 1) (streaming true) ∧ (streaming true).hart.str 0 = some (stream true) ∧ (∀ v, infoOf (.vpush false false 0 1) (streaming true).hart = some v → WindowsApart (streaming true) (v.reads ++ v.writes))
    ∧ (∀ j, Works (streaming true) false j → 0 + j < (stream true).total)
    ∧ SoundWalk (streaming false) ((streaming false).hart.acc .read false) 0x100000000000000 4
    ∧ (∃ f, (streaming false).resolveSpan ((streaming false).hart.acc .read false) ({ stream false with base := 0x100000000000000 } : Stream).base 4 = .error f) :=
  ⟨ready_of (by decide), by decide, (flat_streaming _).spans (flat_acc ..) (by decide), by decide, by decide, by decide, by decide, by decide, ready_of (by decide), ready_of (by decide), by decide, by decide, by decide,
    fun w ks => ⟨seen_none rfl _ _ _, clean_none rfl rfl rfl _⟩, by decide, info_all (by decide), ready_of (by decide), by decide, info_all (by decide), fun j hj => by rw [Nat.zero_add]; exact hj.2.1, soundWalk_of (by decide) (.inr (by decide)), ⟨_, rfl⟩⟩

/-! Windows: four words of a tensor at 0x21000, in one storage line at Chamber offset 0xF0000. -/
def vecTensor : Tdesc := { base := 0x21000, tag := .i32, rank := 1, dims := [4, 1, 1, 1], strides := [4, 0, 0, 0] }
def boxDesc (m : WMode) (k : Option Nat) : Wdesc :=
  { cbase := 0xF0000, pd := 0, mode := m, strict := false, alog := [2, 0, 0, 0], ksel := [k, none, none, none], fill := 0, a := [0, 0, 0, 0], b := [0, 0, 0, 0], e := [4, 1, 1, 1] }
def window (m : WMode) (k : Option Nat) : Window := { t := vecTensor, d := boxDesc m k, lo := [0, 0, 0, 0], adv := 0, lead := none, dirty := [], pend := [], pre := [], faults := [] }
def dirtied : Window := { window .rw none with dirty := [[0, 0, 0, 0], [3, 0, 0, 0]] }
def waited (m : WMode) : Window := { window m none with pend := [{ adv := 0, coord := [3, 0, 0, 0], mark := 0 }] }
def windowed (w : Window) : State := { mixed with hart := { mixed.hart with wins := some w :: List.replicate 15 none } }
theorem flat_windowed (w : Window) : Flat (windowed w) := ⟨rfl, rfl, rfl, flat_flat.owns⟩
theorem quiet_windowed (w : Window) : Quiet (windowed w) := ⟨rfl, rfl, rfl, rfl, rfl, rfl⟩
/-- Their descriptors at 0x20000 and 0x20040. -/
def descAt : List (Nat × Nat × Nat) := [(0x20000, 8, 0x20040), (0x20008, 8, 0x8000F0000), (0x20010, 1, 2), (0x20026, 2, 3), (0x20040, 8, 0x21000), (0x20048, 8, 0x0105), (0x20050, 8, 4), (0x20060, 8, 4)]
def described : State := holding (withG 0x20000 0) descAt
theorem flat_described : Flat described := flat_holding (flat_onHart _) _
theorem flat_wn (h : Hart) (k : AKind) (h1 : h.part = 0) (h2 : h.asid = 0) (h3 : h.sup = true) (h4 : h.die = 0) : (h.wnAcc k).flat :=
  ⟨h1, h2, by simp [Hart.wnAcc, h3], by simp [Hart.wnAcc, h4]⟩
theorem meets_WindowBinding : Ready (.winset 1 0) described ∧ (∀ w, described.hart.win 0 = some w → w.faults = [] ∧ w.dirty = []) ∧ (0x20000 : W64).toNat % 64 = 0
    ∧ Resident described (described.hart.wnAcc .read) 0x20000 64 (spanKeys 0x20000 64) ∧ Resident described (described.hart.wnAcc .read) 0x20040 64 (spanKeys 0x20040 64)
    ∧ parseTdesc (described.pathBytes pathWN (spanKeys 0x20040 64)) = some vecTensor ∧ parseWdesc (described.pathBytes pathWN (spanKeys 0x20000 64)) vecTensor = some (boxDesc .rw none)
    ∧ described.hart.inChamber (0xF0000, (window .rw none).bytes) = true ∧ meetsAny (0xF0000, (window .rw none).bytes) (described.hart.vecRanges ++ described.hart.maskRanges ++ described.hart.winRanges 0) = false
    ∧ firstOverlap described.hart [(0, window .rw none, (window .rw none).box)] = none
    ∧ Ready (.winflush 0) (windowed dirtied) ∧ Ready (.winclr 0) (windowed dirtied) ∧ Ready (.winclrD 0) (windowed dirtied) ∧ (windowed dirtied).hart.win 0 = some dirtied ∧ dirtied.faults = [] ∧ dirtied.dirty.Nodup
    ∧ (∀ c, c ∈ dirtied.dirty → Resident (windowed dirtied) ((windowed dirtied).hart.wnAcc .write) (dirtied.va c) 4 (spanKeys (dirtied.va c) 4))
    ∧ (∀ c, c ∈ dirtied.dirty → ∀ k, k ∈ spanKeys (dirtied.va c) 4 → (windowed dirtied).inBoundWindow k = false ∧ ∀ c', c' ∈ dirtied.dirty → k ∉ (windowed dirtied).hart.slotKeys dirtied (dirtied.slot c'))
    ∧ (∀ ks, Seen described described.hart.id pathWN ks) ∧ (∀ ks, Seen (windowed dirtied) (windowed dirtied).hart.id pathWN ks) ∧ Ready (.winwait 0) (windowed (waited .rw)) ∧ (waited .rw).pend ≠ [] ∧ flat.hart.win 0 = none ∧ Ready (.winwait 0) flat :=
  ⟨ready_of (by decide), fun w hw => (by cases hw), by decide, flat_described.resident (flat_wn _ _ rfl rfl rfl rfl) (by decide) (by decide) (by decide),
    flat_described.resident (flat_wn _ _ rfl rfl rfl rfl) (by decide) (by decide) (by decide), by decide, by decide, by decide, by decide, by decide, ready_of (by decide), ready_of (by decide), ready_of (by decide), rfl, rfl, by decide,
    fun c hc => by
      rcases List.mem_cons.1 hc with rfl | hc
      · exact (flat_windowed _).resident (flat_wn _ _ rfl rfl rfl rfl) (by decide) (by decide) (by decide)
      · cases List.mem_singleton.1 hc
        exact (flat_windowed _).resident (flat_wn _ _ rfl rfl rfl rfl) (by decide) (by decide) (by decide),
    by decide, seen_none rfl _ _, seen_none rfl _ _, ready_of (by decide), by decide, rfl, ready_of (by decide)⟩

/-- What a window access asks: v4 holds words, VL is 2, and g1 is 0. -/
theorem goes_window (m : WMode) (i : Instr) (hr : readyB i (windowed (window m none)) = true) (hi : (infoOf i (windowed (window m none)).hart).all (fun v => (v.reads ++ v.writes) == [4]) = true) :
    let s := windowed (window m none)
    let w := window m none
    Ready i s ∧ s.hart.csr.vl ≠ 0 ∧ s.hart.win 0 = some w ∧ w.pend = [] ∧ w.faults = [] ∧ w.t.tag = s.hart.opTag (s.hart.vop 4) ∧ s.hart.groupOk (s.hart.vop 4) .i32 = true ∧ s.hart.bxOk (s.hart.vop 4) .i32 = true
      ∧ (∀ v, infoOf i s.hart = some v → WindowsApart s (v.reads ++ v.writes) ∧ ∀ j k r, Works s false j → k ∈ s.hart.slotKeys w j → r ∈ v.reads ++ v.writes → ¬ s.hart.inWindow r k) := by
  refine ⟨ready_of hr, by cases m <;> decide, rfl, rfl, rfl, by cases m <;> decide, by cases m <;> decide, by cases m <;> decide, fun v hv => ?_⟩
  have e : v.reads ++ v.writes = [4] := by simpa using (Option.all_eq_true _ _).1 hi v hv
  rw [e]
  refine ⟨windowsApart_of (by cases m <;> decide), fun j k r hj hk hr => ?_⟩
  cases List.mem_singleton.1 hr
  obtain ⟨x, hx, rfl⟩ := List.mem_map.1 hk
  refine outside_seat (.inr ?_)
  have : (windowed (window m none)).hart.seat 4 = (32768, 8192) := by cases m <;> decide
  rw [this]
  show 32768 + 8192 ≤ 0xF0000 + _ + _
  omega
theorem meets_WindowElements : readyB (.vldw false false 0 1 0 4) (windowed (window .rw none)) = true
    ∧ (infoOf (.vldw false false 0 1 0 4) (windowed (window .rw none)).hart).all (fun v => (v.reads ++ v.writes) == [4]) = true
    ∧ readyB (.vstw false false 0 1 0 4) (windowed (window .r none)) = true ∧ (infoOf (.vstw false false 0 1 0 4) (windowed (window .r none)).hart).all (fun v => (v.reads ++ v.writes) == [4]) = true
    ∧ (window .r none).d.mode = .r ∧ (window .rw none).d.mode ≠ .r ∧ (window .rw none).d.fill.toNat < 2 ^ 32 ∧ (windowed (window .rw none)).choices = [] ∧ (windowed (window .rw none)).hart.csr.estart.toNat = 0
    ∧ (List.range 2).all (fun j => ((windowOffsets 0 0 j).zip (boxDesc .rw none).e).all (fun e => decide (e.1 < e.2))) = true ∧ ((windowOffsets 4 0 0).zip (boxDesc .rw none).e).all (fun e => decide (e.1 < e.2)) = false := by decide

/-- The counter 0 that window 0 follows. -/
def counted : State := windowed (window .rw (some 0))
theorem meets_WindowCounters : counted.hart.convoy = none ∧ counted.hart.span = none ∧ counted.hart.bound = [0] ∧ (∀ n w, n ∈ counted.hart.bound ∧ counted.hart.win n = some w ∧ w.selects 0 = true → w.faults = [] ∧ w.behind < 4)
    ∧ (∀ n w, ¬ (n ∈ counted.hart.bound ∧ counted.hart.win n = some w ∧ w.selects 7 = true))
    ∧ firstOverlap counted.hart ((counted.hart.bound.filterMap (fun n => (counted.hart.win n).map (fun w => (n, w, clipped w (lowerBounds w.d (counted.hart.ctrs.set 0 1)))))).filter (fun c => c.2.1.selects 0 && c.2.2 != c.2.1.box)) = none
    ∧ 2147483647 < (withG 0x80000000 0).gr 1 ∧ Ready (.lcrd 7 1) counted ∧ Ready (.winq 0 1) counted ∧ Ready (.winq 15 1) counted ∧ counted.hart.win 15 = none
    ∧ (onHart (fun h => { h with wait := .advance true 0 4 7 2147483647 })).hart.wait = .advance true 0 4 7 2147483647 := by
  have hb : counted.hart.bound = [0] := by decide
  refine ⟨rfl, rfl, hb, ?_, ?_, by decide, by decide, ready_of (by decide), ready_of (by decide), ready_of (by decide), rfl, rfl⟩
  · rintro n w ⟨hn, hw, -⟩
    rw [hb] at hn
    cases List.mem_singleton.1 hn
    cases Option.some.inj hw
    decide
  · rintro n w ⟨hn, hw, hs⟩
    rw [hb] at hn
    cases List.mem_singleton.1 hn
    cases Option.some.inj hw
    exact absurd hs (by decide)
/-- A window of two words that counter 0 moves by one word, and may fetch one set ahead: beside its elements 0 and 1 it then brings 2. -/
def leading : Window := { window .r (some 0) with d := { boxDesc .r (some 0) with pd := 1, a := [1, 0, 0, 0], e := [2, 1, 1, 1] } }
def prefetching : State := { windowed leading with hart := { (windowed leading).hart with pred := (windowed leading).hart.pred.set 0 1 } }
theorem flat_prefetching : Flat prefetching := ⟨rfl, rfl, rfl, flat_flat.owns⟩
theorem meets_ResidencyEngine_prefetch : prefetching.hart.win 0 = some leading ∧ prefetching.hart.prefetchDelta leading = some (0, 1) ∧ 1 ≤ leading.d.pd ∧ prefetching.hart.status.placed = true
    ∧ (let next := coordsIn (clipped leading (lowerBounds leading.d (prefetching.hart.ctrs.set 0 (ctrAt prefetching.hart.ctrs 0 + (1 : Nat) * (1 : Int)))))
      let used := (coordsIn leading.box).map leading.slot ++ leading.pend.map (fun q => leading.slot q.coord) ++ leading.faults.map RecFault.slot ++ leading.pre.map leading.slot
      next.filter (fun c => !used.contains (leading.slot c)) = [[2, 0, 0, 0]])
    ∧ Resident prefetching (prefetching.hart.wnAcc .read) (leading.va [2, 0, 0, 0]) 4 (spanKeys 0x21008 4) ∧ Clean prefetching (spanKeys 0x21008 4) ∧ Seen prefetching prefetching.hart.id pathWN (spanKeys 0x21008 4)
    ∧ ∀ k, k ∈ spanKeys 0x21008 4 → prefetching.inBoundWindow k = false ∧ ∀ k', k' ∈ prefetching.hart.slotKeys leading 2 → k / 4 ≠ k' / 4 :=
  ⟨rfl, by decide, by decide, rfl, by decide, flat_prefetching.resident (flat_wn _ _ rfl rfl rfl rfl) (by decide) (by decide) (by decide), clean_none rfl rfl rfl _, seen_none rfl _ _ _, by decide⟩
theorem meets_ResidencyEngine : (flat.hart.win 15 = none)
    ∧ (windowed (waited .rw)).hart.win 0 = some (waited .rw) ∧ (waited .rw).pend.filter (fun q => (waited .rw).lineOf ((waited .rw).slot q.coord) == 0) = [{ adv := 0, coord := [3, 0, 0, 0], mark := 0 }] ∧ (waited .rw).held 3 = false
    ∧ Resident (windowed (waited .rw)) ((windowed (waited .rw)).hart.wnAcc .read) ((waited .rw).va [3, 0, 0, 0]) 4 (spanKeys 0x2100C 4)
    ∧ (∀ w ks, Clean (windowed w) ks ∧ Seen (windowed w) (windowed w).hart.id pathWN ks ∧ ∀ k, k ∈ ks → (windowed w).flawed k = false ∧ (windowed w).mismatch k = false) ∧ (∀ w, (windowed w).hart.status.placed = true)
    ∧ (onHart (fun h => { h with status := .ended })).hart.status.placed = false
    ∧ (windowed (waited .w)).hart.win 0 = some (waited .w) ∧ (waited .w).d.mode = .w ∧ (windowed dirtied).hart.prefetchDelta dirtied = none
    ∧ dirtied.dirty.find? (fun c => dirtied.slot c == 3) = some [3, 0, 0, 0] ∧ dirtied.dirty.find? (fun c => dirtied.slot c == 1) = none
    ∧ Resident (windowed dirtied) ((windowed dirtied).hart.wnAcc .write) (dirtied.va [3, 0, 0, 0]) 4 (spanKeys 0x2100C 4) ∧ dirtied.faults = [] :=
  ⟨rfl, rfl, by decide, by decide, (flat_windowed _).resident (flat_wn _ _ rfl rfl rfl rfl) (by decide) (by decide) (by decide),
    fun w ks => ⟨clean_none rfl rfl rfl _, seen_none rfl _ _ _, fun k hk => (sound_none rfl rfl ks k hk)⟩, fun _ => rfl, rfl, rfl, rfl, by decide, by decide, by decide,
    (flat_windowed _).resident (flat_wn _ _ rfl rfl rfl rfl) (by decide) (by decide) (by decide), rfl⟩

/-! The matrix unit: a configuration of length 2, the unit held by the focus hart. -/
def unitOf' (holder : Option Nat) (queue : List Nat) : MxUnit := { core := 0, holder := holder, queue := queue, cells := [] }
def entering (v : W64) (u : MxUnit) : State := { withG v 0 with mxs := [u] }
/-- The unit in a format, at length 2: v4 and v5 under the tag of its cells, the sources v0 to v3 under the format, g1 = 0x20000 and g2 = 8. -/
def matrix (f acc : Tag) : State :=
  let s := tagged [f, f, f, .bxs, acc, acc] 2
  { s with hart := { ((s.hart.setG 1 0x20000).setG 2 8) with csr := { s.hart.csr with mxf := BitVec.ofNat 64 (0x80 + f.code), mxl := 2 } }, mxs := [unitOf' (some 0) []] }
theorem flat_matrix (f acc : Tag) : Flat (matrix f acc) := ⟨rfl, rfl, rfl, flat_flat.owns⟩
theorem meets_MatrixUnit : Ready (.mxon 1) (entering 0x4001 (unitOf' none [])) ∧ mxConfigOk 0x4001 = true ∧ mxConfigOk 0x4101 = false ∧ mxConfigOk 0x100B = true
    ∧ (entering 0x4001 (unitOf' (some 0) [])).ownMx.holder = some 0 ∧ (entering 0x4001 (unitOf' none [])).ownMx.holder = none
    ∧ ((entering 0x4001 (unitOf' none [])).ownMx.queue ++ [0]).head? = some 0 ∧ (entering 0x4001 (unitOf' (some 1) [])).ownMx.holder ≠ some 0 ∧ (entering 0x4001 (unitOf' none [1])).ownMx.holder = none
    ∧ ((entering 0x4001 (unitOf' none [1])).ownMx.queue ++ [0]).head? ≠ some 0 ∧ (onHart (fun h => { h with wait := .mxon 1 })).hart.wait = .mxon 1 ∧ (∀ r, flat.hart.wait ≠ .mxon r)
    ∧ Ready .mxoff (matrix .i8 .i32) ∧ Ready (.mzero 0) (matrix .i8 .i32) ∧ (matrix .i8 .i32).hart.csr.mxLegal :=
  ⟨ready_of (by decide), by decide, by decide, by decide, rfl, rfl, by decide, by decide, rfl, by decide, rfl, (fun r h => by cases h), ready_of (by decide), ready_of (by decide),
    by decide, by decide, fun h => absurd h (by decide)⟩
theorem meets_MatrixMoves : (matrix .i8 .i32).hart.csr.mxLegal ∧ accTag (matrix .i8 .i32).hart.csr.mxFmt = .i32
    ∧ Ready (.mrdV false 0 0 4) (matrix .i8 .i32) ∧ ((matrix .i8 .i32).gr 0).toNat < 2 ∧ (matrix .i8 .i32).hart.csr.vlN ≤ 2 ∧ (matrix .i8 .i32).hart.opTag ((matrix .i8 .i32).hart.vop 4) = .i32
    ∧ (matrix .i8 .i32).hart.wholeOk 4 = true ∧ (∀ v, infoOf (.mrdV false 0 0 4) (matrix .i8 .i32).hart = some v → WindowsApart (matrix .i8 .i32) (v.reads ++ v.writes))
    ∧ Ready (.mrdG 0 0 5) (matrix .i8 .i32) ∧ Ready (.mwr false 0 4 0) (matrix .i8 .i32) ∧ Ready (.mld 1 2 0) (matrix .i8 .i32) ∧ Ready (.mst 1 2 0) (matrix .i8 .i32)
    ∧ (∀ e, e < 4 → Resident (matrix .i8 .i32) ((matrix .i8 .i32).hart.acc .read false) (0x20000 + BitVec.ofNat 64 (e / 2) * 8 + BitVec.ofNat 64 (e % 2 * 4)) 4 (spanKeys (0x20000 + BitVec.ofNat 64 (e / 2) * 8 + BitVec.ofNat 64 (e % 2 * 4)) 4)
      ∧ ∀ k, k ∈ spanKeys (0x20000 + BitVec.ofNat 64 (e / 2) * 8 + BitVec.ofNat 64 (e % 2 * 4)) 4 → (matrix .i8 .i32).inBoundWindow k = false ∧ ∀ r, ¬ (matrix .i8 .i32).hart.inWindow r k)
    ∧ (∀ ks, Seen (matrix .i8 .i32) (matrix .i8 .i32).hart.id pathLS ks) :=
  ⟨⟨by decide, by decide, fun h => absurd h (by decide)⟩, by decide, ready_of (by decide), by decide, by decide, by decide, by decide, info_all (by decide), ready_of (by decide), ready_of (by decide), ready_of (by decide),
    ready_of (by decide), fun e he => (flat_matrix _ _).each (flat_acc ..) (l := 4) (ea := fun e => 0x20000 + BitVec.ofNat 64 (e / 2) * 8 + BitVec.ofNat 64 (e % 2 * 4)) (by decide) he, seen_none rfl _ _⟩
theorem meets_OuterProducts : (matrix .f16 .f32).hart.csr.mxLegal ∧ Ready (.xpa false false false false 1 0 0) (matrix .f16 .f32) ∧ (matrix .f16 .f32).hart.csr.mxFmt.isFloat = true
    ∧ (matrix .f16 .f32).hart.csr.vlN % (matrix .f16 .f32).hart.csr.mxLen = 0 ∧ (matrix .f16 .f32).hart.opTag ((matrix .f16 .f32).hart.vop 1) = .f16 ∧ (matrix .f16 .f32).hart.wholeOk 1 = true
    ∧ Ready (.xps false true true false 2 0 0) (matrix .f16 .f32) ∧ (let w := ((matrix .f16 .f32).gr 2).toNat
      w / 2 ^ 33 = 0 ∧ w / 2 ^ 27 % 64 = (matrix .f16 .f32).hart.die ∧ w % 2 ^ 23 + 2 * 2 ≤ 0x600000 ∧ w % 2 ^ 23 % 2 = 0) ∧ (∀ ks, Seen (matrix .f16 .f32) (matrix .f16 .f32).hart.id pathMX ks)
    ∧ Ready (.xpaI false false false false 1 0 0) (matrix .i8 .i32) ∧ (matrix .i8 .i32).hart.csr.mxFmt = .i8 ∧ (matrix .i8 .i32).hart.wholeOk 0 = true
    ∧ Ready (.xpaS false false 2 2 0) (matrix .e4m3 .f32) ∧ (matrix .e4m3 .f32).hart.csr.mxFmt = .e4m3 ∧ (matrix .e4m3 .f32).hart.scaledOk ((matrix .e4m3 .f32).hart.vop 2) = true ∧ (matrix .e4m3 .f32).hart.wholeOk 2 = true :=
  ⟨⟨by decide, by decide, fun h => absurd h (by decide)⟩, ready_of (by decide), by decide, by decide, by decide, by decide, ready_of (by decide), by decide, seen_none rfl _ _, ready_of (by decide), by decide, by decide, ready_of (by decide),
    by decide, by decide, by decide⟩

/-! Engines. -/
/-- A record: (offset, value). -/
def record (l : List (Nat × Nat)) : Command := { bytes := BitVec.ofNat 512 ((l.map (fun e => e.2 * 2 ^ (8 * e.1))).sum), part := 0, asid := 0, die := 0, hart := 0, gang := 1, user := false }
def queued (c : Command) : State := holding { flat with engines := [c] } tensorAt
theorem flat_queued (c : Command) : Flat (queued c) := ⟨rfl, rfl, rfl, flat_flat.owns⟩
/-- v4 holds the record of a COPY at 0x30000. -/
def offered (type : Nat) : State :=
  let s := tagged (List.replicate 8 .u32) 16
  { s with mem := { cells := [(chamberKey 32768, BitVec.ofNat 8 type), (chamberKey (32768 + 10), 3)] } }
theorem meets_Enqueue : (∃ v, infoOf (.enq false 4 3) (offered 1).hart = some v ∧ WindowsApart (offered 1) (v.reads ++ v.writes)) ∧ Ready (.enq false 4 3) (offered 1) ∧ Ready (.enq true 4 3) (offered 1)
    ∧ (offered 1).hart.opTag ((offered 1).hart.vop 4) = .u32 ∧ (offered 1).hart.groupOk ((offered 1).hart.vop 4) .u32 = true ∧ (offered 1).hart.csr.vlN = 16 ∧ (offered 1).hart.csr.estart = 0
    ∧ (offered 1).active true 0 = false ∧ (offered 1).active false 0 = true
    ∧ (let c (s : State) : Command := { bytes := BitVec.ofNat 512 (leNat ((List.range 16).flatMap (fun i => leBytes 4 (s.codeOf (s.hart.vop 4) .u32 i)))), part := 0, asid := 0, die := 0, hart := 0, gang := 1, user := false }
      enqBad false (c (offered 1)) = none ∧ enqBad false (c (offered 11)) = some 1)
    ∧ (offered 1).choose.1 = 0 ∧ ((offered 1).engines.filter (fun e => e.hart == 0)).length - (offered 1).choose.2.choose.1 < Config.eqDepth ∧ ({ offered 1 with choices := [1] } : State).choose.1 ≠ 0 :=
  ⟨info_of (by decide), ready_of (by decide), ready_of (by decide), by decide, by decide, by decide, by decide, by decide, by decide, by decide, by decide, by decide, by decide⟩

theorem spans_apart {v w : W64} {m n k : Nat} (h : v.toNat + m ≤ w.toNat ∨ w.toNat + n ≤ v.toNat) (hk : k ∈ spanKeys v m) : k ∉ spanKeys w n := by
  obtain ⟨b, hb, rfl⟩ := List.mem_map.1 hk
  have := List.mem_range.1 hb
  intro h'
  obtain ⟨b', hb', e⟩ := List.mem_map.1 h'
  have := List.mem_range.1 hb'
  omega
/-- What the statements ask of the memory a command reads at a die, of what it writes, and of its completion word. -/
def EReads (s : State) (c : Command) (path die : Nat) (va : W64) (n : Nat) : Prop :=
  Spans (s.dropCommand c) (c.acc die .read) va n (spanKeys va n) ∧ Clean s (spanKeys va n) ∧ ∀ k, k ∈ spanKeys va n → s.unbound path k
def EWrites (s : State) (c : Command) (path die : Nat) (va : W64) (n : Nat) (kw : List Nat) : Prop :=
  Spans (s.dropCommand c) (c.acc die .write) va n (spanKeys va n) ∧ ∀ k, k ∈ spanKeys va n → s.unbound path k ∧ k ∉ kw
/-- A command of partition 0's supervisor at a die whose TLB maps DRAM. -/
def flatCmd (c : Command) (die : Nat) : Bool := c.part == 0 && c.asid == 0 && !c.user && [0, 1, 7].contains die
theorem flatCmd_acc {c : Command} {die : Nat} (h : flatCmd c die = true) (k : AKind) : (c.acc die k).flat := by
  simp only [flatCmd, Bool.and_eq_true, beq_iff_eq, Bool.not_eq_true', List.contains_iff_mem] at h
  exact ⟨h.1.1.1, h.1.1.2, h.1.2, h.2⟩
theorem dropped {s : State} (h : Flat s) (c : Command) : Flat (s.dropCommand c) := ⟨h.tlb, h.utlb, h.dies, h.owns⟩
theorem reads_of {s : State} {c : Command} (hs : Flat s) (hq : Quiet s) {path die : Nat} (hc : flatCmd c die = true) {va : W64} {n : Nat}
    (h : va.toNat + n ≤ 0x40000000) : EReads s c path die va n :=
  ⟨(dropped hs c).spans (flatCmd_acc hc _) h, clean_none hq.poison hq.flaws hq.checks _, fun k _ => unbound_row hq.flow path k⟩
theorem writes_of {s : State} {c : Command} (hs : Flat s) (hq : Quiet s) {path die : Nat} (hc : flatCmd c die = true) {va w : W64} {n m : Nat}
    (h : va.toNat + n ≤ 0x40000000) (ha : va.toNat + n ≤ w.toNat ∨ w.toNat + m ≤ va.toNat) : EWrites s c path die va n (spanKeys w m) :=
  ⟨(dropped hs c).spans (flatCmd_acc hc _) h, fun _ hk => ⟨unbound_row hq.flow path _, spans_apart ha hk⟩⟩
/-- The header of a record with its completion word at 0x30000. -/
def headed (c : Command) : Bool := c.cwa == 0x30000 && decide (c.fld 1 1 < 4) && (!c.wdog || c.type == 4) && (!c.fua || c.type == 8) && c.fld 2 6 == 0
theorem headerOk_of {c : Command} (h : headed c = true) : c.cwa = 0x30000 ∧ c.headerOk := by
  simp only [headed, Bool.and_eq_true, Bool.or_eq_true, beq_iff_eq, decide_eq_true_eq, Bool.not_eq_true'] at h
  exact ⟨h.1.1.1.1, h.1.1.1.2, fun e => h.1.1.2.resolve_left (by simp [e]), fun e => h.1.2.resolve_left (by simp [e]), h.2⟩
theorem canEnd_of {s : State} {c : Command} (hs : Flat s) (hq : Quiet s) {die : Nat} (hc : flatCmd c die = true) (hh : headed c = true) (path : Nat) :
    c.canEnd s path die (spanKeys 0x30000 16) := by
  refine ⟨(headerOk_of hh).2, hq.settled c path, ?_, fun k _ => unbound_row hq.flow path k⟩
  rw [(headerOk_of hh).1]
  exact (dropped hs c).spans (flatCmd_acc hc _) (by decide)
theorem quiet_queued (c : Command) : Quiet (queued c) := ⟨rfl, rfl, rfl, rfl, rfl, rfl⟩

def copyRec : Command := record [(0, 1), (8, 0x30000), (0x10, 0x21000), (0x18, 0x22000), (0x20, 64)]
/-- Two elements of one row: the last of the tensor's row and one outside it. -/
def copytRec : Command := record [(0, 2), (8, 0x30000), (0x10, 0x20000), (0x18, 0x22000), (0x20, 15), (0x28, 2), (0x2A, 1), (0x2C, 5), (0x30, 8), (0x38, 0x3F800000)]
def fprintRec : Command := record [(0, 3), (8, 0x30000), (0x10, 0x21000), (0x18, 16)]
theorem meets_CopyCommands : (copyRec.canEnd (queued copyRec) pathCP 0 (spanKeys 0x30000 16) ∧ copyRec.fld 0x20 8 ≤ 2 ^ 40 ∧ copyRec.fld 0x28 24 = 0 ∧ copyRec.va 0x10 = 0x21000 ∧ copyRec.va 0x18 = 0x22000
      ∧ EReads (queued copyRec) copyRec pathCP 0 0x21000 64 ∧ EWrites (queued copyRec) copyRec pathCP 0 0x22000 64 (spanKeys 0x30000 16)
      ∧ ∀ k, k ∈ spanKeys 0x22000 64 → k ∉ spanKeys 0x21000 64)
    ∧ (copytRec.canEnd (queued copytRec) pathCP 0 (spanKeys 0x30000 16) ∧ copytRec.fld 0x10 8 % 64 = 0 ∧ copytRec.fld 0x28 2 = 2 ∧ copytRec.fld 0x2A 2 = 1 ∧ tagOf (copytRec.fld 0x2C 1) = some .i32
      ∧ copytRec.fld 0x2D 1 = 0 ∧ copytRec.fld 0x2E 2 = 0 ∧ copytRec.fld 0x3C 4 = 0 ∧ copytRec.va 0x10 = 0x20000 ∧ EReads (queued copytRec) copytRec pathCP 0 0x20000 64
      ∧ parseTdesc ((spanKeys 0x20000 64).map (queued copytRec).byteAt) = some tensor ∧ tensor.rank ≤ 2 ∧ srcOk true true tensor.tag = true
      ∧ (∀ e, e < 2 → EWrites (queued copytRec) copytRec pathCP 0 (0x22000 + BitVec.ofInt 64 ((e / 2 : Nat) * 8 + (e % 2 : Nat) * 4)) 4 (spanKeys 0x30000 16)
        ∧ EReads (queued copytRec) copytRec pathCP 0 (0x21000 + BitVec.ofInt 64 ((15 + e : Nat) * 4)) 4)
      ∧ (∀ k e, e < 2 → k ∈ spanKeys (0x22000 + BitVec.ofInt 64 ((e / 2 : Nat) * 8 + (e % 2 : Nat) * 4)) 4 →
          ∀ e', e' < 2 → (e ≠ e' → k ∉ spanKeys (0x22000 + BitVec.ofInt 64 ((e' / 2 : Nat) * 8 + (e' % 2 : Nat) * 4)) 4) ∧ k ∉ spanKeys (0x21000 + BitVec.ofInt 64 ((15 + e' : Nat) * 4)) 4)
      ∧ copytRec.sfld 0x30 = 8 ∧ (BitVec.ofNat 32 (copytRec.fld 0x20 4)).toInt = 15)
    ∧ (fprintRec.canEnd (queued fprintRec) pathCP 0 (spanKeys 0x30000 16) ∧ fprintRec.fld 0x10 8 = 0x21000 ∧ fprintRec.fld 0x18 8 = 16 ∧ fprintRec.fld 0x20 32 = 0
      ∧ EReads (queued fprintRec) fprintRec pathCP 0 0x21000 16) :=
  ⟨⟨canEnd_of (flat_queued _) (quiet_queued _) (by decide) (by decide) _, by decide, by decide, by decide, by decide, reads_of (flat_queued _) (quiet_queued _) (by decide) (by decide),
      writes_of (flat_queued _) (quiet_queued _) (by decide) (by decide) (by decide), fun _ hk => spans_apart (by decide) hk⟩,
    ⟨canEnd_of (flat_queued _) (quiet_queued _) (by decide) (by decide) _, by decide, by decide, by decide, by decide, by decide, by decide, by decide, by decide,
      reads_of (flat_queued _) (quiet_queued _) (by decide) (by decide), by decide, by decide, by decide,
      fun e he => (by
        have : e = 0 ∨ e = 1 := by omega
        rcases this with rfl | rfl <;>
          exact ⟨writes_of (flat_queued _) (quiet_queued _) (by decide) (by decide) (by decide), reads_of (flat_queued _) (quiet_queued _) (by decide) (by decide)⟩),
      fun k e he hk e' he' => (by
        have h1 : e = 0 ∨ e = 1 := by omega
        have h2 : e' = 0 ∨ e' = 1 := by omega
        rcases h1 with rfl | rfl <;> rcases h2 with rfl | rfl <;>
          exact ⟨fun h => (by first | exact absurd rfl h | exact spans_apart (by decide) hk), spans_apart (by decide) hk⟩), by decide, by decide⟩,
    ⟨canEnd_of (flat_queued _) (quiet_queued _) (by decide) (by decide) _, by decide, by decide, by decide, reads_of (flat_queued _) (quiet_queued _) (by decide) (by decide)⟩⟩

/-- A DECODE of the chunk at 0x20040, with a watchdog and without; and one of nothing. -/
def decodeRec (flags len : Nat) : Command := record [(0, 4), (1, flags), (8, 0x30000), (0x10, 0x20040), (0x18, len), (0x20, 0x22000), (0x28, 1)]
def decoding (c : Command) : State := holding { flat with engines := [c] } (chunkAt 32)
theorem flat_decoding (c : Command) : Flat (decoding c) := ⟨rfl, rfl, rfl, flat_flat.owns⟩
theorem quiet_decoding (c : Command) : Quiet (decoding c) := ⟨rfl, rfl, rfl, rfl, rfl, rfl⟩
theorem meets_DecodeCommands : ∀ flags len, (flags, len) ∈ [(0, 0), (0, 32), (1, 32)] → let c := decodeRec flags len
    c.canEnd (decoding c) pathCP 0 (spanKeys 0x30000 16) ∧ c.fld 0x10 8 % 16 = 0 ∧ c.fld 0x18 8 = len ∧ c.fld 0x2C 1 = 0 ∧ c.fld 0x2D 3 = 0 ∧ (c.wdog = true → c.fld 0x34 4 ≤ 65536) ∧ c.fld 0x38 8 = 0
      ∧ c.va 0x10 = 0x20040 ∧ c.va 0x20 = 0x22000 ∧ EReads (decoding c) c pathCP 0 0x20040 16 ∧ parseChunk 0 ((spanKeys 0x20040 16).map (decoding c).byteAt) = some chunk ∧ EReads (decoding c) c pathCP 0 0x20050 6
      ∧ chunk.length = 32 ∧ chunk.xlen ≤ c.fld 0x28 4 ∧ EWrites (decoding c) c pathCP 0 0x22000 1 (spanKeys 0x30000 16) ∧ (∀ k, k ∈ spanKeys 0x22000 1 → k ∉ spanKeys 0x20040 16 ∧ k ∉ spanKeys 0x20050 6)
      ∧ decodeChunk 0 chunk ((spanKeys 0x20050 6).map (decoding c).byteAt) (if c.wdog then 65536 else 2) = ([0xAA], none)
      ∧ decodeChunk 0 chunk ((spanKeys 0x20050 6).map (decoding c).byteAt) 0 = ([], some 11) ∧ c.wdog = (flags == 1) := by
  intro flags len h
  simp only [List.mem_cons, List.not_mem_nil, Prod.mk.injEq, or_false] at h
  rcases h with ⟨rfl, rfl⟩ | ⟨rfl, rfl⟩ | ⟨rfl, rfl⟩ <;>
    exact ⟨canEnd_of (flat_decoding _) (quiet_decoding _) (by decide) (by decide) _, by decide, by decide, by decide, by decide, by decide, by decide, by decide, by decide,
      reads_of (flat_decoding _) (quiet_decoding _) (by decide) (by decide), by decide, reads_of (flat_decoding _) (quiet_decoding _) (by decide) (by decide), by decide, by decide,
      writes_of (flat_decoding _) (quiet_decoding _) (by decide) (by decide) (by decide), fun k hk => ⟨spans_apart (by decide) hk, spans_apart (by decide) hk⟩, by decide +kernel, by decide +kernel, by decide⟩

def topkRec : Command := record [(0, 5), (8, 0x30000), (0x10, 0x21000), (0x18, 2), (0x1C, 2), (0x1E, 1), (0x20, 0x22000), (0x28, 0x23000)]
/-- A partition of dies 0 and 1 for RING. -/
def ringRec : Command := record [(0, 6), (8, 0x30000), (0x10, 0xFFFFFFFFFFFF0100), (0x18, 0x21000), (0x20, 256), (0x28, 0x22000), (0x30, 1)]
def twoDies : State := { flat with engines := [ringRec], parts := [(0, { testBlock with dies := 3 })] }
theorem flat_twoDies : Flat twoDies := ⟨rfl, rfl, rfl, by decide⟩
theorem quiet_twoDies : Quiet twoDies := ⟨rfl, rfl, rfl, rfl, rfl, rfl⟩
theorem meets_TopkAndRing : (topkRec.canEnd (queued topkRec) pathCP 0 (spanKeys 0x30000 16) ∧ topkRec.fld 0x10 8 % 4 = 0 ∧ topkRec.fld 0x18 4 = 2 ∧ topkRec.fld 0x1C 2 = 2 ∧ topkRec.fld 0x1E 2 = 1
      ∧ topkRec.fld 0x20 8 % 8 = 0 ∧ topkRec.fld 0x28 8 % 4 = 0 ∧ topkRec.fld 0x30 16 = 0 ∧ topkRec.va 0x10 = 0x21000 ∧ topkRec.va 0x28 = 0x23000 ∧ topkRec.va 0x20 = 0x22000
      ∧ EReads (queued topkRec) topkRec pathCP 0 0x21000 8 ∧ EReads (queued topkRec) topkRec pathCP 0 0x23000 8 ∧ EWrites (queued topkRec) topkRec pathCP 0 0x23000 8 (spanKeys 0x30000 16)
      ∧ (∀ m, m ≤ 2 → EWrites (queued topkRec) topkRec pathCP 0 0x22000 (8 * m) (spanKeys 0x30000 16) ∧ ∀ j, j ∈ spanKeys 0x22000 (8 * m) → j ∉ spanKeys 0x23000 8))
    ∧ (ringRec.canEnd twoDies pathNT 1 (spanKeys 0x30000 16) ∧ 2 ≤ ringRec.order.length ∧ (∀ d, d ∈ ringRec.order → d < 64 ∧ twoDies.ownsDie ringRec.part d = true) ∧ ringRec.order.Nodup
      ∧ ringRec.fld 0x18 8 % 4 = 0 ∧ ringRec.fld 0x28 8 % 4 = 0 ∧ ringRec.fld 0x30 4 = 1 ∧ ringRec.fld 0x34 12 = 0 ∧ ringRec.va 0x28 = 0x22000 ∧ ringRec.order.length = 2
      ∧ (∀ j : Nat, j < 2 → EReads twoDies ringRec pathNT j (ringRec.va 0x18 + BitVec.ofInt 64 (j * ringRec.sfld 0x20)) 4) ∧ EWrites twoDies ringRec pathNT 1 0x22000 4 (spanKeys 0x30000 16)) :=
  ⟨⟨canEnd_of (flat_queued _) (quiet_queued _) (by decide) (by decide) _, by decide, by decide, by decide, by decide, by decide, by decide, by decide, by decide, by decide, by decide,
      reads_of (flat_queued _) (quiet_queued _) (by decide) (by decide), reads_of (flat_queued _) (quiet_queued _) (by decide) (by decide), writes_of (flat_queued _) (quiet_queued _) (by decide) (by decide) (by decide),
      fun m hm => ⟨writes_of (flat_queued _) (quiet_queued _) (by decide) (by show 0x22000 + 8 * m ≤ 0x40000000; omega) (by show 0x22000 + 8 * m ≤ 0x30000 ∨ _; omega),
        fun j hj => spans_apart (by show 0x22000 + 8 * m ≤ 0x23000 ∨ _; omega) hj⟩⟩,
    ⟨canEnd_of flat_twoDies quiet_twoDies (by decide) (by decide) _, by decide, by decide, by decide, by decide, by decide, by decide, by decide, by decide, by decide,
      fun j hj => (by
        have : j = 0 ∨ j = 1 := by omega
        rcases this with rfl | rfl <;> exact reads_of flat_twoDies quiet_twoDies (by decide) (by decide)), writes_of flat_twoDies quiet_twoDies (by decide) (by decide) (by decide)⟩⟩

/-- A read and a write of one block of 512 bytes, of namespace 1 on port 0. -/
def storeRec (type : Nat) : Command := record [(0, type), (8, 0x30000), (0x14, 1), (0x20, 1), (0x28, 0x22000)]
def drive : Namespace := { port := 0, nsid := 1, block := 512, metadata := false }
def storing (type : Nat) : State := { flat with engines := [storeRec type], drives := [{ storeRec type with block := 512 }], namespaces := [drive], parts := [(0, { testBlock with ns := 1 })] }
theorem flat_storing (t : Nat) : Flat (storing t) := ⟨rfl, rfl, rfl, by show flat.ownsDie 0 0 = true; decide⟩
theorem quiet_storing (t : Nat) : Quiet (storing t) := ⟨rfl, rfl, rfl, rfl, rfl, rfl⟩
theorem meets_StorageCommands : ∀ t, t ∈ [7, 8] → let c := storeRec t
    headed c = true ∧ c.headerOk ∧ c.fld 0x10 1 ≤ 1 ∧ c.fld 0x11 3 = 0 ∧ (storing t).usable c = some drive ∧ c.fld 0x20 4 = 1 ∧ c.fld 0x24 4 = 0
      ∧ c.fld 0x28 8 % 4 = 0 ∧ c.fld 0x30 1 = 0 ∧ c.fld 0x31 3 = 0 ∧ c.site = 7 ∧ portDie (c.fld 0x10 1) = 7 ∧ c.settled (storing t) pathSG ∧ EReads (storing t) c pathSG 7 0x22000 512
      ∧ (storing t).drives = { c with block := 512 } :: [] ∧ c.cwa = 0x30000 ∧ c.va 0x28 = 0x22000 ∧ c.type = t
      ∧ Spans { storing t with drives := [] } (c.acc 7 .write) 0x30000 16 (spanKeys 0x30000 16) ∧ (∀ k, k ∈ spanKeys 0x30000 16 → (storing t).unbound pathSG k)
      ∧ Spans { storing t with drives := [] } (c.acc 7 .write) 0x22000 512 (spanKeys 0x22000 512) ∧ (∀ k, k ∈ spanKeys 0x22000 512 → k ∉ spanKeys 0x30000 16) := by
  intro t h
  have u : Flat { storing t with drives := [] } := ⟨rfl, rfl, rfl, (flat_storing t).owns⟩
  have q := quiet_storing t
  have c7 : flatCmd (storeRec t) 7 = true := by simp only [List.mem_cons, List.not_mem_nil, or_false] at h; rcases h with rfl | rfl <;> decide
  refine ⟨?_, ?_, ?_, ?_, ?_, ?_, ?_, ?_, ?_, ?_, ?_, ?_, q.settled _ _, reads_of (flat_storing t) q c7 (by decide), rfl, ?_, ?_, ?_,
    u.spans (flatCmd_acc c7 _) (by decide), fun k _ => unbound_row q.flow _ _, u.spans (flatCmd_acc c7 _) (by decide), fun k hk => spans_apart (by decide) hk⟩
  all_goals simp only [List.mem_cons, List.not_mem_nil, or_false] at h
  all_goals rcases h with rfl | rfl
  all_goals first | decide | exact (headerOk_of (by decide)).2

/-- A graph of one addition, at 0x40000, loaded in slot 7 of every controller; and a run over one row of one word. -/
def imageAt : List (Nat × Nat × Nat) := [(0x40000, 8, 0x0000FF0005010001), (0x40040, 8, 0x40400502)]
def flcfgRec (image : Nat) : Command := record [(0, 9), (8, 0x30000), (0x10, image), (0x19, 0xFF), (0x1A, 7)]
def flrunRec : Command := record [(0, 10), (8, 0x30000), (0x10, 0x22000), (0x18, 1), (0x1C, 4), (0x28, 7)]
def graph : Graph := { kind := 0, mfmt := .i32, outw := 0, out1 := none, paths := 0, ovf := false, nodes := [{ op := 2, fmt := .i32, in0 := 0x40, in1 := 0x40, in2 := 0, sel := 0, imm := 0 }], bound := [] }
def flowing (c : Command) : State := holding { flat with engines := [c], flow := [{ die := 0, ctrl := 2, slot := 7, graph := graph }] } imageAt
theorem flat_flowing (c : Command) : Flat (flowing c) := ⟨rfl, rfl, rfl, flat_flat.owns⟩
theorem quiet_flowing (c : Command) : Quiet (flowing c) := ⟨rfl, rfl, rfl, rfl, (by show [FSlot.mk 0 2 7 graph].all _ = true; decide), rfl⟩
/-- The bytes of the graph's image: its header, its node, and zeros. -/
def imageHead : List Byte := [1, 0, 1, 5, 0, 0xFF, 0, 0] ++ List.replicate 56 0 ++ [2, 5, 0x40, 0x40]
def padded (m : Nat) : List Byte := imageHead ++ List.replicate m 0
def img : List Byte := padded 8124
def imageCells : List Host.Cell := [(0x40000, 1), (0x40002, 1), (0x40003, 5), (0x40005, 0xFF), (0x40040, 2), (0x40041, 5), (0x40042, 0x40), (0x40043, 0x40)]
theorem padded_getD (m : Nat) {j : Nat} (h : 68 ≤ j) : (padded m).getD j 0 = 0 := by
  have hl : imageHead.length = 68 := by decide
  unfold padded
  rw [List.getD_eq_getElem?_getD, List.getElem?_append_right (by omega), List.getElem?_replicate]
  split <;> rfl
theorem zeros_all (n : Nat) : (List.replicate n (0 : Byte)).all (fun b => b == 0) = true :=
  List.all_eq_true.2 (fun b hb => by rw [List.eq_of_mem_replicate hb]; rfl)
theorem padded_drop (m : Nat) {o : Nat} (h : 68 ≤ o) : (padded m).drop o = List.replicate (m - (o - 68)) 0 := by
  have hl : imageHead.length = 68 := by decide
  unfold padded
  rw [List.drop_append, List.drop_of_length_le (by omega), List.nil_append, List.drop_replicate, hl]
theorem image_bytes (s : State) (h : s.mem.cells = imageCells) (hu : s.undef = []) : ((List.range 8192).map (fun j => 0x40000 + j)).map s.byteAt = img := by
  have e : ∀ j, s.byteAt (0x40000 + j) = img.getD j 0 := by
    intro j
    have r : s.byteAt (0x40000 + j) = cellsFind imageCells (0x40000 + j) := by unfold State.byteAt Memory.read; rw [hu, h]; rfl
    rw [r]
    by_cases hj : j < 68
    · clear r
      revert j
      decide
    · unfold img
      rw [padded_getD _ (by omega)]
      unfold imageCells
      simp only [cellsFind]
      repeat rw [if_neg (by omega)]
  apply List.ext_getElem (by rw [List.length_map, List.length_map, List.length_range]; unfold img padded; rw [List.length_append, List.length_replicate]; decide)
  intro j h1 h2
  rw [List.getElem_map, List.getElem_map, List.getElem_range, e, List.getD_eq_getElem?_getD, List.getElem?_eq_getElem h2, Option.getD_some]
theorem firstBad_none {l : List (Nat × Bool)} (h : ∀ x, x ∈ l → x.2 = true) : firstBad l = none := by
  unfold firstBad
  rw [List.find?_eq_none.2 (fun x hx => by simp [h x hx])]
  rfl
theorem leNat_zeros (n : Nat) : leNat (List.replicate n 0) = 0 := by
  induction n with
  | zero => rfl
  | succ n ih => rw [List.replicate_succ]; show _ + 256 * leNat _ = 0; rw [ih]; rfl
theorem img_tail {o n : Nat} (h : 68 ≤ o) : fieldAt img o n = 0 := by
  unfold fieldAt img
  rw [padded_drop _ h, List.take_replicate, leNat_zeros]
theorem img_zeros : (img.drop 0x440).all (fun b => b == 0) = true := by
  unfold img
  rw [padded_drop _ (by omega)]
  exact zeros_all _
theorem img_ok : imageBad img = none := by
  have hk : (parseGraph img).kind = 0 := by decide
  have hn : fieldAt img 2 1 = 1 := by decide
  unfold imageBad
  apply firstBad_none
  intro x hx
  simp only [hn, hk] at hx
  rw [List.mem_append, List.mem_append] at hx
  rcases hx with (hx | hx) | hx
  · revert x
    decide
  · obtain ⟨n, hn', hx⟩ := List.mem_flatMap.1 hx
    by_cases h0 : n = 0
    · subst h0
      revert x
      decide
    · rw [if_neg (by omega)] at hx
      unfold emptyChecks at hx
      simp [img_tail (show 68 ≤ 0x40 + 16 * n by omega), img_tail (show 68 ≤ 0x40 + 16 * n + 1 by omega), img_tail (show 68 ≤ 0x40 + 16 * n + 2 by omega), img_tail (show 68 ≤ 0x40 + 16 * n + 3 by omega)
        , img_tail (show 68 ≤ 0x40 + 16 * n + 4 by omega), img_tail (show 68 ≤ 0x40 + 16 * n + 5 by omega), img_tail (show 68 ≤ 0x40 + 16 * n + 6 by omega), img_tail (show 68 ≤ 0x40 + 16 * n + 8 by omega)
        , img_tail (show 68 ≤ 0x40 + 16 * n + 12 by omega)] at hx
      rcases hx with h | h | h | h | h | h | h | h | h <;> rw [h]
  · rw [List.mem_singleton.1 hx]
    exact img_zeros

theorem image_graph : parseGraph ((spanKeys 0x40000 8192).map (flowing (flcfgRec 0x40000)).byteAt) = graph := by
  unfold spanKeys
  rw [show ((0x40000 : W64).toNat) = 0x40000 by decide, image_bytes _ (by decide) rfl]
  decide
theorem image_ok : imageBad ((spanKeys 0x40000 8192).map (flowing (flcfgRec 0x40000)).byteAt) = none := by
  unfold spanKeys
  rw [show ((0x40000 : W64).toNat) = 0x40000 by decide, image_bytes _ (by decide) rfl]
  exact img_ok
theorem meets_FlowCommands : (∀ image, image ∈ [0, 0x40000] → let c := flcfgRec image
      c.canEnd (flowing c) pathFL 0 (spanKeys 0x30000 16) ∧ c.fld 0x10 8 % 64 = 0 ∧ c.fld 0x10 8 = image ∧ c.fld 0x18 1 < 64 ∧ (flowing c).ownsDie c.part (c.fld 0x18 1) = true ∧ (c.fld 0x19 1 ≤ 3 ∨ c.fld 0x19 1 = 0xFF)
        ∧ c.fld 0x1A 1 ≤ 7 ∧ c.fld 0x1B 37 = 0 ∧ c.site = 0 ∧ EReads (flowing c) c pathFL 0 0x40000 8192 ∧ (flowing c).clash c 0 [] = false)
    ∧ parseGraph ((spanKeys 0x40000 8192).map (flowing (flcfgRec 0x40000)).byteAt) = graph ∧ imageBad ((spanKeys 0x40000 8192).map (flowing (flcfgRec 0x40000)).byteAt) = none
    ∧ (let c := flrunRec
      let s := flowing c
      c.canEnd s pathFL 0 (spanKeys 0x30000 16) ∧ c.fld 0x18 4 = 1 ∧ c.fld 0x1C 4 = 4 ∧ c.fld 0x28 1 ≤ 7 ∧ c.fld 0x29 1 ≤ 1 ∧ c.fld 0x2A 6 = 0 ∧ c.fld 0x30 8 = 0 ∧ c.fld 0x38 8 = 0 ∧ graph.reads 0x41 = false
        ∧ graph.reads 0x42 = false ∧ (c.row 0x10 0) = 0x22000 ∧ EReads s c pathFL 0 0x22000 4 ∧ EWrites s c pathFL 0 0x22000 4 (spanKeys 0x30000 16)
        ∧ s.slotGraph ((spanKeys 0x22000 4).head?.bind arrayOf) (c.fld 0x28 1) = some graph) := by
  refine ⟨?_, image_graph, image_ok, canEnd_of (flat_flowing _) (quiet_flowing _) (by decide) (by decide) _, by decide, by decide, by decide, by decide, by decide, by decide, by decide, by decide, by decide,
    by decide, reads_of (flat_flowing _) (quiet_flowing _) (by decide) (by decide), writes_of (flat_flowing _) (quiet_flowing _) (by decide) (by decide) (by decide), by decide⟩
  intro image h
  simp only [List.mem_cons, List.not_mem_nil, or_false] at h
  rcases h with rfl | rfl <;>
    exact ⟨canEnd_of (flat_flowing _) (quiet_flowing _) (by decide) (by decide) _, by decide, by decide, by decide, by decide, by decide, by decide, by decide, rfl,
      reads_of (flat_flowing _) (quiet_flowing _) (by decide) (by decide), by decide⟩

/-! Schedulers, errors, walks and the outside. -/
/-- A gang in a state, waiting for the word at 0x20000 to be 0 or, where `hard`, to differ from 0. -/
def gangIn (st : GStatus) (waits : List (W64 × W32 × Nat)) : Gang := { loadGang with status := st, record := { loadGang.record with waits := waits, budget := 5 } }
def ganged (g : Gang) : State := { flat with gangs := [g], clock := 2 ^ 20, ticks := List.replicate 16 (2 ^ 20 * 1250000) }
theorem flat_ganged (g : Gang) : Flat (ganged g) := ⟨rfl, rfl, rfl, flat_flat.owns⟩
theorem meets_GangReadiness : flat.gangOf 9 = none ∧ (ganged (gangIn .ready [])).gangOf 1 = some (gangIn .ready [])
    ∧ (gangIn .ready []).since + 2 ^ 20 ≤ (ganged (gangIn .ready [])).ticksOf (gangIn .ready []).record.home ∧ ¬ ((gangIn .ready []).since + 2 ^ 20 ≤ flat.ticksOf 0)
    ∧ (gangIn .placed []).status = .placed ∧ (gangIn .placed []).record.budget ≠ 0 ∧ (gangIn .placed []).budget = 0
    ∧ (∀ st, st ∈ [GStatus.queued, .returned] → let s := ganged (gangIn st [(0x20000, 0, 0)])
      s.gangOf 1 = some (gangIn st [(0x20000, 0, 0)]) ∧ BitVec.ofNat 32 (leNat (s.pathBytes pathLS (spanKeys 0x20000 4))) = 0)
    ∧ (∀ st w, w ∈ (gangIn st [(0x20000, 0, 0)]).record.waits → Resident (ganged (gangIn st [(0x20000, 0, 0)])) ((gangIn st [(0x20000, 0, 0)]).acc .read) w.1 4 (spanKeys 0x20000 4)
      ∧ Sound (ganged (gangIn st [(0x20000, 0, 0)])) (spanKeys 0x20000 4) ∧ ∀ k, k ∈ spanKeys 0x20000 4 → (ganged (gangIn st [(0x20000, 0, 0)])).inBoundWindow k = false)
    ∧ ∃ f, (ganged (gangIn .queued [(0x100000000000000, 0, 0)])).resolveSpan ((gangIn .queued [(0x100000000000000, 0, 0)]).acc .read) 0x100000000000000 4 = .error f :=
  ⟨by decide, by decide, by decide, by decide, by decide, by decide, by decide, by decide,
    fun st w hw => (by cases List.mem_singleton.1 hw; exact ⟨(flat_ganged _).resident (flat_acc ..) (by decide) (by decide) (by decide), sound_none rfl rfl _, fun _ hk => (span_free _ (by decide) hk).1⟩), ⟨_, rfl⟩⟩

/-- A module whose one hart slot in use is off, with a ready gang. -/
def waiting : State := { ganged (gangIn .ready []) with hart := Hart.reset 0 }
/-- The same with a wait word that does not hold. -/
def waitful : State := { ganged (gangIn .ready [(0x20000, 0, 1)]) with hart := Hart.reset 0 }
theorem waitful_resident : Resident waitful ((gangIn .ready [(0x20000, 0, 1)]).acc .read) 0x20000 4 (spanKeys 0x20000 4) ∧ Sound waitful (spanKeys 0x20000 4) ∧ ∀ k, k ∈ spanKeys 0x20000 4 → waitful.inBoundWindow k = false :=
  ⟨Flat.resident (s := waitful) ⟨rfl, rfl, rfl, flat_flat.owns⟩ (flat_acc ..) (by decide) (by decide) (by decide), sound_none rfl rfl _, fun _ hk => (span_free _ (by decide) hk).1⟩
def killIt (asid : Nat) : SchedCmd := { die := 0, asid := asid, done := 0, mgmt := true }
/-- Commands of a supervisor of the gang's own partition, and of another. -/
def ownCmd (part : Nat) : SchedCmd := { die := 0, asid := 0, done := edge, mgmt := false, part := part }
theorem meets_PlacementAndCommands : waiting.gangOf 1 = some (gangIn .ready []) ∧ waiting.firstReady 0 = some (gangIn .ready []) ∧ waiting.choices = [] ∧ waiting.frames = []
    ∧ (waiting.fit (gangIn .ready []) [] 0).isSome = true ∧ (((waiting.fit (gangIn .ready []) [] 0).getD []).map (·.1)).Nodup
    ∧ waitHolds (BitVec.ofNat 32 (leNat (waitful.pathBytes pathLS (spanKeys 0x20000 4)))) 0 1 = false ∧ waitful.firstReady 0 = some (gangIn .ready [(0x20000, 0, 1)])
    ∧ (waitful.fit (gangIn .ready [(0x20000, 0, 1)]) [] 0).isSome = true ∧ (ganged (gangIn .halting [])).gangOf 1 = some (gangIn .halting []) ∧ (ganged (gangIn .halting [])).hart.gang = 1 ∧ (ganged (gangIn .halting [])).hart.status = .running
    ∧ (onHart (fun h => { h with status := .halted })).hart.status = .halted ∧ (∀ x, x ∈ flat.allHarts → x.id = 0 → flat.halting x = false)
    ∧ (ownCmd 0).mgmt = false ∧ loadGang.part = (ownCmd 0).part ∧ loadGang.part ≠ (ownCmd 1).part ∧ doneFlat.matched (ownCmd 0) = [doneGang] ∧ doneFlat.matched (ownCmd 1) = [doneGang] ∧ doneGang.part = loadGang.part
    ∧ flat.matched (killIt 0) = [loadGang] ∧ flat.matched (killIt 1) = [] ∧ loadGang.slots ≠ [] ∧ loadGang.status = .placed ∧ flat.frames = [] ∧ (loadGang.slots.map (·.1)).Nodup
    ∧ (∀ h, h ∈ flat.allHarts → h.status.placed = true → loadGang.record.cores.contains h.core = true → h.gang = loadGang.id) ∧ (1, Instr.kill (killIt 1)) ∈ [(1, Instr.kill (killIt 1))] := by decide

/-- A corrected error of the line at 0x20000 that no read has met. -/
def scratched : State := { flat with flaws := [{ point := 2, first := 0x20000, fatal := false }] }
theorem meets_ErrorEvents : 0x20000 < 2 ^ 41 ∧ flat.populated 0x20000 = true ∧ 2 ^ 41 ≤ 2 ^ 41 ∧ flat.populated (2 ^ 35 - 1) = false
    ∧ (∀ f, f ∈ flat.flaws → ¬ (f.point = 2 ∧ f.first = 0x20000)) ∧ scratched.populated 0x20000 = true
    ∧ scratched.flaws.filter (fun f => f.point == 2 && f.first == 0x20000) = [{ point := 2, first := 0x20000, fatal := false }]
    ∧ partOk 0 (some 3) 8 0 = true ∧ partOk 0 none 1 64 = true ∧ partOk 0 none 8 0 = false ∧ 1 < 8
    ∧ 3 ≤ (({ flat with errTimes := [(1, 64, 5), (1, 64, 2 ^ 30), (1, 64, 2 ^ 30 + 5)] } : State).errTimes.filter (fun e => e.1 == 1 && e.2.1 == 64 && decide (5 ≤ e.2.2) && decide (e.2.2 ≤ 5 + 2 ^ 30))).length
    ∧ 1 ≤ 1 ∧ flat.errTimes = []
    ∧ (∀ g, g ∈ State.reset.gangs → g.status.live = true → g.record.cores.any [0].contains = false) := by decide
/-- The loaded machine with A and D clear in the entry of its first GiB. -/
def unset : State := holding State.reset.loaded [(0x1000, 8, 0x2001), (0x2000, 8, 0x3001), (0x3000, 8, 0x4001), (0x4000, 8, 0xD0F)]
/-- The loaded machine walks its tables: its TLB is empty. -/
theorem meets_TableWalks : canonical 0x20000 = true ∧ inAperture 0x20000 = false ∧ (∃ l, State.reset.loaded.walk 0 0 0x20000 = .ok l ∧ State.reset.loaded.groupLeaf l = (l, State.reset.loaded) ∧ entryFault l.level l.pte = none
      ∧ State.reset.loaded.leafCheck (State.reset.loaded.hart.acc .write true) l.pte (leafPa l.pte (leafBytes l.level (ptePs l.pte)) 0x20000) = none
      ∧ ∃ f, ({ State.reset.loaded with hart := asUser.hart } : State).leafCheck (asUser.hart.acc .read true) l.pte (leafPa l.pte (leafBytes l.level (ptePs l.pte)) 0x20000) = some f)
    ∧ canonical 0x100000000000000 = false ∧ inAperture 0xFFFFFF0000000000 = true ∧ (∃ f, State.reset.loaded.walk 0 0 0x40000000 = .error f)
    ∧ flat.tlb.find? (fun e => e.home == 0 && e.matches (flat.hart.acc .write true) 0x20000 && pteA e.pte && !needsDirty (flat.hart.acc .write true) e.pte) = some (flatEntry 0)
    ∧ (∀ kind e, State.reset.loaded.tlbFind (State.reset.loaded.hart.acc kind true) 0x20000 ≠ some e)
    ∧ unset.walk 0 0 0x20000 = .ok { pte := 0xD0F, at' := 0x4000, level := 2 } ∧ unset.groupLeaf { pte := 0xD0F, at' := 0x4000, level := 2 } = ({ pte := 0xD0F, at' := 0x4000, level := 2 }, unset)
    ∧ entryFault 2 0xD0F = none ∧ (∀ e, unset.tlbFind (unset.hart.acc .write true) 0x20000 ≠ some e)
    ∧ unset.leafCheck (unset.hart.acc .write true) 0xD0F (leafPa 0xD0F (leafBytes 2 (ptePs 0xD0F)) 0x20000) = none ∧ (∀ ks, Sound unset ks ∧ Sound State.reset.loaded ks) :=
  ⟨by decide, by decide, ⟨{ pte := 0xDCF, at' := 0x4000, level := 2 }, rfl, by decide, by decide, by decide, ⟨_, rfl⟩⟩, by decide, by decide, ⟨_, rfl⟩, by decide,
    fun _ _ h => (by cases h), rfl, by decide, by decide, fun _ h => (by cases h), by decide, fun _ => ⟨sound_none rfl rfl _, sound_none rfl rfl _⟩⟩

def report (sig ver : Bool) (dies stks : List Nat) (mesh : List (Nat × Nat)) (dog : Bool) : BootReport :=
  { image := [], signatureOk := sig, versionOk := ver, badDies := dies, badCores := [], badStacks := stks, badHostLink := false, badMesh := mesh, badGrehal := [5], watchdog := dog, failed := [] }
/-- A line whose stored check does not match its bytes. -/
def unchecked : State := { flat with checks := [(0x20000, 1)] }
/-- Bytes of memory that function 3 reaches, and bytes it does not; bytes of a module register; a line that fails its check. -/
theorem meets_HostEvents_bytes : (flat.inBar2 3 0x20000 16 = true ∧ flat.inBar2 3 (2 ^ 35 - 1) 1 = false ∧ (leBytes 16 3).length = 16 ∧ leNat (leBytes 16 3) % 256 = 3
      ∧ (∀ k, k ∈ (List.range 2).map (fun j => 2 ^ 41 + j) → isRegSpace k = true) ∧ ∀ k, k ∈ (List.range 16).map (fun j => 0x20000 + j) → k < 2 ^ 41 ∧ flat.populated k = true)
    ∧ Sound flat ((List.range 16).map (fun j => 0x20000 + j)) ∧ unchecked.inBar2 3 0x20000 1 = true ∧ unchecked.flawed 0x20000 = false ∧ unchecked.mismatch 0x20000 = true :=
  ⟨by decide, sound_none rfl rfl _, by decide⟩
/-- The block of partition 0 with the low bytes of its ASTB written: DIES stays, START is not written. -/
def blockBytes : List Byte := (List.range 52).map (fun j => if 8 ≤ j ∧ j < 8 + 4 then [1, 2, 3, 4].getD (j - 8) 0 else (flat.pblock 0).bytes.getD j 0)
theorem meets_HostEvents : (pathCP < 7 ∧ pathCP ≠ pathWN ∧ flat.bootstat.getLsbD 0 = false) ∧ (List.replicate 32 (0 : Byte)).length = 32 ∧ 5 ∉ flat.down ∧ 5 ∈ ({ flat with down := [5] } : State).down
    ∧ ({ flat with turns := [.bar2 3 0x1000000000] } : State).turns = [.bar2 3 0x1000000000] ∧ ({ flat with turns := [.route 5 [3, 16]] } : State).turns = [.route 5 [3, 16]]
    ∧ (∀ g, g ∈ State.reset.gangs → g.part = 63 → g.status.live = true → g.record.dies.any (fun d => (State.reset.pblock 63).dies.getLsbD d && !(1 : W64).getLsbD d) = false)
    ∧ fieldAt blockBytes 0 8 = (flat.pblock 0).dies.toNat ∧ fieldAt blockBytes 0x2C 4 ≠ 1 ∧ ({ flat with bootstat := 1 } : State).bootstat.getLsbD 0 = true
    ∧ State.reset.gangs.any (fun g => g.part == 0 && g.supervisor && g.status.live) = false ∧ ({ flat with starting := true } : State).starting = true ∧ flat.starting = false := by decide
/-- Power-on reports: all well but for die 5 and stack 6; a die 0 that fails, and its stack; a mesh link between working dies, after one to die 5; an image that is not signed, or too old;
a start that hangs. -/
theorem meets_HostEvents_power : (let b := report true true [5] [6] [(4, 5)] false
      b.signatureOk = true ∧ b.versionOk = true ∧ 0 ∉ b.badDies ∧ 0 ∉ b.badStacks ∧ b.badHostLink = false ∧ b.failed = [] ∧ b.watchdog = false ∧ ∀ l, l ∈ b.badMesh → l.2 ∈ b.badDies)
    ∧ 0 ∈ (report true true [0] [] [] false).badDies ∧ 0 ∈ (report true true [] [0] [] false).badStacks ∧ (report true true [5] [] [(4, 5), (7, 6)] false).badMesh = [(4, 5)] ++ (7, 6) :: []
    ∧ (report false true [] [] [] false).signatureOk = false ∧ (report true false [] [] [] false).versionOk = false ∧ (report true true [] [] [] true).watchdog = true
    ∧ ({ report true true [] [] [] false with badHostLink := true } : BootReport).badHostLink = true
    ∧ (let b : BootReport := { report true true [] [] [] false with failed := [⟨0, none, 2, 64⟩, ⟨3, some 1, 8, 0⟩] }
      ∀ p, p ∈ b.failed → partOk p.die p.core p.point p.addr = true) := by decide
/-- A gang record at 0x20000, where SREC points: ASID 0, SUPV, one hart of core 0 with 1 MiB. -/
def starting : State := holding { State.reset with parts := [(0, { testBlock with srec := 0x20000 })] } [(0x20000, 8, 0x10000), (0x20028, 8, 0x2802), (0x20030, 8, 0x100100000), (0x20038, 8, 0x0100000100000000)]
theorem meets_HostEvents_start : starting.bootstat.getLsbD 0 = false ∧ starting.gangs.any (fun g => g.part == 0 && g.supervisor && g.status.live) = false
    ∧ Sound starting ((List.range 128).map (fun j => (starting.pblock 0).srec.toNat + j))
    ∧ (let bs := starting.keyBytes ((List.range 128).map (fun j => (starting.pblock 0).srec.toNat + j))
      (parseGang bs).asid = 0 ∧ (parseGang bs).supv = true ∧ starting.launchCode 0 0 false bs = 0)
    ∧ (let bs := State.reset.keyBytes ((List.range 128).map (fun j => (State.reset.pblock 1).srec.toNat + j))
      (parseGang bs).supv = false) := ⟨by decide, by decide, sound_none rfl rfl _, by decide, by decide⟩
/-! The elements of vector instructions, convoys and spans. -/
/-- What the statements about elements ask of an instruction at a state: it can run alone, its operands are as they should be, and its registers' windows are apart. -/
def givesB (s : State) (p : Instr × Bool) : Bool := readyB p.1 s && p.2 && (infoOf p.1 s.hart).any (fun v => apartB s.hart (v.reads ++ v.writes))
theorem gives_of {s : State} {p : Instr × Bool} (h : givesB s p = true) : ∃ v, infoOf p.1 s.hart = some v ∧ Ready p.1 s ∧ p.2 = true ∧ WindowsApart s (v.reads ++ v.writes) := by
  simp only [givesB, Bool.and_eq_true] at h
  obtain ⟨v, h1, h2⟩ := info_of h.2
  exact ⟨v, h1, ready_of h.1.1, h.1.2, h2⟩
/-- All registers hold fractions. -/
def fractions : State := tagged (List.replicate 8 .p16) 4
theorem meets_FloatElements : floats.hart.csr.mode ≠ 5 ∧ (∀ n, n ∈ [1, 2, 3] → floats.hart.opTag (floats.hart.vop n) = .f32) ∧ Tag.f32.isFloat = true
    ∧ (let h := floats.hart
      ([(.vaddVv false false 1 2 3, h.binaryOk true true false 3 2 1), (.vaddVx false true 1 2 3, h.unaryOk true true false 3 2), (.vfma false false 1 2 3, h.fmaOk 3 2 1),
        (.vsqrt false false 1 0 3, h.unaryOk false true false 3 1), (.vabs false false 1 0 3, h.unaryOk true true false 3 1)] : List (Instr × Bool)).all (givesB floats) = true) := by decide
theorem meets_IntegerForms : (∀ n, n ∈ [1, 2, 3] → words.hart.opTag (words.hart.vop n) = .i32) ∧ Tag.i32.isInt = true
    ∧ (let h := words.hart
      ([(.vsllVv false false 1 2 3, h.binaryOk true false false 3 2 1), (.vdivVv false true 1 2 3, h.binaryOk true true false 3 2 1), (.vfma false false 1 2 3, h.fmaOk 3 2 1),
        (.vabs false false 1 0 3, h.unaryOk true true false 3 1), (.vmov false false 1 0 3, h.moveOk 3 1), (.vsplat false false 1 3, h.splatOk 3)] : List (Instr × Bool)).all (givesB words) = true) := by decide
theorem meets_CompareElements : words.hart.opTag (words.hart.vop 2) = .i32 ∧ floats.hart.opTag (floats.hart.vop 2) = .f32
    ∧ ([(.vcmpEqVv false false 1 2 3, words.hart.compareOk 2 1), (.vcmpLtVx false false 1 2 3, words.hart.compareXOk 2)] : List (Instr × Bool)).all (givesB words) = true
    ∧ givesB floats (.vscmpLt false false 1 2 3, floats.hart.compareOk 2 1) = true ∧ (Csr.reset.tempVal.isZero ∨ Csr.reset.tempVal.isInf = false)
    ∧ ({ Csr.reset with temp := 0 } : Csr).tempVal.isZero = true ∧ ({ Csr.reset with temp := 0x3F800000 } : Csr).tempVal.isZero = false := by decide
theorem meets_FixedPointElements : narrow.hart.opTag (narrow.hart.vop 3) = narrow.hart.opTag (narrow.hart.vop 2)
    ∧ (let h := narrow.hart
      ([(.vwmacVv false false 1 0 2, h.widenVVOk 2 0 1), (.vwmacVx false false 1 0 2, h.widenVXOk 2 0), (.vsad false false 1 0 2, h.widenVVOk 2 0 1), (.vnshr false false 0 2 1, h.narrowOk 1 2 0),
        (.vclip false false 0 2 3, h.clipOk 3 2 0)] : List (Instr × Bool)).all (givesB narrow) = true) := by decide
theorem meets_ReductionElements : (∀ n, n ∈ [1, 2, 3] → words.hart.opTag (words.hart.vop n) = .i32) ∧ Tag.i32.isInt = true
    ∧ (let h := words.hart
      ([(.vredSum false true 1 2, h.unaryOk true true true 2 1), (.vredAnd false false 1 2, h.unaryOk true false true 2 1), (.vredoSum false false 1 2 3, h.binaryOk true true true 3 2 1),
        (.vscanAdd false true 1 2, h.unaryOk true true true 2 1)] : List (Instr × Bool)).all (givesB words) = true) := by decide
theorem meets_PermuteElements : (words.hart.csr.estart.toNat ≤ words.hart.csr.vlN ∧ words.hart.opTag (words.hart.vop 2) = words.hart.opTag (words.hart.vop 3) ∧ Tag.i32.isBx = false ∧ Tag.i32.isInt = true)
    ∧ (let h := words.hart
      ([(.vrgather false true 1 2 3, h.gatherOk 3 2 1), (.vslidedn false true 1 2 3, h.copyOk 3 2), (.vslideup false true 1 2 3, h.copyOk 3 2), (.vcompress false 1 2 3, h.copyOk 3 2 && h.maskOk),
        (.vexpand false 1 2 3, h.copyOk 3 2 && h.maskOk), (.vmergeM false 1 2 3, h.mergeOk 3 2 1), (.vtrans8 false 0, h.trans8Ok 0), (.vid false true 3, h.numberOk 3), (.viota false true 1 3, h.iotaOk 3 1),
        (.vins false 1 2 3, h.pickOk 3)] : List (Instr × Bool)).all (givesB words) = true) := by decide
theorem meets_ProbabilityElements : floats.hart.csr.mode ≠ 5 ∧ floats.hart.opTag (floats.hart.vop 2) = floats.hart.opTag (floats.hart.vop 3) ∧ fractions.hart.opTag (fractions.hart.vop 3) = .p16
    ∧ (let h := floats.hart
      ([(.pandInd false true 1 2 3, h.maskOk), (.pnot false false 1 0 3, h.maskOk), (.pthr false false 1 3, h.maskOk), (.pcoll false false 1 3, h.maskOk), (.pblendM false 1 2 3, h.blendOk 3 2 1 && h.maskOk),
        (.pbgrad false false 1 2 3, h.blendOk 3 2 1), (.pgrad false true 1 3, h.gradOk 3), (.pgradSt false true 1 3, h.gradOk 3)] : List (Instr × Bool)).all (givesB floats) = true)
    ∧ ([(.pmovV false false 1 3, fractions.hart.pmovOk 3), (.pmovM false false 3 1, fractions.hart.pmovOk 3)] : List (Instr × Bool)).all (givesB fractions) = true := by decide
theorem meets_IntegerElements : (∃ w, infoOf (.vaddVv false false 1 2 3) words.hart = some w ∧ WindowsApart words (w.reads ++ w.writes)) ∧ Ready (.vaddVv false false 1 2 3) words
    ∧ words.hart.binaryOk true false false 3 2 1 = true ∧ words.hart.opTag (words.hart.vop 2) = words.hart.opTag (words.hart.vop 3) ∧ (words.hart.opTag (words.hart.vop 3)).isInt = true :=
  ⟨info_of (by decide), ready_of (by decide), by decide, by decide, by decide⟩

/-- Instructions at the PC, in a span or none, over words. -/
def issuing (sp : Option Span) (is : List Instr) : State :=
  { words with hart := { (words.hart.setG 1 0x100000000000000) with span := sp, csr := { words.hart.csr with tvec := 0x20000 } }
               mem := { cells := (is.flatMap encodeBytes).mapIdx (fun j b => (0x10000 + j, b)) |>.filter (fun c => c.2 != 0) } }
theorem issuing_part (sp : Option Span) (is : List Instr) {n : Nat} (h : 0 < n) (hn : n ≤ 8) : FetchesPart (issuing sp is) n (issuing sp is) ((issuing sp is).keyBytes (spanKeys 0x10000 n)) :=
  Flat.fetches (s := issuing sp is) ⟨rfl, rfl, rfl, flat_flat.owns⟩ ⟨rfl, rfl, rfl, rfl, rfl, rfl⟩ (flat_of _ _ _ rfl rfl rfl rfl) (n := n) (show 0x10000 + n ≤ 0x40000000 by omega) h
    (show 0x10000 % 4096 + n ≤ 4096 by omega)
theorem issuing_fetched (sp : Option Span) (is : List Instr) (h : lengthOf (leNat ((issuing sp is).keyBytes (spanKeys 0x10000 2))) = 4) :
    Fetched (issuing sp is) (issuing sp is) ((issuing sp is).keyBytes (spanKeys 0x10000 4)) :=
  ⟨(by show (0x10000 : W64).getLsbD 0 = false; decide), _, _, issuing_part sp is (n := 2) (by decide) (by decide), .inr ⟨by rw [h]; decide, by rw [h]; exact issuing_part sp is (by decide) (by decide)⟩⟩

/-- A sum that opens a convoy, and what follows it: element numbers, which do not meet it and which do; a load from an address that does not translate. -/
def opener : Instr := .vaddVv true false 1 2 3
def convoyed : State := issuing none [opener, .vid false false 6, .halt]
def broken : State := issuing none [opener, .vid false false 3, .halt]
def trapping : State := issuing none [opener, .vld false false false false false 1 6, .halt]
/-- What runs when a state's opener is issued, with a convoy stopped at `limit`: the members and the machine after them. -/
noncomputable def runsTo (s : State) (limit : Option Nat) (P : Gather → State → Bool) : Bool :=
  (infoOf opener s.hart).any (fun v => s.hart.opensConvoy v && (match runMembers exec (fun _ => none) 0 (s.convoyOf opener v).members (s.setHart (s.hart.enterConvoy limit)) with
    | .next t => P (s.convoyOf opener v) t
    | _ => false))
theorem meets_ConvoyRuns : (MyTurn convoyed ∧ Fetched convoyed convoyed (convoyed.keyBytes (spanKeys 0x10000 4)) ∧ decode (convoyed.keyBytes (spanKeys 0x10000 4)) = .ok (opener, [])
      ∧ runsTo convoyed none (fun g t => g.members.length == 2 && g.broken.isNone && t.hart.wait == .none && t.hart.convoy.all (fun c => c.trap.isNone)) = true)
    ∧ runsTo broken none (fun g _ => g.members.length == 1 && g.broken.isSome) = true
    ∧ (MyTurn trapping ∧ Fetched trapping trapping (trapping.keyBytes (spanKeys 0x10000 4)) ∧ decode (trapping.keyBytes (spanKeys 0x10000 4)) = .ok (opener, [])
      ∧ runsTo trapping none (fun g t => g.members.length == 2 && t.hart.wait == .none && t.hart.convoy.any (fun c => c.trapMember == 1 && c.trap.any (fun t => t.2.2.1 == some 0))) = true
      ∧ runsTo trapping (some 0) (fun g t => (match g.members[1]? with | some m => let u := (meetTrap exec m 1 0x02 0x100000000000000 (some 0) [] t).hart.csr; u.tvec != 0 && !u.tstat.getLsbD 0 | none => false)) = true) :=
  ⟨⟨⟨rfl, by decide, rfl⟩, issuing_fetched _ _ (by decide), rfl, by decide +kernel⟩, by decide +kernel, ⟨⟨rfl, by decide, rfl⟩, issuing_fetched _ _ (by decide), rfl, by decide +kernel, by decide +kernel⟩⟩

/-- A span that skips one more instruction, and one whose end the convoy at the PC would cross. -/
def skipping : State := issuing (some { left := 1, skip := true, members := [] }) [.vaddVv false false 1 2 3]
def crossing : State := issuing (some { left := 0, skip := true, members := [{ cls := some .load, reads := [], writes := [], gWrite := none }] }) [.vaddVv false false 1 2 3]
theorem meets_SpanSkips : (MyTurn skipping ∧ Fetched skipping skipping (skipping.keyBytes (spanKeys 0x10000 4)) ∧ decode (skipping.keyBytes (spanKeys 0x10000 4)) = .ok (.vaddVv false false 1 2 3, [])
      ∧ (infoOf (.vaddVv false false 1 2 3) skipping.hart).any (fun v => v.queue == qVq && v.ill.isNone && skipping.hart.skips v && !(v.matrix && skipping.owesTile)) = true)
    ∧ (MyTurn crossing ∧ Fetched crossing crossing (crossing.keyBytes (spanKeys 0x10000 4)) ∧ HasHandler crossing
      ∧ (infoOf (.vaddVv false false 1 2 3) crossing.hart).any (fun v => v.queue == qVq && v.ill.isNone && crossing.hart.spanBreaks v == some 0x15) = true) :=
  ⟨⟨⟨rfl, by decide, rfl⟩, issuing_fetched _ _ (by decide), rfl, by decide⟩, ⟨rfl, by decide, rfl⟩, issuing_fetched _ _ (by decide), ⟨by decide, by decide⟩, by decide⟩

/-! One step on a small state; the results expected are those the rules give. -/
/-- R237: addition wraps. -/
theorem test_add_wraps : after (.add 2 1 3) (withG 0xFFFFFFFFFFFFFFFF 2) (fun t => (t.gr 3, t.hart.pc)) = some (1, 0x10004) := by decide
/-- R203: g0 discards a write. -/
theorem test_add_g0 : after (.add 2 1 0) (withG 5 2) (fun t => (t.gr 0, t.gr 1, t.hart.pc)) = some (0, 5, 0x10004) := by decide
/-- R238: a zero divisor. -/
theorem test_div_zero : (after (.div 2 1 3) (withG 7 0) (fun t => t.gr 3), after (.rem 2 1 3) (withG 7 0) (fun t => t.gr 3)) = (some 0xFFFFFFFFFFFFFFFF, some 7) := by decide
/-- R238: the quotient that overflows. -/
theorem test_div_overflow : after (.div 2 1 3) (withG 0x8000000000000000 0xFFFFFFFFFFFFFFFF) (fun t => t.gr 3) = some 0x8000000000000000 := by decide
/-- R237: the upper half of a signed product. -/
theorem test_mulh : after (.mulh 2 1 3) (withG 0xFFFFFFFFFFFFFFFF 2) (fun t => t.gr 3) = some 0xFFFFFFFFFFFFFFFF := by decide
/-- R240: liw keeps the low 32 bits. -/
theorem test_liw : after (.liwLong 1 3 0x12345678) (withG 0xAAAAAAAA9ABCDEF0 0) (fun t => t.gr 3) = some 0x123456789ABCDEF0 := by decide
/-- R241: a branch counts halfwords from itself. -/
theorem test_bne : after (.bne 0x3FFF 1) (withG 1 0) (fun t => t.hart.pc) = some 0xFFFE := by decide
/-- R242: jalr jumps through the old value of the register it links into. -/
theorem test_jalr_same : after (.jalrLong 0 1 1) (withG 0x20001 0) (fun t => (t.hart.pc, t.gr 1)) = some (0x20000, 0x10008) := by decide
/-- R146, R147: a byte is sign-extended, and the displacement counts access sizes. -/
theorem test_ld_b : after (.ldB 3 1 2) (holding (withG 0x20000 0) [(0x20003, 1, 0x80)]) (fun t => t.gr 2) = some 0xFFFFFFFFFFFFFF80 := by decide
/-- R146, R147: a doubleword is stored with its lowest byte first. -/
theorem test_st_d : after (.stD 1 1 2) (withG 0x20000 0x0807060504030201) (fun t => (List.range 8).map (fun j => t.byteAt (0x20008 + j))) = some [1, 2, 3, 4, 5, 6, 7, 8] := by decide
/-- R151, R153: amo.max compares signed words, and gives the old one sign-extended. -/
theorem test_amo_max : after (.amoMax 0 0 2 1 3 false) (holding (withG 0x20000 5) [(0x20000, 4, 0xFFFFFFFE)]) (fun t => (t.gr 3, t.byteAt 0x20000, t.byteAt 0x20003)) = some (0xFFFFFFFFFFFFFFFE, 5, 0) := by decide
/-- R148, R389: a misaligned form takes ALIGN with its address. -/
theorem test_align : after (.ldDA8 0 1 2) { handled with hart := handled.hart.setG 1 0x20004 } (fun t => (t.hart.csr.tcause, t.hart.csr.tval, t.hart.csr.tpc, t.hart.pc)) = some (4, 0x20004, 0x10000, 0x20000) := by decide
/-- R250, R389: ecall keeps its own address, and the mode before. -/
theorem test_ecall : after .ecall { handled with hart := { handled.hart with sup := false } } (fun t => (t.hart.csr.tcause, t.hart.csr.tpc, t.hart.csr.tstat, t.hart.sup, t.hart.pc)) = some (0xC, 0x10000, 1, true, 0x20000) := by decide
/-- R251: tret goes back in the mode that was saved. -/
theorem test_tret : after .tret (onCsr (fun c => { c with tvec := 0x20000, tpc := 0x10010, tstat := 1 })) (fun t => (t.hart.pc, t.hart.sup, t.hart.csr.tstat)) = some (0x10010, false, 0) := by decide
/-- R248: halt is for supervisor mode. -/
theorem test_halt_user : after .halt { handled with hart := { handled.hart with sup := false } } (fun t => (t.hart.csr.tcause, t.hart.csr.tval, t.hart.status)) = some (3, 1, .running) := by decide
/-- R213: MVL for VCFG = 0 under RW = 2 (32 bits): one register of 8 KiB. -/
theorem test_csr_mvl : after (.csrs 0x003 0 3) flat (fun t => t.gr 3) = some 2048 := by decide
/-- R268: vsetl grants no more than MVL. -/
theorem test_vsetl : after (.vsetl 1 3) (withG 5000 0) (fun t => (t.gr 3, t.hart.csr.vl)) = some (2048, 2048) := by decide
/-- Two bytes in v1 and in v2. -/
def bytePair : State := { tagged (List.replicate 8 .u8) 2 with mem := { cells := [(chamberKey 8192, 200), (chamberKey 8193, 1), (chamberKey 16384, 100), (chamberKey 16385, 2)] } }
/-- R272: integer elements wrap. -/
theorem test_vadd_wraps : after (.vaddVv false false 2 1 3) bytePair (fun t => (List.range 2).map (t.codeOf (.reg 3 1) .u8)) = some [44, 3] := by decide +kernel
/-- R272: saturating addition clamps. -/
theorem test_vsadd_clamps : after (.vsaddVv false false 2 1 3) bytePair (fun t => (List.range 2).map (t.codeOf (.reg 3 1) .u8)) = some [255, 3] := by decide +kernel
/-- R279: a compare writes 1 and 0 as probabilities. -/
theorem test_vcmp : after (.vcmpGtVv false false 2 1 3) bytePair (fun t => (List.range 2).map (t.maskOf 3)) = some [0x8000, 0] := by decide
/-- R284: an integer sum over the active elements. -/
theorem test_vred_sum : after (.vredSum false false 1 3) bytePair (fun t => t.codeOf (.reg 3 1) .u8 0) = some 201 := by decide
/-- R190: with no other hart the barrier opens at once. -/
theorem test_gbar : after .gbar flat (fun t => (t.hart.pc, t.hart.wait)) = some (0x10004, .none) := by decide
/-- R188, R189: the last hart ends the gang. -/
theorem test_gexit : after .gexit flat (fun t => (t.hart.status, t.gangs.map (·.status))) = some (.ended, [.ended]) := by decide

/-! The form of instructions: a term for each check of `Instr.wf`, which refuses it. -/
theorem test_ill_formed_pairs : ([.ldQA16 0 1 3, .stQA16 0 1 31, .ldQA16Long 1 3 0, .stQA16Long 1 3 0, .ldA 4 0 1 3, .stR 4 0 1 3, .amoSwapA16 0 0 2 1 3, .amoSwapA16 0 0 3 1 2, .amoCasA16 0 0 3 1 2, .vflat 1 3] : List Instr).all (fun i => !i.wf) = true := by decide
theorem test_ill_formed_fields : ([.ldA 5 0 1 2, .ldA 0 5 1 2, .stR 5 0 1 2, .stRLong 0 5 1 2 0, .amoAdd 1 5 2 1 3 true, .amoAdd 0 1 2 1 3 true, .amoSwapA16 0 1 2 1 4, .fence 5, .fenceX 5 1 1, .wfm 5 1 2 3,
    .xpa false false false true 0 32 0, .xps false false true false 32 0 0, .xpaI true false true true 0 0 0] : List Instr).all (fun i => !i.wf) = true := by decide
/-- A step of another agent has no word. -/
theorem test_ill_formed_events : ([.wfmWake, .advance, .kill (killIt 0), .copy copyRec, .powerOn (report true true [] [] [] false)] : List Instr).all (fun i => !i.wf) = true := by decide
/-- Words the decoder refuses (R20): an unassigned MAJ, an unassigned FN, a nonzero field that must be zero (R16), a scope of 5, a pair at an odd register, and a long form where there is none. -/
theorem test_refused_words : ([(32, 0xFFFFFFFD), (32, 0xFF800001), (32, 0x00002049), (32, 0x1400004D), (32, 0x00340331), (64, 0x0000000100000003)] : List (Nat × Nat)).all (fun w => (decodeTableWord w.1 w.2).isNone) = true := by decide

end Sys2Proof.Tests
end

section
namespace Sys2Proof.Machine

/-! Where a scalar access traps (R35, R42, R148): an instruction with one access ends in ALIGN, or in the trap of its access. -/

/-- What an instruction with outcome `o` does whose one access is `m`: ALIGN at a misaligned address where its form must be aligned, and else the trap that `m` ends in. -/
def TrapsWith {α : Type} (s : State) (o : Host.Outcome State Fault Refusal) (m : M α) (ea : W64) (n : Nat) (al : Bool) : Prop :=
  (al = true → ea.toNat % n ≠ 0 → o = .next (s.endWrites.takeTrap (alignTrap ea (s.hart.scalarQueue ea))))
  ∧ ((al = true → ea.toNat % n = 0) → ∀ t u, m s = .error t u → o = .next (u.endWrites.takeTrap t))

theorem needAligned_ok {ea : W64} {n : Nat} (h : ea.toNat % n = 0) (q : Nat) (s : State) : needAligned ea n q s = .ok () s := by
  unfold needAligned check
  rw [h]; rfl

theorem needAligned_trap {ea : W64} {n : Nat} (h : ea.toNat % n ≠ 0) (q : Nat) (s : State) : needAligned ea n q s = .error (alignTrap ea q) s := by
  unfold needAligned check
  rw [beq_false_of_ne h]; rfl

/-- An access with no check of its address before it. -/
theorem trapsWith_plain {α : Type} (s : State) (len : Nat) (m : M α) (k : α → M Ctl) (ea : W64) (n : Nat) : TrapsWith s (runInstr len (m >>= k) s) m ea n false := by
  refine ⟨fun h => (nomatch h), fun _ t u hm => runInstr_trap ?_⟩
  show EStateM.bind m k s = _
  simp only [EStateM.bind, hm]

/-- An access whose address must be aligned. -/
theorem trapsWith_aligned {α : Type} (s : State) (len : Nat) (m : M α) (k : α → M Ctl) (ea : W64) (n : Nat) :
    TrapsWith s (runInstr len (needAligned ea n (s.hart.scalarQueue ea) >>= fun _ => m >>= k) s) m ea n true := by
  refine ⟨fun _ h => runInstr_trap ?_, fun h t u hm => runInstr_trap ?_⟩
  · show EStateM.bind _ _ s = _
    simp only [EStateM.bind, needAligned_trap h]
  · show EStateM.bind _ (fun _ => EStateM.bind m k) s = _
    simp only [EStateM.bind, needAligned_ok (h rfl), hm]

/-! The instructions' shapes. -/

theorem loadScalar_trapsWith (s : State) (len size : Nat) (flagged acquire signed : Bool) (d : GReg) (ea : W64) :
    TrapsWith s (loadScalar len size flagged acquire signed d ea s) (loadAs ea size true flagged acquire (s.hart.scalarQueue ea)) ea size flagged := by
  cases flagged with
  | false => exact trapsWith_plain s len _ _ ea size
  | true => exact trapsWith_aligned s len _ _ ea size

theorem loadPair_trapsWith (s : State) (len : Nat) (acquire : Bool) (d : GReg) (ea : W64) :
    TrapsWith s (loadPair len acquire d ea s) (loadAs ea 16 true true acquire (s.hart.scalarQueue ea)) ea 16 true := trapsWith_aligned s len _ _ ea 16

theorem storeScalar_trapsWith (s : State) (len size : Nat) (flagged release : Bool) (d : GReg) (ea : W64) :
    TrapsWith s (storeScalar len size flagged release d ea s) (storeAs ea (leBytes size (s.gr d).toNat) true false flagged release false (s.hart.scalarQueue ea)) ea size flagged := by
  cases flagged with
  | false => exact trapsWith_plain s len _ _ ea size
  | true => exact trapsWith_aligned s len _ _ ea size

theorem storePair_trapsWith (s : State) (len : Nat) (quad : Bool) (d : GReg) (ea : W64) :
    TrapsWith s (storePair len quad d ea s)
      (storeAs ea (leBytes 8 (s.gr d).toNat ++ leBytes 8 (s.gr (pairHi d)).toNat) true quad true (!quad) false (s.hart.scalarQueue ea)) ea 16 true :=
  trapsWith_aligned s len _ _ ea 16

theorem atomicScalar_trapsWith (s : State) (len : Nat) (od : BitVec 2) (wide : Bool) (d : GReg) (ea : W64) (f : Nat → Option Nat) :
    TrapsWith s (atomicScalar len od wide d ea f s) (atomicAt ea (if wide then 8 else 4) true (acquires od) (releases od) (s.hart.scalarQueue ea) f) ea (if wide then 8 else 4) true :=
  trapsWith_aligned s len _ _ ea _

theorem atomicPair_trapsWith (s : State) (len : Nat) (od : BitVec 2) (d : GReg) (ea : W64) (f : Nat → Option Nat) :
    TrapsWith s (atomicPair len od d ea f s) (atomicAt ea 16 true (acquires od) (releases od) (s.hart.scalarQueue ea) f) ea 16 true := trapsWith_aligned s len _ _ ea 16

theorem watch_trapsWith (s : State) (b a d : GReg) :
    TrapsWith s (s.watch b a d) (loadAs (s.gr a) 4 false true true (s.hart.scalarQueue (s.gr a))) (s.gr a) 4 true := trapsWith_aligned s 4 _ _ (s.gr a) 4

/-! The traps of an access. -/

/-- An access ends in the fault of its translation, with the machine as it was where the walk meets no error; one that reads ends in POISON at the first poisoned byte, with
what the walk has met and the record of the poison, and neither A nor D set (R35, R42, R144, R391). -/
def Faults {α : Type} (s : State) (m : M α) (kind : AKind) (dev : Bool) (ea : W64) (n : Nat) : Prop :=
  (∀ f, SoundWalk s (s.hart.acc kind dev) ea n → s.resolveSpan (s.hart.acc kind dev) ea n = .error f → m s = .error (trap f.cause f.tval (s.hart.scalarQueue ea)) s)
  ∧ (kind ≠ .write → ∀ ks s1 j k, Reaches s kind dev ea n ks s1 → (kind = .amo → Plain ks) → Sound (s.withErrors s1) ks → (s.withErrors s1).firstPoison 0 ks = some (j, k) →
    m s = .error (poisonTrap (ea + BitVec.ofNat 64 j) (s.hart.scalarQueue ea)) ((s.withErrors s1).logPoison 5 k))

theorem loadAs_faults (s : State) (ea : W64) (n : Nat) (dev one acquire : Bool) : Faults s (loadAs ea n dev one acquire (s.hart.scalarQueue ea)) .read dev ea n :=
  ⟨fun _ hw hr => loadAs_fault hr hw, fun _ _ _ _ _ hr _ hs hp => loadAs_poison hr hs hp⟩

/-- A store whose translation fails traps with the fault. -/
theorem storeAs_fault {s : State} {va : W64} {bs : List Byte} {quad one release whole : Bool} {q : Nat} {f : MFault}
    (hr : s.resolveSpan (s.hart.acc .write true) va bs.length = .error f) (hw : SoundWalk s (s.hart.acc .write true) va bs.length) :
    storeAs va bs true quad one release whole q s = .error (trap f.cause f.tval q) s := by
  unfold storeAs
  cases quad with
  | false =>
    show EStateM.bind (resolvePlain (s.hart.acc .write true) va bs.length q) _ s = _
    simp only [EStateM.bind, resolvePlain_fault hr hw]
  | true =>
    show EStateM.bind (resolveM (s.hart.acc .write true) va bs.length q) _ s = _
    simp only [EStateM.bind, resolveM_fault hr hw]

theorem storeAs_faults (s : State) (ea : W64) {bs : List Byte} {n : Nat} (hn : bs.length = n) (quad one release whole : Bool) :
    Faults s (storeAs ea bs true quad one release whole (s.hart.scalarQueue ea)) .write true ea n :=
  ⟨fun _ hw hr => storeAs_fault (hn ▸ hr) (hn ▸ hw), fun h => absurd rfl h⟩

theorem atomicAt_faults (s : State) (ea : W64) (n : Nat) (acquire release : Bool) (f : Nat → Option Nat) :
    Faults s (atomicAt ea n true acquire release (s.hart.scalarQueue ea) f) .amo true ea n := by
  refine ⟨fun g hw hr => ?_, fun _ ks s1 j k hr hp hs hf => ?_⟩
  all_goals
    unfold atomicAt
    show EStateM.bind (translateClean (resolvePlain (s.hart.acc .amo true) ea n _) _) _ s = _
  · simp only [EStateM.bind, translateClean_fault (resolvePlain_fault hr hw)]
  · simp only [EStateM.bind, translateClean, resolvePlain_ok hr (hp rfl), needClean_poison hs hf]

/-! Every scalar access. -/

/-- An instruction with one access, of a kind, that ends in ALIGN or in a trap of that access. -/
def ScalarAccess (s : State) (i : Instr) (kind : AKind) (dev : Bool) (ea : W64) (n : Nat) (al : Bool) : Prop :=
  ∃ (α : Type) (m : M α), TrapsWith s (exec i s) m ea n al ∧ Faults s m kind dev ea n

/-- ld.a is an access of its size. -/
theorem loadAcquire_access (s : State) (len : Nat) (sz : BitVec 3) (d : GReg) (ea : W64) :
    ∃ m : M (List Byte), TrapsWith s (loadAcquire len sz d ea s) m ea (2 ^ sz.toNat) true ∧ Faults s m .read true ea (2 ^ sz.toNat) := by
  unfold loadAcquire
  split
  · next h => subst h; exact ⟨_, loadPair_trapsWith s len true d ea, loadAs_faults s ea 16 true true true⟩
  · exact ⟨_, loadScalar_trapsWith s len _ true true false d ea, loadAs_faults s ea _ true true true⟩

/-- st.r is an access of its size. -/
theorem storeRelease_access (s : State) (len : Nat) (sz : BitVec 3) (d : GReg) (ea : W64) :
    ∃ m : M Unit, TrapsWith s (storeRelease len sz d ea s) m ea (2 ^ sz.toNat) true ∧ Faults s m .write true ea (2 ^ sz.toNat) := by
  unfold storeRelease
  split
  · next h => subst h; exact ⟨_, storePair_trapsWith s len false d ea, storeAs_faults s ea (by simp) _ _ _ _⟩
  · exact ⟨_, storeScalar_trapsWith s len _ true true d ea, storeAs_faults s ea (leBytes_length _ _) _ _ _ _⟩

section
variable (s : State) (i : Instr) (len : Nat) (d : GReg) (ea : W64)

/-- A scalar load is an access of its size. -/
theorem scalarAccess_load {size : Nat} {flagged signed : Bool} (h : exec i s = loadScalar len size flagged false signed d ea s) : ScalarAccess s i .read true ea size flagged :=
  ⟨_, _, h ▸ loadScalar_trapsWith s len size flagged false signed d ea, loadAs_faults s ea size true flagged false⟩
theorem scalarAccess_loadPair (h : exec i s = loadPair len false d ea s) : ScalarAccess s i .read true ea 16 true :=
  ⟨_, _, h ▸ loadPair_trapsWith s len false d ea, loadAs_faults s ea 16 true true false⟩
theorem scalarAccess_store {size : Nat} {flagged : Bool} (h : exec i s = storeScalar len size flagged false d ea s) : ScalarAccess s i .write true ea size flagged :=
  ⟨_, _, h ▸ storeScalar_trapsWith s len size flagged false d ea, storeAs_faults s ea (leBytes_length _ _) _ _ _ _⟩
theorem scalarAccess_storePair (h : exec i s = storePair len true d ea s) : ScalarAccess s i .write true ea 16 true :=
  ⟨_, _, h ▸ storePair_trapsWith s len true d ea, storeAs_faults s ea (by simp) _ _ _ _⟩
theorem scalarAccess_amo {od : BitVec 2} {wide : Bool} {f : Nat → Option Nat} (h : exec i s = atomicScalar len od wide d ea f s) :
    ScalarAccess s i .amo true ea (if wide then 8 else 4) true :=
  ⟨_, _, h ▸ atomicScalar_trapsWith s len od wide d ea f, atomicAt_faults s ea _ _ _ f⟩
theorem scalarAccess_amoPair {od : BitVec 2} {f : Nat → Option Nat} (h : exec i s = atomicPair len od d ea f s) : ScalarAccess s i .amo true ea 16 true :=
  ⟨_, _, h ▸ atomicPair_trapsWith s len od d ea f, atomicAt_faults s ea _ _ _ f⟩
end

/-- Every scalar load, store and atomic, and `wfm`, is a scalar access of its kind and size. -/
theorem scalarAccesses (s : State) (imm : BitVec 10) (od : BitVec 2) (sz sc : BitVec 3) (b a d : GReg) (wide : Bool) (imm32 : W32) :
    Claims.ScalarAccesses s imm od sz sc b a d wide imm32 (ScalarAccess s) := by
  refine ⟨?ldB, ?ldBu, ?ldH, ?ldHu, ?ldW, ?ldWu, ?ldD, ?ldDA8, ?ldQ, ?stB, ?stH, ?stW, ?stD, ?stDA8, ?stQ, fun _ => ?ordered,
    ?add, ?and, ?or, ?xor, ?min, ?max, ?minu, ?maxu, ?swap, ?cas, ?swapPair, ?casPair, ?wfm⟩
  case ldQ => exact ⟨scalarAccess_loadPair s _ _ _ _ rfl, scalarAccess_loadPair s _ _ _ _ rfl⟩
  case stQ => exact ⟨scalarAccess_storePair s _ _ _ _ rfl, scalarAccess_storePair s _ _ _ _ rfl⟩
  case ordered =>
    exact ⟨⟨_, loadAcquire_access s 4 sz d _⟩, ⟨_, loadAcquire_access s 8 sz d _⟩, ⟨_, storeRelease_access s 4 sz d _⟩, ⟨_, storeRelease_access s 8 sz d _⟩⟩
  case swapPair => exact ⟨scalarAccess_amoPair s _ _ _ _ rfl, scalarAccess_amoPair s _ _ _ _ rfl⟩
  case casPair => exact ⟨scalarAccess_amoPair s _ _ _ _ rfl, scalarAccess_amoPair s _ _ _ _ rfl⟩
  case wfm => exact ⟨_, _, watch_trapsWith s b a d, loadAs_faults s _ 4 false true true⟩
  case stB | stH | stW | stD | stDA8 => exact ⟨scalarAccess_store s _ _ _ _ rfl, scalarAccess_store s _ _ _ _ rfl⟩
  case add | and | or | xor | min | max | minu | maxu | swap | cas => exact ⟨scalarAccess_amo s _ _ _ _ rfl, scalarAccess_amo s _ _ _ _ rfl⟩
  case ldB | ldBu | ldH | ldHu | ldW | ldWu | ldD | ldDA8 => exact ⟨scalarAccess_load s _ _ _ _ rfl, scalarAccess_load s _ _ _ _ rfl⟩

/-- What holds of every scalar access in one way holds in any weaker way. -/
theorem scalarAccesses_mono {s : State} {imm : BitVec 10} {od : BitVec 2} {sz sc : BitVec 3} {b a d : GReg} {wide : Bool} {imm32 : W32}
    {P Q : Instr → AKind → Bool → W64 → Nat → Bool → Prop} (h : ∀ {i kind dev ea n al}, P i kind dev ea n al → Q i kind dev ea n al) :
    Claims.ScalarAccesses s imm od sz sc b a d wide imm32 P → Claims.ScalarAccesses s imm od sz sc b a d wide imm32 Q := by
  have both : ∀ {i j k v ea fa n al}, P i k v ea n al ∧ P j k v fa n al → Q i k v ea n al ∧ Q j k v fa n al := And.imp h h
  unfold Claims.ScalarAccesses
  iterate 15 refine And.imp both ?_
  refine And.imp (fun g hz => And.imp h (And.imp h both) (g hz)) ?_
  iterate 12 refine And.imp both ?_
  exact h

/-! A load that meets a bit error that can be corrected (R48, R393). -/

/-- The log of a die is that of the die. -/
theorem State.elog_die (s : State) (d : Nat) : (s.elog d).die = d := by
  unfold State.elog
  split
  · next l h => simpa using List.find?_some h
  · rfl

theorem State.elog_setElog (s : State) (l : ErrLog) (d : Nat) : (s.setElog l).elog d = if l.die = d then l else s.elog d := by
  unfold State.setElog State.elog
  by_cases h : l.die = d
  · simp [h]
  · have e : ∀ ls : List ErrLog, (ls.filter (fun x => x.die != l.die)).find? (fun x => x.die == d) = ls.find? (fun x => x.die == d) := by
      intro ls
      induction ls with
      | nil => rfl
      | cons x ls ih =>
        by_cases hx : x.die = l.die
        · rw [List.filter_cons_of_neg (by simp [hx]), List.find?_cons_of_neg (by simp [hx, h]), ih]
        · rw [List.filter_cons_of_pos (by simp [hx]), List.find?_cons, List.find?_cons, ih]
    simp [h, e]

/-- An occurrence added to a log is its newest record, merged or not, and unread. -/
theorem ErrLog.add_newest (l : ErrLog) (r : ErrRec) : ∃ n x rest, (l.add r).recs = (n, x) :: rest ∧ x.cls = r.cls ∧ x.point = r.point ∧ x.core = r.core ∧ x.addr = r.addr
    ∧ x.time = r.time ∧ x.read = false := by
  unfold ErrLog.add
  match hl : l.recs with
  | [] => exact ⟨_, _, _, rfl, rfl, rfl, rfl, rfl, rfl, rfl⟩
  | (n, o) :: rest =>
    dsimp only
    split
    · next h => exact ⟨n, _, rest, rfl, h.1, h.2.1, h.2.2.1, h.2.2.2, rfl, rfl⟩
    · exact ⟨_, _, _, rfl, rfl, rfl, rfl, rfl, rfl, rfl⟩

theorem ErrLog.add_die (l : ErrLog) (r : ErrRec) : (l.add r).die = l.die := by
  unfold ErrLog.add
  dsimp only
  split
  · split <;> rfl
  · rfl

/-- The logs after an occurrence is logged on a die. -/
theorem State.elog_logError (s : State) (d cls point core addr aux k : Nat) : (s.logError d cls point core addr aux).elog k
    = if d = k then (s.elog d).add { cls := cls, point := point, core := core, count := 1, addr := addr, time := s.ticksOf d, aux := aux, read := false } else s.elog k := by
  have e := s.elog_setElog ((s.elog d).add { cls := cls, point := point, core := core, count := 1, addr := addr, time := s.ticksOf d, aux := aux, read := false }) k
  rw [ErrLog.add_die, State.elog_die] at e
  rw [← e]
  unfold State.logError
  dsimp only
  split <;> rfl

/-- An occurrence that is logged stands in its die's log as the newest record. -/
theorem State.logError_logged (s : State) (d cls point core addr aux : Nat) : Logged s (s.logError d cls point core addr aux) d cls point core addr := by
  refine ⟨?_, fun k hk => by rw [State.elog_logError, if_neg (Ne.symm hk)]⟩
  obtain ⟨n, x, rest, h, h1, h2, h3, h4, h5, h6⟩ := (s.elog d).add_newest
    { cls := cls, point := point, core := core, count := 1, addr := addr, time := s.ticksOf d, aux := aux, read := false }
  exact ⟨n, x, rest, by rw [State.elog_logError, if_pos rfl]; exact h, h1, h2, h3, h4, h5, h6⟩

section
variable {s : State} {f : Flaw} (hf : s.flaws = [f]) (hn : f.fatal = false)
include hf hn

/-- The only bit error, met and corrected: it stands no more, poisons nothing, and is logged as class 1. -/
theorem State.meetFlaw_corrected : (s.meetFlaw f).flaws = [] ∧ (s.meetFlaw f).poison = s.poison
    ∧ Logged s (s.meetFlaw f) (errorPlace f.first).1 1 f.point (errorPlace f.first).2.1 (errorPlace f.first).2.2 := by
  have e : ∃ aux, s.meetFlaw f = ({ s with flaws := [] } : State).logError (errorPlace f.first).1 1 f.point (errorPlace f.first).2.1 (errorPlace f.first).2.2 aux := by
    refine ⟨Config.syndrome (errorPlace f.first).2.2 (s.elog (errorPlace f.first).1).head % 2 ^ 64, ?_⟩
    unfold State.meetFlaw
    simp only [hf, hn, List.filter_cons, bne_self_eq_false, List.filter_nil, Bool.false_eq_true, if_false]
    rfl
  obtain ⟨aux, e⟩ := e
  obtain ⟨l, x, e'⟩ := State.logError_frame ({ s with flaws := [] } : State) (errorPlace f.first).1 1 f.point (errorPlace f.first).2.1 (errorPlace f.first).2.2 aux
  exact ⟨by rw [e, e'], by rw [e, e'], e ▸ State.logError_logged { s with flaws := [] } _ 1 _ _ _ aux⟩

end

/-- Bytes over the only bit error, where every check matches, meet that error and no other. -/
theorem State.inspect_flaw {s : State} {f : Flaw} {ks : List Nat} (hf : s.flaws = [f]) (hk : ∃ k ∈ ks, f.covers k = true) (hc : s.checks = []) (point : Nat) (checked : List Nat) :
    s.inspect point ks checked = s.meetFlaw f := by
  have he : s.expose ks = s.meetFlaw f := by
    unfold State.expose
    simp only [hf, List.filter_cons, List.any_eq_true.2 hk, if_true, List.filter_nil, List.foldl_cons, List.foldl_nil]
  have hm : (s.meetFlaw f).checks = [] := by rw [← s.meetFlaw_errors f]; exact hc
  have hb : (s.meetFlaw f).badChecks checked = [] := by
    unfold State.badChecks
    rw [List.filter_eq_nil_iff.2 fun k _ => by simp [State.mismatch, hm]]
    rfl
  unfold State.inspect
  simp only [he, hb, List.foldl_nil]

/-- Where the bank has read the bytes and found none poisoned, the access goes on from what it has met. -/
theorem needClean_inspect {s : State} {ks : List Nat} (ref : State) (a : Acc) (va : W64) (q : Nat)
    (h : ∀ k ∈ ks, isRegSpace k = false → (s.inspect 1 ks (ref.checkedKeys a va ks)).poisoned k = false) :
    needClean ref a va ks q s = .ok () (s.inspect 1 ks (ref.checkedKeys a va ks)) := by
  unfold needClean cleanOr
  simp only [State.firstPoison_none _ ks 0 h]

/-- Bytes outside module register space read on a path as before, whatever errors have been met. -/
theorem OnlyErrors.pathBytes {s t : State} (h : OnlyErrors s t) (path : Nat) {ks : List Nat} (hp : Plain ks) : t.pathBytes path ks = s.pathBytes path ks := by
  rw [← h]
  refine List.map_congr_left fun k hk => ?_
  unfold State.pathByte State.keyByte
  rw [hp k hk]
  rfl

theorem OnlyErrors.taint_unbound {s t : State} (h : OnlyErrors s t) {ks : List Nat} (hb : ∀ k ∈ ks, s.inBoundWindow k = false) : t.taint ks = t := by
  have e : ks.filter t.inBoundWindow = [] := List.filter_eq_nil_iff.2 fun k hk => by
    rw [← h]
    show ¬ s.inBoundWindow k = true
    simp [hb k hk]
  unfold State.taint
  rw [e]
  rfl

/-- A load whose bytes are clean, with what that has met, gives the bytes as they stand. -/
theorem loadAs_clean {s u : State} {va : W64} {n q : Nat} {dev one acquire : Bool} {ks : List Nat} (h : resolveClean (s.hart.acc .read dev) va n q s = .ok ks u)
    (hs : Seen u u.hart.id pathLS ks) : ∃ w, loadAs va n dev one acquire q s = .ok (u.pathBytes pathLS ks) { (u.afterRead ks) with unseen := w } := by
  obtain ⟨e1, w, e2, -⟩ := State.look_seen (m := { ((u.manner pathLS).sized va n (one || acquire)) with acquire := acquire }) hs
  refine ⟨w, ?_⟩
  unfold loadAs
  show EStateM.bind (resolveClean (s.hart.acc .read dev) va n q) (fun ks s => readAs { ((s.manner pathLS).sized va n (one || acquire)) with acquire := acquire } ks s) s = _
  simp only [EStateM.bind, h]
  unfold readAs
  rw [e1, e2, State.afterRead_unseen]
  rfl

/-- A load over the only bit error, which can be corrected, goes on with the bytes as they stand. -/
theorem loadAs_corrected {s : State} {va : W64} {n q : Nat} {dev one acquire : Bool} {ks : List Nat} {f : Flaw} (hr : Reaches s .read dev va n ks s) (hp : Plain ks)
    (hs : Seen s s.hart.id pathLS ks) (hf : s.flaws = [f]) (hn : f.fatal = false) (hc : s.checks = []) (hq : s.poison = []) (hk : ∃ k ∈ ks, f.covers k = true)
    (hb : ∀ k ∈ ks, s.inBoundWindow k = false) : ∃ w, loadAs va n dev one acquire q s = .ok (s.pathBytes pathLS ks) { (s.meetFlaw f) with unseen := w } := by
  have only := s.meetFlaw_errors f
  have hu : ∀ ref : State, needClean ref (s.hart.acc .read dev) va ks q s = .ok () (s.meetFlaw f) := by
    intro ref
    have e := State.inspect_flaw hf hk hc 1 (ref.checkedKeys (s.hart.acc .read dev) va ks)
    rw [← e]
    refine needClean_inspect ref _ va q fun k _ _ => ?_
    rw [e, State.poisoned, (State.meetFlaw_corrected hf hn).2.1, hq]
    rfl
  have hseen : Seen (s.meetFlaw f) (s.meetFlaw f).hart.id pathLS ks := by rw [← only]; exact hs
  obtain ⟨w, h⟩ := loadAs_clean (one := one) (acquire := acquire) (translateClean_ok (resolveM_ok (q := q) hr) (hu s) (hu s)) hseen
  exact ⟨w, by rw [h, only.pathBytes pathLS hp, State.afterRead_plain _ hp, only.taint_unbound hb]⟩

/-- A scalar load whose access gives bytes writes their value and completes. -/
theorem loadScalar_done {s u : State} {len size : Nat} {flagged acquire signed : Bool} {d : GReg} {ea : W64} {bs : List Byte} (hfit : flagged = true → ea.toNat % size = 0)
    (h : loadAs ea size true flagged acquire (s.hart.scalarQueue ea) s = .ok bs u) :
    loadScalar len size flagged acquire signed d ea s
      = .next ((u.setG d (if signed then signExtend64 size (leNat bs) else BitVec.ofNat 64 (leNat bs))).endWrites.advance len) := by
  refine runInstr_seq ?_
  cases flagged with
  | false =>
    show EStateM.bind (loadAs ea size true false acquire _) _ s = _
    simp only [EStateM.bind, h]
    rfl
  | true =>
    show EStateM.bind (needAligned ea size _) (fun _ => EStateM.bind (loadAs ea size true true acquire _) _) s = _
    simp only [EStateM.bind, needAligned_ok (hfit rfl), h]
    rfl

/-- Settles O8: each scalar access traps as `scalarAccesses` says, and a load goes on over a corrected error (`loadAs_corrected`). -/
theorem scalarAccessTraps : Obligations.ScalarAccessTraps := by
  intro s imm od sz sc b a d wide imm32
  have all := scalarAccesses s imm od sz sc b a d wide imm32
  refine ⟨scalarAccesses_mono ?align all, scalarAccesses_mono ?fault all, scalarAccesses_mono ?poison all, ?corrected⟩
  case align =>
    rintro i kind dev ea n al ⟨_, _, ⟨halign, _⟩, _⟩
    exact halign
  case fault =>
    rintro i kind dev ea n al ⟨_, _, ⟨_, htrap⟩, hfault, _⟩ hfit hw f hr
    exact htrap hfit _ _ (hfault f hw hr)
  case poison =>
    rintro i kind dev ea n al ⟨_, _, ⟨_, htrap⟩, _, hpoison⟩ hkind hfit ks s1 j k hr hplain e hs hj hreg hp hfirst
    have hf : e.firstPoison 0 ks = some (j, k) := by rw [State.firstPoison_some e ks 0 j k hj hreg hp hfirst, Nat.zero_add]
    exact htrap hfit _ _ (hpoison hkind ks s1 j k hr hplain hs hf)
  case corrected =>
    intro f ks ea hr hp hs hf hn hc hq hk hb
    obtain ⟨w, hload⟩ := loadAs_corrected (q := s.hart.scalarQueue ea) (one := false) (acquire := false) hr hp hs hf hn hc hq hk hb
    obtain ⟨hflaws, hpoison, hlog⟩ := State.meetFlaw_corrected hf hn
    have hh : (s.meetFlaw f).hart = s.hart := (s.meetFlaw_errors f).walked.hart
    have hgr : ∀ r, ({ (s.meetFlaw f) with unseen := w } : State).gr r = s.gr r := fun r => congrArg (fun h => h.gr r) hh
    refine ⟨_, loadScalar_done (len := 4) (signed := false) (d := d) nofun hload, ⟨?_, rfl⟩, fun r => ?_, hflaws, hpoison.trans hq, hlog⟩
    · simp [hh]
    · rw [State.advance_gr, State.endWrites_gr, State.gr_setG, hgr]
      rfl

end Sys2Proof.Machine
end

section
namespace Sys2Proof.Machine

/-! A 64 KiB group whose entries disagree (R32): the access that a walk resolves there is held by the micro-TLB. -/

/-- A supervisor hart whose tables map VA 0 by a 64 KiB leaf at PA 0 (V, R, W, A, D, IDEM, PS = 1), the only valid entry of its group of 16; no choice is given. -/
def tornGroup : State :=
  { State.reset with
    hart := loadHart
    parts := [(0, { dies := 1, astb := 0x1000, ctxp := 0, srec := 0, ns := 0, share := 0, pstat := 0 })]
    mem := { cells := [(0x1000, 0x01), (0x1001, 0x20), (0x2000, 0x01), (0x2001, 0x30), (0x3000, 0x01), (0x3001, 0x40), (0x4000, 0x01), (0x4001, 0x50), (0x5000, 0x01), (0x5001, 0x60),
      (0x6000, 0xC7), (0x6001, 0x05)] } }

/-- The leaf of VA 0 there. -/
def tornLeaf : Leaf := { pte := 0x5C7, at' := 0x6000, level := 0 }

/-- What a computation that succeeds gives. -/
theorem eq_ok_of_toOption {ε α : Type} {x : Except ε α} {a : α} (h : x.toOption = some a) : x = .ok a := by
  cases x with
  | error _ => cases h
  | ok _ => cases h; rfl

theorem tornGroup_walk : tornGroup.walk 0 0 0 = .ok tornLeaf := eq_ok_of_toOption (by decide)

/-- The entries disagree, but with no choice given the one picked is the leaf that the walk read, and picking it changes nothing. -/
theorem tornGroup_groupLeaf : tornGroup.groupSplit tornLeaf = true ∧ tornGroup.groupLeaf tornLeaf = (tornLeaf, tornGroup) := by decide

theorem tornGroup_sound (ks : List Nat) : Sound tornGroup ks := fun _ _ => ⟨rfl, by simp [State.mismatch, show tornGroup.checks = [] from rfl]⟩

/-- A read of VA 0 puts the entry picked into the micro-TLB, which was empty. -/
theorem tornGroup_holds : (tornGroup.resolveSpan (tornGroup.hart.acc .read true) 0 1).map (fun r => r.2.utlb.length) = .ok 1 :=
  eq_ok_of_toOption (by decide)

/-- Refutes O56: in its last clause `groupLeaf l = (l, s)` does not keep out a 64 KiB group whose entries disagree (R32), since with no choice given the VA's own entry is the one
picked. The access then leaves that entry in the micro-TLB of its core (`State.holdPicked`), and a store to memory does not change a TLB, so that `t.rememory s = s` fails. The
state is `tornGroup`, the access a read of VA 0. -/
theorem not_tableWalks : ¬ Obligations.TableWalks := by
  intro h
  obtain ⟨-, -, -, -, hacc⟩ := h tornGroup 0 false
  have hmiss : ∀ e, tornGroup.tlbFind (tornGroup.hart.acc .read true) 0 = some e → pteA e.pte = false ∨ (false = true ∧ pteD e.pte = false) := fun _ he => nomatch he
  obtain ⟨t, hspan, hmem, -⟩ := hacc .read true tornLeaf (tornGroup_sound _) (by decide) (by decide) hmiss tornGroup_walk tornGroup_groupLeaf.2 (by decide) (by decide)
  have hone : t.utlb.length = 1 := by
    have hheld := tornGroup_holds
    rw [hspan] at hheld
    exact Except.ok.inj hheld
  have hnone : t.utlb = [] := (congrArg State.utlb hmem : (t.rememory tornGroup).utlb = tornGroup.utlb)
  rw [hnone] at hone
  exact absurd hone (by decide)

end Sys2Proof.Machine
end
